-- ==== Sys2Proof/Word.lean ====
section
/-! DEFINITION. The plain data that every other file is written with: bytes, samples, the numbered things of the part
(inputs, ports, chips, channels, consumer seats, lanes, parties) and `Tab`, a table of a fixed number of cells. -/

namespace Sys2Proof

/-- One byte of a record, a channel word or a bus reply. -/
abbrev Byte := BitVec 8

/-- A 24-bit sample as the converters deliver it and as a slot carries it (Conventions, "Samples"). -/
abbrev Sample := BitVec 24

/-- Input n of the manual (1 to 48) is index n - 1 (Conventions, "Numbering"). -/
abbrev Input := Fin 48

/-- Split port Sn (1 to 6) is index n - 1. -/
abbrev Port := Fin 6

/-- Preamp chip n (1 to 6) is index n - 1. -/
abbrev Chip := Fin 6

/-- Channel k of a chip, 0 to 7 as the manual counts it (R97). -/
abbrev Channel := Fin 8

/-- Consumer entry n of the consumer table (1 to 6) is seat n - 1; table index 0 is the panel entry (R21). -/
abbrev Seat := Fin 6

/-- The seven lane units: lane P and S1 to S6. -/
inductive LaneId where
  /-- Lane P, of the front-panel controller. -/
  | panel
  /-- The control lane of a split port. -/
  | split (p : Port)
deriving DecidableEq, Repr

/-- The lane's number as records code it: 0 for lane P, 1 to 6 for S1 to S6 (R163). -/
def LaneId.idx : LaneId → Fin 7
  | .panel => 0
  | .split p => p.succ

/-- Who may hold a pair, own an input or wait for one: the panel entry or a consumer entry (R21, R39). -/
inductive Party where
  /-- The panel entry, table index 0. -/
  | panel
  /-- The consumer of one of the six consumer entries. -/
  | consumer (k : Seat)
deriving DecidableEq, Repr

/-- A table of exactly `n` cells. The length is carried with the data, so that every index of `Fin n` has a cell. -/
structure Tab (n : Nat) (α : Type) where
  /-- The cells in index order. -/
  cells : List α
  /-- There are `n` of them. -/
  size : cells.length = n
deriving DecidableEq, Repr

/-- The cell at an index. -/
def Tab.get {n : Nat} {α : Type} (t : Tab n α) (i : Fin n) : α :=
  t.cells[i.val]'(by rw [t.size]; exact i.isLt)

/-- The table with one cell replaced. -/
def Tab.set {n : Nat} {α : Type} (t : Tab n α) (i : Fin n) (x : α) : Tab n α :=
  ⟨t.cells.set i.val x, by rw [List.length_set, t.size]⟩

/-- The table with one cell changed by a function of what it held. -/
def Tab.modify {n : Nat} {α : Type} (t : Tab n α) (i : Fin n) (f : α → α) : Tab n α :=
  t.set i (f (t.get i))

/-- The table whose cells are given by a function of the index. -/
def Tab.ofFn {n : Nat} {α : Type} (f : Fin n → α) : Tab n α :=
  ⟨List.ofFn f, List.length_ofFn⟩

/-- The table with the same value in every cell. -/
def Tab.const (n : Nat) {α : Type} (x : α) : Tab n α :=
  ⟨List.replicate n x, List.length_replicate⟩

/-- Every cell changed by one function. -/
def Tab.map {n : Nat} {α β : Type} (t : Tab n α) (f : α → β) : Tab n β :=
  ⟨t.cells.map f, by rw [List.length_map, t.size]⟩

/-- Every cell changed by a function of its index and what it held. -/
def Tab.imap {n : Nat} {α β : Type} (t : Tab n α) (f : Fin n → α → β) : Tab n β :=
  Tab.ofFn fun i => f i (t.get i)

/-- All inputs in ascending order. -/
def allInputs : List Input := List.finRange 48

/-- All split ports in ascending order. -/
def allPorts : List Port := List.finRange 6

/-- All chips in ascending order. -/
def allChips : List Chip := List.finRange 6

/-- All consumer entries in ascending order. -/
def allSeats : List Seat := List.finRange 6

/-- Every party that may hold a pair: the panel entry, then the consumer entries in index order. -/
def allParties : List Party := Party.panel :: allSeats.map Party.consumer

end Sys2Proof
end

