-- ==== Sys2Proof/Config.lean ====
section
/-! DEFINITION. What the manual leaves to chance or to the implementation (free values, with no body, so that no proof
can see them), and the fixed numbers of the manual that several files share. -/

namespace Sys2Proof.Config

/-- FREE VALUE (notes/assumptions/7.md). R134: each entry to OFFER draws "a random 32-bit value". The n-th nonce that
the machine draws is `freeNonce n`; nothing constrains it. -/
opaque freeNonce : Nat → BitVec 32

/-- Time is counted in twelfths of a microsecond, the largest unit in which both sample periods of R117 (20 5/6 and
10 5/12 microseconds) are whole numbers. -/
def unitsPerMicrosecond : Nat := 12

/-- The keep timer's length, 10 s (R29). -/
def keepTime : Nat := 10 * 1000000 * unitsPerMicrosecond

/-- QUERY_CONSUMER reports the keep time in units of 100 ms (R38). -/
def keepReportUnit : Nat := 100000 * unitsPerMicrosecond

/-- A pause of more than 44 microseconds gives a gap mark (R150). -/
def gapTime : Nat := 44 * unitsPerMicrosecond

/-- One character takes 11 microseconds (R149). -/
def characterTime : Nat := 11 * unitsPerMicrosecond

/-- A receive queue holds at most 512 characters (R151). -/
def receiveRoom : Nat := 512

/-- A transmit queue holds at most 512 bytes (R151, R159). -/
def transmitRoom : Nat := 512

/-- The room that taking a record needs and that a notice must leave free (R158, R160). -/
def reserve : Nat := 96

/-- Every counter is 16 bits wide and stays at 65535. -/
def counterTop : Nat := 65535

end Sys2Proof.Config
end

