-- ==== Sys2Proof/Syntax.lean ====
section
/-! DEFINITION. The commands: one constructor of `Instr` for each row of spec/opcode_table.json. Rows that are requests
or bring-up records carry the lane they come in on, their tag and the bytes of their fields as sent (R163 to R165);
rows that are events carry what the event names. -/

namespace Sys2Proof

/-- How a preamp bus read was replied to (R99). -/
inductive ReadReply where
  /-- No reply began within 20 microseconds. -/
  | silent
  /-- A first byte arrived, and the second one followed it or did not. -/
  | bytes (first : Byte) (second : Option Byte)
deriving DecidableEq, Repr

/-- The part's steps, one constructor for each row of spec/opcode_table.json. -/
inductive Instr where
  /-- POWER_ON (R111). -/
  | powerOn
  /-- SAMPLE_PERIOD (R14): one sample per input from the converters. -/
  | samplePeriod (x : Tab 48 Sample)
  /-- RAMP_STEP (R10) of one pair. -/
  | rampStep (who : Party) (i : Input)
  /-- LANDING (R70) of one input's move. -/
  | landing (i : Input)
  /-- FADE_OUT_END (R85). -/
  | fadeOutEnd (i : Input)
  /-- FADE_IN_END (R88). -/
  | fadeInEnd (i : Input)
  /-- SETTLE_EXPIRY (R87). -/
  | settleExpiry (i : Input)
  /-- KEEP_EXPIRY (R30) of one consumer entry's keep timer. -/
  | keepExpiry (k : Seat)
  /-- CARRIER_ARRIVAL (R131). -/
  | carrierArrival (p : Port)
  /-- CARRIER_LOSS (R131). -/
  | carrierLoss (p : Port)
  /-- CHARACTER_RECEIVED (R149): the eight data bits, the parity bit, whether the stop bit was at mark, and the moment
  (in twelfths of a microsecond) at which the start bit began. -/
  | characterReceived (lane : LaneId) (value : Byte) (parity : Bool) (stop : Bool) (start : Nat)
  /-- BREAK_RECEIVED (R152). -/
  | breakReceived (lane : LaneId)
  /-- BYTE_SENT (R159). -/
  | byteSent (lane : LaneId)
  /-- BREAK_DRIVE_END (R133). -/
  | breakDriveEnd (p : Port)
  /-- HOLD_EXPIRY (R133). -/
  | holdExpiry (p : Port)
  /-- OFFER_WAIT_EXPIRY (R134). -/
  | offerWaitExpiry (p : Port)
  /-- CONFIRM_WAIT_EXPIRY (R137). -/
  | confirmWaitExpiry (p : Port)
  /-- REBIND_INHIBIT_EXPIRY (R142). -/
  | rebindInhibitExpiry (p : Port)
  /-- OFFER (R135), kind 0x01. -/
  | offer (lane : LaneId) (tag : Byte) (fields : List Byte)
  /-- CONFIRM (R138), kind 0x02. -/
  | confirm (lane : LaneId) (tag : Byte) (fields : List Byte)
  /-- UNKNOWN_KIND (R167): a record of a kind that names no request. -/
  | unknownKind (lane : LaneId) (kind : Byte) (tag : Byte) (fields : List Byte)
  /-- LEVEL (R32), kind 0x10. -/
  | level (lane : LaneId) (tag : Byte) (fields : List Byte)
  /-- MUTE (R33), kind 0x11. -/
  | mute (lane : LaneId) (tag : Byte) (fields : List Byte)
  /-- MAP (R34), kind 0x12. -/
  | map (lane : LaneId) (tag : Byte) (fields : List Byte)
  /-- TAKE (R41), kind 0x13. -/
  | take (lane : LaneId) (tag : Byte) (fields : List Byte)
  /-- RELEASE (R43), kind 0x14. -/
  | release (lane : LaneId) (tag : Byte) (fields : List Byte)
  /-- PAD (R48), kind 0x15. -/
  | pad (lane : LaneId) (tag : Byte) (fields : List Byte)
  /-- PHANTOM (R83), kind 0x16. -/
  | phantom (lane : LaneId) (tag : Byte) (fields : List Byte)
  /-- QUERY_INPUT (R168), kind 0x20. -/
  | queryInput (lane : LaneId) (tag : Byte) (fields : List Byte)
  /-- QUERY_LINK (R145), kind 0x21. -/
  | queryLink (lane : LaneId) (tag : Byte) (fields : List Byte)
  /-- QUERY_LANE (R157), kind 0x22. -/
  | queryLane (lane : LaneId) (tag : Byte) (fields : List Byte)
  /-- QUERY_CONSUMER (R38), kind 0x23. -/
  | queryConsumer (lane : LaneId) (tag : Byte) (fields : List Byte)
  /-- LOCK (R46), kind 0x30. -/
  | lock (lane : LaneId) (tag : Byte) (fields : List Byte)
  /-- FORCE (R45), kind 0x31. -/
  | force (lane : LaneId) (tag : Byte) (fields : List Byte)
  /-- SET_RATE (R126), kind 0x32. -/
  | setRate (lane : LaneId) (tag : Byte) (fields : List Byte)
  /-- SET_ALIGN (R69), kind 0x33. -/
  | setAlign (lane : LaneId) (tag : Byte) (fields : List Byte)
  /-- RESET_PORT (R146), kind 0x34. -/
  | resetPort (lane : LaneId) (tag : Byte) (fields : List Byte)
  /-- RESTART (R172), kind 0x35. -/
  | restart (lane : LaneId) (tag : Byte) (fields : List Byte)
  /-- RESTART_TAKES_EFFECT (R173). -/
  | restartTakesEffect
  /-- WRITE_DECIDED (R103): the chip's reply byte to the write in flight. -/
  | writeDecided (reply : Byte)
  /-- REPLY_TIMEOUT (R98). -/
  | replyTimeout
  /-- VERIFY_READ (R104). -/
  | verifyRead (r : ReadReply)
  /-- STATUS_READ (R106). -/
  | statusRead (r : ReadReply)
  /-- IDENTITY_READ (R109) of the poll. -/
  | identityRead (r : ReadReply)
  /-- ADOPTION_READ (R109) of a probe. -/
  | adoptionRead (r : ReadReply)
  /-- START_UP_IDENTITY_READ (R112). -/
  | startUpIdentityRead (r : ReadReply)
  /-- START_UP_WRITE (R112): the reply to the write (none: timed out) and to the verify read, which counts only where
  the write's reply was not 0x06. -/
  | startUpWrite (reply : Option Byte) (verify : ReadReply)
  /-- START_UP_ADOPTION_READ (R113). -/
  | startUpAdoptionRead (r : ReadReply)
deriving DecidableEq, Repr

end Sys2Proof
end

