-- ==== Sys2Proof/Decode.lean ====
section
/-! DEFINITION. Reading a command from a table word. No row of the table carries bits: the part has no instruction words,
and its steps are records on lanes and events (notes/assumptions/1.md). -/

namespace Sys2Proof

/-- The command a word spells by the bits of spec/opcode_table.json: the table gives no row any bits, so none. -/
def decodeTableWord (_nbits _w : Nat) : Option Instr := none

end Sys2Proof
end

