-- ==== Sys2Proof/Machine/State.lean ====
section
/-! DEFINITION. The machine's state, block by block as the manual's "Blocks" table lists them, and `State.reset`.
Every field is plain data. A field marked MODEL'S OWN is not the manual's; INVENTORY.md lists both kinds. -/

namespace Sys2Proof.Machine

/-! ## Named values -/

/-- The box rate, 48 kHz or 96 kHz (R117). -/
inductive BoxRate where
  | khz48
  | khz96
deriving DecidableEq, Repr

/-- An analog setting (pad, p) (R2). Two settings are equal when their pads and their step counts are (R59). -/
structure Setting where
  /-- Pad on. -/
  pad : Bool
  /-- The count of 1 dB gain steps. -/
  p : Nat
deriving DecidableEq, Repr

/-- A pair's trim state (R6). -/
inductive TrimState where
  | settled
  | ramping
  | limited
  | frozen
deriving DecidableEq, Repr

/-- A gate's direction (R18). -/
inductive GateDir where
  | opened
  | closing
  | closed
  | opening
deriving DecidableEq, Repr

/-- Whether the part knows an input's analog setting for certain (R60). -/
inductive AnalogStatus where
  | known
  | uncertain
deriving DecidableEq, Repr

/-- An input's move state with what it holds: the in-flight target while not IDLE, and the landing count while LANDING
(R59). -/
inductive Move where
  | idle
  | queued (t : Setting)
  | onWire (t : Setting)
  | landing (t : Setting) (count : Nat)
deriving DecidableEq, Repr

/-- An input's phantom state (R82). -/
inductive PhantomState where
  | off
  | on
  | faulted
deriving DecidableEq, Repr

/-- An input's phantom sequence state (R82). -/
inductive SeqState where
  | idle
  | fadeOut
  | writing
  | settling
  | fadeIn
deriving DecidableEq, Repr

/-- The outcome a sequence has earned (R82). -/
inductive SeqOutcome where
  | switched
  | failed
  | cancelled
deriving DecidableEq, Repr

/-- The outcome a PHANTOM_STATE event carries (R94). -/
inductive PhantomOutcome where
  | started
  | ended (o : SeqOutcome)
  | fault
deriving DecidableEq, Repr

/-- The outcome a MOVED event carries (R80). -/
inductive MovedOutcome where
  | landed
  | failed
  | adopted
deriving DecidableEq, Repr

/-- A preamp chip's state (R107). -/
inductive ChipState where
  | probing
  | ok
  | faulted
deriving DecidableEq, Repr

/-- The preamp bus controller's pass state (R111). -/
inductive PassState where
  | starting
  | ready
deriving DecidableEq, Repr

/-- The role declared in bring-up (R40, R135); BOX is the part's own. -/
inductive Role where
  | claimant
  | listener
  | box
deriving DecidableEq, Repr

/-- The slot formats (R121). -/
inductive Format where
  | p24
  | w32m
  | w32l
  | x32m
deriving DecidableEq, Repr

/-- A split port's state (R130). -/
inductive PortState where
  | down
  | hold
  | offer
  | confirm
  | bound
  | fault
deriving DecidableEq, Repr

/-- The four timers of a link negotiator (R129, R130). -/
inductive TimerKind where
  | hold
  | offerWait
  | confirmWait
  | rebindInhibit
deriving DecidableEq, Repr

/-- The twelve latched flags of a link negotiator (R144). -/
inductive LinkFlag where
  | loop
  | box
  | identity
  | rate
  | format
  | duplicate
  | twinMismatch
  | mismatch
  | carrierLost
  | breakSeen
  | offerTimeout
  | confirmTimeout
deriving DecidableEq, Repr

/-- The reasons of a REFUSE (R142, R164). -/
inductive Reason where
  | loop
  | box
  | identity
  | rate
  | format
  | duplicate
  | twinMismatch
  | mismatch
deriving DecidableEq, Repr

/-- The result codes of a reply (R166). -/
inductive ResultCode where
  | ok
  | clamped
  | queued
  | deferred
  | unknown
  | badLength
  | panelOnly
  | notBound
  | notReady
  | badInput
  | badValue
  | notOwner
  | locked
  | role
  | faulted
  | busy
deriving DecidableEq, Repr

/-! ## Sample path: pairs -/

/-- One pair record: the fields its consumer sets and those the sample path computes (R9, R31). -/
structure Pair where
  /-- Level L in dd, or absent. -/
  level : Option Int
  /-- Mute on. -/
  mute : Bool
  /-- Applied trim T in dd. -/
  trim : Int
  /-- Trim target in dd (R5). -/
  target : Int
  /-- Trim state (R6). -/
  trimState : TrimState
  /-- Ramp phase in sample periods (R10). -/
  phase : Nat
  /-- MODEL'S OWN (notes/assumptions/4.md): a RAMP_STEP command has already made this pair's ramp step of the sample
  period that begins next. -/
  stepped : Bool
  /-- Gate position g, 0 to N (R13, R18). -/
  gate : Nat
  /-- Gate direction (R18). -/
  dir : GateDir
  /-- Saturation count (R16). -/
  sat : Nat
deriving DecidableEq, Repr

/-- The pair records of every table entry: the panel's 48 at all times, a consumer entry's 48 while it is held (R31). -/
structure PairStore where
  /-- The panel entry's pairs. -/
  panel : Tab 48 Pair
  /-- The consumer entries' pairs, none while the entry is free. -/
  seats : Tab 6 (Option (Tab 48 Pair))
deriving DecidableEq, Repr

/-! ## Consumer table -/

/-- A consumer's presence (R22). KEEPING carries its keep timer. -/
inductive Presence where
  | present
  /-- KEEPING: the moment the keep timer started, and (MODEL'S OWN, notes/assumptions/6.md) a stamp that orders the
  starts of keep timers, equal for starts at one moment (R24). -/
  | keeping (since : Nat) (stamp : Nat)
deriving DecidableEq, Repr

/-- A consumer entry in use, but for its pairs, which `PairStore` holds (R21). -/
structure Consumer where
  /-- Identity code. -/
  identity : BitVec 32
  /-- Name, 0 to 16 bytes. -/
  name : List Byte
  /-- CLAIMANT or LISTENER. -/
  role : Role
  /-- Presence, with the keep timer. -/
  presence : Presence
  /-- Bound ports, first-bound first. -/
  ports : List Port
  /-- Slot format resolved at bring-up. -/
  format : Format
  /-- Slot count resolved at bring-up. -/
  slots : Nat
  /-- The stored channel map. -/
  map : List Input
deriving DecidableEq, Repr

/-! ## Ownership arbiter -/

/-- The arbiter's state for one input (R39). -/
structure Ownership where
  /-- The owner, or none. -/
  owner : Option Party
  /-- The waiting list, oldest first. -/
  waiting : List Party
  /-- Lock on. -/
  lock : Bool
  /-- Pad choice on. -/
  padChoice : Bool
deriving DecidableEq, Repr

/-! ## Move controller -/

/-- The move controller's state for one input (R59). -/
structure MoveCtl where
  /-- The analog setting. -/
  setting : Setting
  /-- The analog status. -/
  status : AnalogStatus
  /-- The move state, with the in-flight target and the landing count. -/
  move : Move
  /-- The pending target. -/
  pending : Option Setting
  /-- The failed-target mark. -/
  failed : Option Setting
deriving DecidableEq, Repr

/-! ## Phantom controller -/

/-- The phantom controller's state for one input (R82). -/
structure PhantomCtl where
  /-- Phantom state. -/
  phantom : PhantomState
  /-- Sequence state. -/
  seq : SeqState
  /-- The phantom state at the latest entry to FADE_OUT. -/
  origin : Option PhantomState
  /-- Sequence target: on, off or absent. -/
  target : Option Bool
  /-- Sequence outcome. -/
  outcome : Option SeqOutcome
  /-- Pending reversal. -/
  reversal : Option Bool
  /-- Held request. -/
  held : Option Bool
  /-- Settle timer: the moment it started, or stopped. -/
  settle : Option Nat
deriving DecidableEq, Repr

/-! ## Preamp bus controller -/

/-- A command to write one input's channel word; its kind records the block that made it (R101). -/
inductive Command where
  /-- From the move controller: pad and gain step count. -/
  | gain (i : Input) (pad : Bool) (p : Nat)
  /-- From the phantom controller: the phantom value. -/
  | phantom (i : Input) (on : Bool)
deriving DecidableEq, Repr

/-- An entry of the command queue (R102). -/
inductive QueueEntry where
  | write (c : Command)
  /-- The verify read of a write, with the write's old and new words (R103, R104). -/
  | verify (c : Command) (oldWord newWord : Byte)
  /-- The adoption read of one channel of a chip under probe (R109). -/
  | adoption (c : Chip) (k : Channel)
deriving DecidableEq, Repr

/-- A transaction on the preamp bus (R98, R99). -/
inductive Txn where
  | write (c : Command) (oldWord newWord : Byte)
  | verify (c : Command) (oldWord newWord : Byte)
  /-- The poll's status read of an input's channel (R105). -/
  | status (i : Input)
  /-- The poll's identity read of a FAULTED chip (R105). -/
  | identity (c : Chip)
  | adoption (c : Chip) (k : Channel)
  /-- The start-up pass's identity read (R112). -/
  | startIdentity (c : Chip)
  /-- The start-up pass's write of 0 (R112). -/
  | startWrite (c : Chip) (k : Channel)
  /-- The verify read that the pass itself makes (R112). -/
  | startVerify (c : Chip) (k : Channel)
  /-- The start-up pass's adoption read (R113). -/
  | startAdoption (c : Chip) (k : Channel)
deriving DecidableEq, Repr

/-- The transaction in flight. -/
structure Flight where
  /-- What is on the wire. -/
  txn : Txn
  /-- A RESTART has taken effect: the result will be discarded (R113). -/
  discard : Bool
deriving DecidableEq, Repr

/-- The preamp bus controller (R97 to R116). -/
structure Bus where
  /-- Command queue, head first. -/
  queue : List QueueEntry
  /-- Transaction in flight. -/
  flight : Option Flight
  /-- Chip states. -/
  chips : Tab 6 ChipState
  /-- Shadow words. -/
  shadow : Tab 48 Byte
  /-- Poll position. -/
  pollPos : Input
  /-- Preamp clip counts. -/
  clips : Tab 48 Nat
  /-- Pass state. -/
  pass : PassState
  /-- Whether the start-up pass adopts (after RESTART, R113) or writes (after power-on, R112). -/
  adopting : Bool
  /-- The words read so far by the probe or by the adopting pass, channel 0 first (R109, R113). -/
  probe : List Byte
deriving DecidableEq, Repr

/-! ## Stream builder -/

/-- A port's frame layout (R118). -/
structure Layout where
  format : Format
  slots : Nat
  rate : BoxRate
deriving DecidableEq, Repr

/-- The stream builder's state for one port (R118 to R124). -/
structure Stream where
  /-- Frame layout, none unless the port is BOUND and its bind was accepted. -/
  layout : Option Layout
  /-- Channel map in effect. -/
  map : List Input
  /-- The frame formed in the latest sample period, which goes to the split link during the one that follows (R119). -/
  frame : Option (List Byte)
deriving DecidableEq, Repr

/-! ## Link negotiator -/

/-- The partner page: the fields of the partner's accepted OFFER (R137). -/
structure Page where
  nonce : BitVec 32
  identity : BitVec 32
  role : Role
  /-- The rate set as sent (R163). -/
  rates : Byte
  /-- The format set as sent (R163). -/
  formats : Byte
  maxChannels : Byte
  /-- The twin-capable mark. -/
  twin : Bool
  name : List Byte
deriving DecidableEq, Repr

/-- What bring-up resolved (R137). -/
structure Resolved where
  format : Format
  slots : Nat
  role : Role
deriving DecidableEq, Repr

/-- One port's link negotiator (R129). -/
structure LinkPort where
  /-- Port state. -/
  state : PortState
  /-- The running timer and the moment it started. -/
  timer : Option (TimerKind × Nat)
  /-- Whether the partner's carrier is present on the line (R131). -/
  carrier : Bool
  /-- Local nonce. -/
  nonce : Option (BitVec 32)
  /-- Partner page. -/
  page : Option Page
  /-- Resolved format, slot count and role. -/
  resolved : Option Resolved
  /-- History set, one mark per port state by its code. -/
  history : Tab 6 Bool
  /-- Latched flags, one mark per flag by its bit. -/
  flags : Tab 12 Bool
deriving DecidableEq, Repr

/-! ## Lane unit -/

/-- A received character with its four marks (R149). -/
structure RxChar where
  value : Byte
  framing : Bool
  parity : Bool
  overrun : Bool
  gap : Bool
deriving DecidableEq, Repr

/-- The framer with its partial or held record (R154). `crc` is the running check over the length and the bytes kept. -/
inductive Framer where
  | hunt
  | length
  /-- Collecting the body: its length and the bytes kept so far. -/
  | body (len : Nat) (got : List Byte) (crc : BitVec 16)
  /-- Collecting the check: the whole body, and the first check byte once it has been kept. -/
  | check (body : List Byte) (first : Option Byte) (crc : BitVec 16)
  /-- One complete record whose check has passed. -/
  | held (body : List Byte)
deriving DecidableEq, Repr

/-- A lane's six counters (R156). -/
structure Counters where
  gap : Nat
  marked : Nat
  length : Nat
  check : Nat
  overrun : Nat
  ignored : Nat
deriving DecidableEq, Repr

/-- The receiving side and the framer of one lane unit (R149 to R156). -/
structure RxSide where
  /-- Receive queue, head first. -/
  queue : List RxChar
  /-- Overrun pending (R151). -/
  overrunPending : Bool
  /-- Gap reference: the moment the last received character ended, or none (R150). -/
  gapRef : Option Nat
  /-- Framer state, partial record and held record. -/
  framer : Framer
  /-- GAP, MARKED, LENGTH, CHECK, OVERRUN and IGNORED. -/
  counters : Counters
deriving DecidableEq, Repr

/-- The transmitting side of one lane unit (R159). -/
structure TxSide where
  /-- The bytes of the queued frames that have not left yet, first to leave first. -/
  queue : List Byte
  /-- The lane is driving a break on entry to HOLD (R133). -/
  breaking : Bool
deriving DecidableEq, Repr

/-- What notices touch: the transmitting sides of the lanes and the notice builder's marks (R175 to R180). -/
structure Comm where
  /-- Transmitting sides, indexed by lane number. -/
  tx : Tab 7 TxSide
  /-- The stale set of each split port. -/
  stale : Tab 6 (Tab 48 Bool)
  /-- Lane P's input marks. -/
  inputMarks : Tab 48 Bool
  /-- Lane P's port marks. -/
  portMarks : Tab 6 Bool
  /-- Lane P's chip marks. -/
  chipMarks : Tab 6 Bool
  /-- Port last told: the state of the last LINK notice queued on lane P for each port. -/
  lastTold : Tab 6 PortState
deriving DecidableEq, Repr

/-! ## The whole part -/

/-- The state of the part. -/
structure State where
  /-- MODEL'S OWN: the commands that are waiting, first in first out. -/
  pending : List Instr
  /-- The box rate (R117). -/
  rate : BoxRate
  /-- The alignment delay D (R59, R69). -/
  align : Nat
  /-- Receiving sides and framers, indexed by lane number. -/
  rx : Tab 7 RxSide
  /-- Transmitting sides and notice marks. -/
  comm : Comm
  /-- Link negotiators. -/
  ports : Tab 6 LinkPort
  /-- Stream builder. -/
  streams : Tab 6 Stream
  /-- Consumer table entries 1 to 6, none while free. -/
  entries : Tab 6 (Option Consumer)
  /-- Pair records. -/
  pairs : PairStore
  /-- Ownership arbiter. -/
  own : Tab 48 Ownership
  /-- Move controller. -/
  moves : Tab 48 MoveCtl
  /-- Phantom controller. -/
  phantoms : Tab 48 PhantomCtl
  /-- Preamp bus controller. -/
  bus : Bus
  /-- A pending restart: how many bytes lane P has still to send until the last byte of the RESTART reply (R172). -/
  restart : Option Nat
  /-- MODEL'S OWN (notes/assumptions/5.md): the time base of the timers, in twelfths of a microsecond. -/
  clock : Nat
  /-- MODEL'S OWN (notes/assumptions/7.md): how many nonces have been drawn. -/
  draws : Nat
deriving DecidableEq, Repr

/-! ## Reset values -/

/-- The fade length N in sample periods (R117). -/
def BoxRate.fade : BoxRate → Nat
  | .khz48 => 960
  | .khz96 => 1920

/-- The panel's pairs right after power-on: the creation values of R9 on an UNCERTAIN input with no sequence. -/
def Pair.atPowerOn : Pair :=
  { level := none, mute := false, trim := 0, target := 0, trimState := .frozen, phase := 0, stepped := false,
    gate := BoxRate.fade .khz48, dir := .opened, sat := 0 }

/-- The arbiter's values after power-on and RESTART (R39). -/
def Ownership.atPowerOn : Ownership := { owner := none, waiting := [], lock := false, padChoice := false }

/-- The move controller's values after power-on and RESTART (R59). -/
def MoveCtl.atPowerOn : MoveCtl :=
  { setting := { pad := false, p := 0 }, status := .uncertain, move := .idle, pending := none, failed := none }

/-- The phantom controller's values after power-on and RESTART (R82, R95). -/
def PhantomCtl.atPowerOn : PhantomCtl :=
  { phantom := .off, seq := .idle, origin := none, target := none, outcome := none, reversal := none, held := none,
    settle := none }

/-- The bus controller's values after power-on: every chip PROBING, every shadow 0, the poll at input 1, STARTING. -/
def Bus.atPowerOn : Bus :=
  { queue := [], flight := none, chips := Tab.const 6 .probing, shadow := Tab.const 48 0, pollPos := 0,
    clips := Tab.const 48 0, pass := .starting, adopting := false, probe := [] }

/-- No layout, no map and no frame (R118). -/
def Stream.atPowerOn : Stream := { layout := none, map := [], frame := none }

/-- The link negotiator's values after power-on and RESTART (R129), with no carrier reported. -/
def LinkPort.atPowerOn : LinkPort :=
  { state := .down, timer := none, carrier := false, nonce := none, page := none, resolved := none,
    history := (Tab.const 6 false).set 0 true, flags := Tab.const 12 false }

/-- All six counters at 0 (R156). -/
def Counters.zero : Counters := { gap := 0, marked := 0, length := 0, check := 0, overrun := 0, ignored := 0 }

/-- The receiving side's values after power-on and RESTART. -/
def RxSide.atPowerOn : RxSide :=
  { queue := [], overrunPending := false, gapRef := none, framer := .hunt, counters := Counters.zero }

/-- The transmitting side's values after power-on and RESTART. -/
def TxSide.atPowerOn : TxSide := { queue := [], breaking := false }

/-- Empty queues and no marks; every port last told as DOWN. -/
def Comm.atPowerOn : Comm :=
  { tx := Tab.const 7 TxSide.atPowerOn, stale := Tab.const 6 (Tab.const 48 false), inputMarks := Tab.const 48 false,
    portMarks := Tab.const 6 false, chipMarks := Tab.const 6 false, lastTold := Tab.const 6 .down }

/-- The panel's pairs and no consumer's (R21). -/
def PairStore.atPowerOn : PairStore :=
  { panel := Tab.const 48 Pair.atPowerOn, seats := Tab.const 6 none }

/-- The part with every block at its power-on values (the state tables of the chapters); no command waits, and the
start-up pass has not begun its first transaction (notes/assumptions/11.md). -/
def State.reset : State :=
  { pending := [], rate := .khz48, align := 40, rx := Tab.const 7 RxSide.atPowerOn, comm := Comm.atPowerOn,
    ports := Tab.const 6 LinkPort.atPowerOn, streams := Tab.const 6 Stream.atPowerOn, entries := Tab.const 6 none,
    pairs := PairStore.atPowerOn, own := Tab.const 48 Ownership.atPowerOn, moves := Tab.const 48 MoveCtl.atPowerOn,
    phantoms := Tab.const 48 PhantomCtl.atPowerOn, bus := Bus.atPowerOn, restart := none, clock := 0, draws := 0 }

/-! ## Outcomes that stop a step -/

/-- The reasons a step can stop with a fault. There are none: the manual gives every command an effect in every state
(a fault of a chip, of a supply or of a link is an effect on State, not a stop), so nothing raises one; safe. -/
inductive Fault where
deriving DecidableEq, Repr

/-- The reasons a step can be refused. -/
inductive Refusal where
  /-- Raised by an arm of `exec` for a command that has no meaning yet, and by nothing else; safe, since nothing can
  be proved of what such a command does. -/
  | notModelled (mnemonic : String)
deriving DecidableEq, Repr

/-- What a command's meaning answers. -/
abbrev Result := Host.Outcome State Fault Refusal

end Sys2Proof.Machine
end

