-- ==== Sys2Proof/Machine/Flags.lean ====
section
/-! DEFINITION. Sets, flags and counters: latched flags and history sets (R144), lane counters (R156), channel-word and
status bits (R97), the marks of received characters (R149). -/

namespace Sys2Proof.Machine

/-- The bit of a latched flag in the two-byte flag field (R170). -/
def LinkFlag.bit : LinkFlag → Fin 12
  | .loop => 0
  | .box => 1
  | .identity => 2
  | .rate => 3
  | .format => 4
  | .duplicate => 5
  | .twinMismatch => 6
  | .mismatch => 7
  | .carrierLost => 8
  | .breakSeen => 9
  | .offerTimeout => 10
  | .confirmTimeout => 11

/-- The port state's code (R163), which is also its bit in the history set (R170). -/
def PortState.bit : PortState → Fin 6
  | .down => 0
  | .hold => 1
  | .offer => 2
  | .confirm => 3
  | .bound => 4
  | .fault => 5

/-- A refused OFFER latches the flag of the same name as the reason (R135). -/
def Reason.flag : Reason → LinkFlag
  | .loop => .loop
  | .box => .box
  | .identity => .identity
  | .rate => .rate
  | .format => .format
  | .duplicate => .duplicate
  | .twinMismatch => .twinMismatch
  | .mismatch => .mismatch

/-- No flag. -/
def noFlags : Tab 12 Bool := Tab.const 12 false

/-- One flag alone, as the reason flags of a LINK event carry it (R147). -/
def oneFlag (f : LinkFlag) : Tab 12 Bool := noFlags.set f.bit true

/-- The history set that holds one state alone (R144). -/
def historyOnly (st : PortState) : Tab 6 Bool := (Tab.const 6 false).set st.bit true

/-- A set of marks as the number whose bit b is set for each member b. -/
def marksValue {n : Nat} (t : Tab n Bool) : Nat :=
  t.cells.foldr (fun b acc => 2 * acc + (if b then 1 else 0)) 0

/-- A flag is latched and stays so until it is cleared (R144). -/
def LinkPort.latch (f : LinkFlag) (q : LinkPort) : LinkPort := { q with flags := q.flags.set f.bit true }

/-- The port's state changes, and the history set takes the state entered (R144). -/
def LinkPort.goTo (st : PortState) (q : LinkPort) : LinkPort :=
  { q with state := st, history := q.history.set st.bit true }

/-- The history set becomes the current state alone and every flag is cleared (R144). -/
def LinkPort.clearSets (q : LinkPort) : LinkPort :=
  { q with history := historyOnly q.state, flags := noFlags }

/-- A counter rises by one, up to 65535. -/
def countUp (n : Nat) : Nat := min Config.counterTop (n + 1)

/-- The gain field of a channel word, bits 0 to 5 (R97). -/
def wordGain (w : Byte) : Nat := (w &&& 0x3F#8).toNat

/-- The pad bit of a channel word, bit 6 (R97). -/
def wordPad (w : Byte) : Bool := w.getLsbD 6

/-- The phantom bit of a channel word, bit 7 (R97). -/
def wordPhantom (w : Byte) : Bool := w.getLsbD 7

/-- The channel word of a gain step count, a pad and a phantom value (R97). -/
def channelWord (p : Nat) (pad phantom : Bool) : Byte :=
  BitVec.ofNat 8 (p + (if pad then 64 else 0) + (if phantom then 128 else 0))

/-- Whether a channel word lies within the analog domain (R97). -/
def inDomain (w : Byte) : Bool := if wordPad w then decide (wordGain w ≤ 40) else decide (wordGain w ≤ 60)

/-- The word with its phantom bit cleared (R100, R106). -/
def dropPhantom (w : Byte) : Byte := w &&& 0x7F#8

/-- The setting a channel word holds (R2, R97). -/
def wordSetting (w : Byte) : Setting := { pad := wordPad w, p := wordGain w }

/-- The clip latch of a status register, bit 0 (R97). -/
def statusClip (v : Byte) : Bool := v.getLsbD 0

/-- The phantom fault bit of a status register, bit 1 (R97). -/
def statusFault (v : Byte) : Bool := v.getLsbD 1

/-- The number of ones among the eight data bits. -/
def onesOf (v : Byte) : Nat :=
  (List.range 8).foldl (fun acc b => acc + (if v.getLsbD b then 1 else 0)) 0

/-- The parity mark: the nine data and parity bits hold an odd number of ones (R149). -/
def parityMark (v : Byte) (parity : Bool) : Bool :=
  decide ((onesOf v + (if parity then 1 else 0)) % 2 = 1)

/-- A character that is a break: data and parity bits all 0 and the stop bit at space (R149, R152). -/
def isBreak (v : Byte) (parity stop : Bool) : Bool := decide (v = 0#8) && !parity && !stop

/-- The gap mark: no gap reference, or more than 44 microseconds since it (R150). -/
def gapMark (ref : Option Nat) (start : Nat) : Bool :=
  match ref with
  | none => true
  | some r => decide (r + Config.gapTime < start)

end Sys2Proof.Machine
end

