-- ==== Sys2Proof/Machine/Gain.lean ====
section
/-! DEFINITION. Levels, trims and the sample arithmetic (R1 to R19): every computation on one value or one pair. -/

namespace Sys2Proof.Machine

/-- Clamp to a range (Conventions, "Ranges"). -/
def clampTo (lo hi x : Int) : Int := max lo (min hi x)

/-- The level range, -600 to 840 dd (R1). -/
def clampLevel (x : Int) : Int := clampTo (-600) 840 x

/-- The trim range, -400 to 240 dd (R5). -/
def trimClamp (x : Int) : Int := clampTo (-400) 240 x

/-- The pad offset P of R3. -/
def padOffset (pad : Bool) : Int := if pad then -200 else 0

/-- The highest step count of a pad choice (R2, R3). -/
def pMax (pad : Bool) : Nat := if pad then 40 else 60

/-- The value A of a setting in dd (R2). -/
def Setting.value (t : Setting) : Int := 10 * (t.p : Int) + padOffset t.pad

/-- The analog target for an owner level G and a pad choice (R3). `Int.div` by 10 here is the floor. -/
def analogTarget (g : Int) (pad : Bool) : Setting :=
  { pad := pad, p := (clampTo 0 (pMax pad) ((g - padOffset pad) / 10)).toNat }

/-- The setting a step count gives on a pad choice, clamped to the choice's range (R4). -/
def keptTarget (pad : Bool) (p : Nat) : Setting := { pad := pad, p := min p (pMax pad) }

/-- The trim target of a level against an analog setting of value A (R5). -/
def trimTarget (level : Option Int) (a : Int) : Int :=
  match level with
  | none => 0
  | some l => trimClamp (l - a)

/-- Whether the trim target is said to be clamped (R5). -/
def targetClamped (level : Option Int) (a : Int) : Bool :=
  match level with
  | none => false
  | some l => decide (l - a < -400) || decide (240 < l - a)

/-- The deficit L - A - T, absent without a level (R6). -/
def Pair.deficit (q : Pair) (a : Int) : Option Int :=
  match q.level with
  | none => none
  | some l => some (l - a - q.trim)

/-- The trim state by the first condition of R6 that holds. -/
def Pair.stateNow (q : Pair) (status : AnalogStatus) (a : Int) : TrimState :=
  if status = .uncertain then .frozen
  else if q.trim ≠ q.target then .ramping
  else if targetClamped q.level a then .limited
  else .settled

/-- The pair with its trim state set by R6. A pair that enters RAMPING from another state starts with its phase at 0; a
pair that stays RAMPING keeps its phase (R10, R11). `before` is the state it is compared with. -/
def Pair.settleTrim (before : TrimState) (status : AnalogStatus) (a : Int) (q : Pair) : Pair :=
  let st := q.stateNow status a
  let enters := st = .ramping ∧ before ≠ .ramping
  { q with trimState := st, phase := if enters then 0 else q.phase, stepped := if enters then false else q.stepped }

/-- The pair with its trim target recomputed (R5) and its state set (R6). -/
def Pair.retarget (status : AnalogStatus) (a : Int) (q : Pair) : Pair :=
  Pair.settleTrim q.trimState status a { q with target := trimTarget q.level a }

/-- The pair with a level stored or cleared: the trim target follows unless the pair's input is UNCERTAIN, when the
pair stays FROZEN with the target it froze with (R5, R7, R32). -/
def Pair.storeLevel (status : AnalogStatus) (a : Int) (level : Option Int) (q : Pair) : Pair :=
  match status with
  | .known => Pair.retarget .known a { q with level := level }
  | .uncertain => Pair.settleTrim q.trimState .uncertain a { q with level := level }

/-- The pair at a landing of `delta` dd onto a setting of value `a`: a level-holding pair's trim jumps by -delta and its
target is recomputed; a pair without a level keeps all it has (R70). -/
def Pair.land (status : AnalogStatus) (delta a : Int) (q : Pair) : Pair :=
  match q.level with
  | none => q
  | some _ => Pair.retarget status a { q with trim := trimClamp (q.trim - delta) }

/-- The ramp interval in sample periods (R10, R117). -/
def BoxRate.rampInterval : BoxRate → Nat
  | .khz48 => 16
  | .khz96 => 32

/-- The slot capacity of a port (R117). -/
def BoxRate.capacity : BoxRate → Nat
  | .khz48 => 48
  | .khz96 => 24

/-- The sample period in twelfths of a microsecond: 20 5/6 and 10 5/12 microseconds (R117). -/
def BoxRate.period : BoxRate → Nat
  | .khz48 => 250
  | .khz96 => 125

/-- One dd toward the target (R10). -/
def stepToward (t target : Int) : Int :=
  if t < target then t + 1 else if target < t then t - 1 else t

/-- The ramp step itself: T steps by one dd, the phase returns to 0, and the state is set by R6 (R10). -/
def Pair.rampStep (status : AnalogStatus) (a : Int) (q : Pair) : Pair :=
  Pair.settleTrim q.trimState status a { q with trim := stepToward q.trim q.target, phase := 0 }

/-- Whether the pair's ramp step falls in the sample period that begins next: it is RAMPING, and the period brings its
phase to the ramp interval (R10). -/
def Pair.rampDue (rate : BoxRate) (q : Pair) : Bool :=
  decide (q.trimState = .ramping) && decide (rate.rampInterval ≤ q.phase + 1) && !q.stepped

/-- Step 1 of R14 for one pair: the phase of a RAMPING pair advances, and T steps when it reaches the ramp interval. A
pair whose step a RAMP_STEP command has already made only loses the model's mark of that. -/
def Pair.rampAdvance (rate : BoxRate) (status : AnalogStatus) (a : Int) (q : Pair) : Pair :=
  if q.stepped then { q with stepped := false }
  else if q.trimState = .ramping then
    if rate.rampInterval ≤ q.phase + 1 then q.rampStep status a else { q with phase := q.phase + 1 }
  else q

/-! ## Gates -/

/-- A pair's gate is required closed while its mute is on or its input's sequence is in FADE_OUT, WRITING or SETTLING
(R17). -/
def requiredClosed (seq : SeqState) (mute : Bool) : Bool :=
  match seq with
  | .fadeOut => true
  | .writing => true
  | .settling => true
  | .idle => mute
  | .fadeIn => mute

/-- The turn of a gate toward its requirement, from the position it holds; `n` is the fade length (R18). -/
def Pair.turnGate (n : Nat) (seq : SeqState) (q : Pair) : Pair :=
  match requiredClosed seq q.mute, q.dir with
  | true, .opened => { q with dir := if q.gate = 0 then .closed else .closing }
  | true, .opening => { q with dir := if q.gate = 0 then .closed else .closing }
  | true, .closing => q
  | true, .closed => q
  | false, .closed => { q with dir := if q.gate = n then .opened else .opening }
  | false, .closing => { q with dir := if q.gate = n then .opened else .opening }
  | false, .opened => q
  | false, .opening => q

/-- Step 2 of R14: one gate step (R19). -/
def Pair.gateStep (n : Nat) (q : Pair) : Pair :=
  match q.dir with
  | .closing => { q with gate := q.gate - 1, dir := if q.gate - 1 = 0 then .closed else .closing }
  | .opening => { q with gate := q.gate + 1, dir := if n ≤ q.gate + 1 then .opened else .opening }
  | .opened => q
  | .closed => q

/-- A new pair's values (R9). -/
def Pair.fresh (n : Nat) (status : AnalogStatus) (seq : SeqState) : Pair :=
  let silent := seq = .writing ∨ seq = .settling
  Pair.turnGate n seq
    { level := none, mute := false, trim := 0, target := 0,
      trimState := if status = .uncertain then .frozen else .settled, phase := 0, stepped := false,
      gate := if silent then 0 else n, dir := if silent then .closed else .opened, sat := 0 }

/-- A pair brought to rest at a change of box rate; `n` is the new fade length (R20). -/
def Pair.rest (n : Nat) (status : AnalogStatus) (a : Int) (q : Pair) : Pair :=
  let shut := q.dir = .closing ∨ q.dir = .closed
  let q1 := { q with gate := if shut then 0 else n, dir := if shut then .closed else .opened, phase := 0,
                     stepped := false }
  if q.trimState = .ramping then Pair.settleTrim q.trimState status a { q1 with trim := q.target } else q1

/-! ## The gain multiplier and the output sample -/

/-- Whether m ≤ 2^20 × 10^(t/200) + 1/2, decided exactly: (2m - 1)^200 ≤ 2^4200 × 10^t, with the power of ten on the
side where its exponent is not negative. -/
def gainReaches (t : Int) (m : Nat) : Bool :=
  Nat.ble (Nat.pow (2 * m - 1) 200 * Nat.pow 10 (-t).toNat) (Nat.pow 2 4200 * Nat.pow 10 t.toNat)

/-- The greatest value of at most `b` more bits that `gainReaches` accepts, found from its highest bit down. -/
def gainSearch (t : Int) : Nat → Nat → Nat
  | 0, acc => acc
  | b + 1, acc => gainSearch t b (if gainReaches t (acc + Nat.pow 2 b) then acc + Nat.pow 2 b else acc)

/-- M(T) = floor(2^20 × 10^(T/200) + 1/2), which fits 24 bits (R12). -/
def gainMultiplier (t : Int) : Nat := gainSearch t 24 0

/-- The gated multiplier Me = floor(M(T) × g / N) (R13). -/
def gatedMultiplier (n : Nat) (q : Pair) : Nat := gainMultiplier q.trim * q.gate / n

/-- The rounded product floor((x × Me + 2^19) / 2^20) before it is clamped (R15). -/
def roundedProduct (x : Int) (me : Nat) : Int := (x * (me : Int) + 524288) / 1048576

/-- sat24 (R15). -/
def sat24 (y : Int) : Int := clampTo (-8388608) 8388607 y

/-- The output sample of R15. -/
def outputSample (x : Int) (me : Nat) : Int := sat24 (roundedProduct x me)

/-- Whether R15 clamps. -/
def clips (x : Int) (me : Nat) : Bool := decide (sat24 (roundedProduct x me) ≠ roundedProduct x me)

end Sys2Proof.Machine
end

