-- ==== Sys2Proof/Machine/Operands.lean ====
section
/-! DEFINITION. How records are written and read: field codings (R163), the frame and its check (R153), bring-up bodies
(R164), request kinds and lengths (R165), replies (R166) and notice bodies (R171). -/

namespace Sys2Proof.Machine

/-! ## Field codings -/

/-- An unsigned number as two bytes, most significant first (R163). -/
def be16 (n : Nat) : List Byte := [BitVec.ofNat 8 (n / 256), BitVec.ofNat 8 n]

/-- A signed number as two bytes, two's complement, most significant first (R163). -/
def beInt16 (x : Int) : List Byte := be16 (BitVec.ofInt 16 x).toNat

/-- An optional level, A, trim or deficit: -32768 means absent (R163). -/
def beLevel (x : Option Int) : List Byte := beInt16 (x.getD (-32768))

/-- An identity code or nonce as four bytes, most significant first (R163). -/
def be32 (v : BitVec 32) : List Byte :=
  [v.extractLsb' 24 8, v.extractLsb' 16 8, v.extractLsb' 8 8, v.extractLsb' 0 8]

/-- A small number as one byte. -/
def byteOf (n : Nat) : Byte := BitVec.ofNat 8 n

/-- A switch as one byte: 0 off, 1 on (R163). -/
def switchByte (b : Bool) : Byte := if b then 1#8 else 0#8

/-- Two bytes, most significant first, as an unsigned number. -/
def u16 (hi lo : Byte) : Nat := hi.toNat * 256 + lo.toNat

/-- Two bytes, most significant first, as a signed number. -/
def s16 (hi lo : Byte) : Int := (hi ++ lo).toInt

/-- Four bytes, most significant first. -/
def u32 (a b c d : Byte) : BitVec 32 := a ++ b ++ c ++ d

/-- The input a byte names, or none outside 1..48 (R163). -/
def inputOf (b : Byte) : Option Input :=
  if h : 1 ≤ b.toNat ∧ b.toNat ≤ 48 then some ⟨b.toNat - 1, by omega⟩ else none

/-- The byte that names an input. -/
def inputByte (i : Input) : Byte := byteOf (i.val + 1)

/-- The port a byte names, or none outside 1..6. -/
def portOf (b : Byte) : Option Port :=
  if h : 1 ≤ b.toNat ∧ b.toNat ≤ 6 then some ⟨b.toNat - 1, by omega⟩ else none

/-- The byte that names a port. -/
def portByte (p : Port) : Byte := byteOf (p.val + 1)

/-- The lane a byte names, or none outside 0..6 (R157). -/
def laneOf (b : Byte) : Option LaneId :=
  if b = 0#8 then some .panel else (portOf b).map .split

/-- The byte that names a lane. -/
def laneByte (l : LaneId) : Byte := byteOf l.idx.val

/-- The switch a byte holds, or none for a value other than 0 or 1 (R163). -/
def switchOf (b : Byte) : Option Bool := if b = 0#8 then some false else if b = 1#8 then some true else none

/-- The level a field holds: absent for -32768 (R1). -/
def levelField (hi lo : Byte) : Option Int := if s16 hi lo = -32768 then none else some (s16 hi lo)

/-- Role codes (R163). -/
def Role.code : Role → Byte
  | .claimant => 1#8
  | .listener => 2#8
  | .box => 3#8

/-- The role an OFFER may declare to be served: CLAIMANT or LISTENER; any other byte is none (R135). -/
def partnerRole (b : Byte) : Option Role := if b = 1#8 then some .claimant else if b = 2#8 then some .listener else none

/-- Format codes (R163). -/
def Format.code : Format → Byte
  | .p24 => 0#8
  | .w32m => 1#8
  | .w32l => 2#8
  | .x32m => 3#8

/-- A format's bit in the format set of an OFFER (R163). -/
def Format.bit : Format → Nat
  | .p24 => 0
  | .w32m => 1
  | .w32l => 2
  | .x32m => 3

/-- The format code for none. -/
def noFormat : Byte := 0xFF#8

/-- A rate's bit in the rate set of an OFFER (R163). -/
def BoxRate.bit : BoxRate → Nat
  | .khz48 => 0
  | .khz96 => 1

/-- The rate field of SET_RATE: 48 or 96 (R126). -/
def BoxRate.byte : BoxRate → Byte
  | .khz48 => 48#8
  | .khz96 => 96#8

/-- The rate a SET_RATE field names. -/
def rateOf (b : Byte) : Option BoxRate := if b = 48#8 then some .khz48 else if b = 96#8 then some .khz96 else none

/-- Analog status codes (R163). -/
def AnalogStatus.code : AnalogStatus → Byte
  | .known => 0#8
  | .uncertain => 1#8

/-- Move state codes (R163). -/
def Move.code : Move → Byte
  | .idle => 0#8
  | .queued _ => 1#8
  | .onWire _ => 2#8
  | .landing _ _ => 3#8

/-- Phantom state codes (R163). -/
def PhantomState.code : PhantomState → Byte
  | .off => 0#8
  | .on => 1#8
  | .faulted => 2#8

/-- Sequence state codes (R163). -/
def SeqState.code : SeqState → Byte
  | .idle => 0#8
  | .fadeOut => 1#8
  | .writing => 2#8
  | .settling => 3#8
  | .fadeIn => 4#8

/-- Trim state codes (R163). -/
def TrimState.code : TrimState → Byte
  | .settled => 0#8
  | .ramping => 1#8
  | .limited => 2#8
  | .frozen => 3#8

/-- Gate direction codes (R163). -/
def GateDir.code : GateDir → Byte
  | .opened => 0#8
  | .closing => 1#8
  | .closed => 2#8
  | .opening => 3#8

/-- Chip state codes (R163). -/
def ChipState.code : ChipState → Byte
  | .probing => 0#8
  | .ok => 1#8
  | .faulted => 2#8

/-- Port state codes (R163). -/
def PortState.code (st : PortState) : Byte := byteOf st.bit.val

/-- The identity code that denotes "none" (Conventions, "Identities"). -/
def noIdentity : BitVec 32 := 0xFFFFFFFF#32

/-- MOVED outcome codes (R171). -/
def MovedOutcome.code : MovedOutcome → Byte
  | .landed => 0#8
  | .failed => 1#8
  | .adopted => 2#8

/-- PHANTOM_STATE outcome codes (R171). -/
def PhantomOutcome.code : PhantomOutcome → Byte
  | .started => 0#8
  | .ended .switched => 1#8
  | .ended .failed => 2#8
  | .ended .cancelled => 3#8
  | .fault => 4#8

/-- Refusal reason codes (R164). -/
def Reason.code : Reason → Byte
  | .loop => 1#8
  | .box => 2#8
  | .identity => 3#8
  | .rate => 4#8
  | .format => 5#8
  | .duplicate => 6#8
  | .twinMismatch => 7#8
  | .mismatch => 8#8

/-- Result codes (R166). -/
def ResultCode.code : ResultCode → Byte
  | .ok => 0#8
  | .clamped => 1#8
  | .queued => 2#8
  | .deferred => 3#8
  | .unknown => 16#8
  | .badLength => 17#8
  | .panelOnly => 18#8
  | .notBound => 19#8
  | .notReady => 20#8
  | .badInput => 21#8
  | .badValue => 22#8
  | .notOwner => 23#8
  | .locked => 24#8
  | .role => 25#8
  | .faulted => 26#8
  | .busy => 27#8

/-! ## The frame -/

/-- The marker byte (R153). -/
def marker : Byte := 0xB7#8

/-- One bit of the CRC's feed: shift left, and take the polynomial x^16 + x^12 + x^5 + 1 when a one leaves (R153). -/
def crcShift (c : BitVec 16) : BitVec 16 :=
  if c.msb then (c <<< 1) ^^^ 0x1021#16 else c <<< 1

/-- The CRC after one more byte, fed most significant bit first (R153). -/
def crcByte (c : BitVec 16) (b : Byte) : BitVec 16 :=
  crcShift (crcShift (crcShift (crcShift (crcShift (crcShift (crcShift (crcShift
    (c ^^^ (b.zeroExtend 16 <<< 8)))))))))

/-- The CRC of a run of bytes from the initial value 0xFFFF (R153). -/
def crcOf (bs : List Byte) : BitVec 16 := bs.foldl crcByte 0xFFFF#16

/-- The frame of a body: marker, length, body, check high byte first (R153). -/
def frameOf (body : List Byte) : List Byte :=
  let covered := byteOf body.length :: body
  let crc := crcOf covered
  marker :: covered ++ [crc.extractLsb' 8 8, crc.extractLsb' 0 8]

/-! ## Bring-up bodies -/

/-- A partner's OFFER as its fields give it (R164). -/
structure PartnerOffer where
  nonce : BitVec 32
  identity : BitVec 32
  role : Byte
  rates : Byte
  formats : Byte
  maxChannels : Byte
  twin : Bool
  name : List Byte
deriving DecidableEq, Repr

/-- The fields of an OFFER, none where the body length does not fit: 16 plus a name length of 0 to 16 (R164). -/
def parseOffer (fields : List Byte) : Option PartnerOffer :=
  match fields with
  | n3 :: n2 :: n1 :: n0 :: i3 :: i2 :: i1 :: i0 :: role :: rates :: formats :: chans :: flags :: len :: name =>
    if name.length = len.toNat ∧ len.toNat ≤ 16 then
      some { nonce := u32 n3 n2 n1 n0, identity := u32 i3 i2 i1 i0, role := role, rates := rates, formats := formats,
             maxChannels := chans, twin := flags.getLsbD 0, name := name }
    else none
  | _ => none

/-- A partner's CONFIRM as its fields give it (R164). -/
structure PartnerConfirm where
  nonce : BitVec 32
  format : Byte
  slots : Byte
  role : Byte
deriving DecidableEq, Repr

/-- The fields of a CONFIRM, none where the body is not 9 bytes (R164). -/
def parseConfirm (fields : List Byte) : Option PartnerConfirm :=
  match fields with
  | [n3, n2, n1, n0, format, slots, role] =>
    some { nonce := u32 n3 n2 n1 n0, format := format, slots := slots, role := role }
  | _ => none

/-- The text "SG48" (R134). -/
def boxName : List Byte := [0x53#8, 0x47#8, 0x34#8, 0x38#8]

/-- The text "PANEL" (R37). -/
def panelName : List Byte := [0x50#8, 0x41#8, 0x4E#8, 0x45#8, 0x4C#8]

/-- The body of the part's OFFER (R134, R164). -/
def offerBody (p : Port) (rate : BoxRate) (nonce : BitVec 32) : List Byte :=
  [0x01#8, 0#8] ++ be32 nonce ++ be32 (BitVec.ofNat 32 (p.val + 1)) ++
    [Role.code .box, byteOf (2 ^ rate.bit), 0x0F#8, byteOf rate.capacity, 0#8, byteOf boxName.length] ++ boxName

/-- The body of the part's CONFIRM: the tag and nonce of the partner's OFFER and the resolved values (R137). -/
def confirmBody (tag : Byte) (nonce : BitVec 32) (r : Resolved) : List Byte :=
  [0x02#8, tag] ++ be32 nonce ++ [r.format.code, byteOf r.slots, r.role.code]

/-- The body of the part's REFUSE (R142). -/
def refuseBody (tag : Byte) (why : Reason) (nonce : BitVec 32) : List Byte :=
  [0x03#8, tag, why.code] ++ be32 nonce

/-! ## Requests and replies -/

/-- The seventeen request kinds (R165). -/
inductive RequestKind where
  | level
  | mute
  | map
  | take
  | release
  | pad
  | phantom
  | queryInput
  | queryLink
  | queryLane
  | queryConsumer
  | lock
  | force
  | setRate
  | setAlign
  | resetPort
  | restart
deriving DecidableEq, Repr

/-- Kind codes (R165). -/
def RequestKind.code : RequestKind → Byte
  | .level => 0x10#8
  | .mute => 0x11#8
  | .map => 0x12#8
  | .take => 0x13#8
  | .release => 0x14#8
  | .pad => 0x15#8
  | .phantom => 0x16#8
  | .queryInput => 0x20#8
  | .queryLink => 0x21#8
  | .queryLane => 0x22#8
  | .queryConsumer => 0x23#8
  | .lock => 0x30#8
  | .force => 0x31#8
  | .setRate => 0x32#8
  | .setAlign => 0x33#8
  | .resetPort => 0x34#8
  | .restart => 0x35#8

/-- Every request kind. -/
def allKinds : List RequestKind :=
  [.level, .mute, .map, .take, .release, .pad, .phantom, .queryInput, .queryLink, .queryLane, .queryConsumer, .lock,
    .force, .setRate, .setAlign, .resetPort, .restart]

/-- The request a kind code names, or none (R167 step 1). -/
def kindOf (b : Byte) : Option RequestKind := allKinds.find? fun k => k.code == b

/-- OFFER's kind code (R164). -/
def offerKind : Byte := 0x01#8

/-- CONFIRM's kind code (R164). -/
def confirmKind : Byte := 0x02#8

/-- How many field bytes follow kind and tag: the body length of R165 less two. MAP has one or more; it is at most 198
since a frame's body is at most 200 bytes. -/
def RequestKind.fits (k : RequestKind) (n : Nat) : Bool :=
  match k with
  | .level => n == 3
  | .mute => n == 2
  | .map => decide (1 ≤ n) && decide (n ≤ 198)
  | .take => n == 1
  | .release => n == 1
  | .pad => n == 2
  | .phantom => n == 2
  | .queryInput => n == 1
  | .queryLink => n == 2
  | .queryLane => n == 2
  | .queryConsumer => n == 1
  | .lock => n == 2
  | .force => n == 1
  | .setRate => n == 1
  | .setAlign => n == 2
  | .resetPort => n == 1
  | .restart => n == 0

/-- The kinds only the panel may send (R167 step 3). -/
def RequestKind.panelOnly : RequestKind → Bool
  | .lock => true
  | .force => true
  | .setRate => true
  | .setAlign => true
  | .resetPort => true
  | .restart => true
  | .queryConsumer => true
  | .level => false
  | .mute => false
  | .map => false
  | .take => false
  | .release => false
  | .pad => false
  | .phantom => false
  | .queryInput => false
  | .queryLink => false
  | .queryLane => false

/-- The input-touching kinds (R167 step 5). -/
def RequestKind.touchesInput : RequestKind → Bool
  | .level => true
  | .mute => true
  | .map => true
  | .take => true
  | .release => true
  | .pad => true
  | .phantom => true
  | .queryInput => true
  | .lock => true
  | .force => true
  | .queryLink => false
  | .queryLane => false
  | .queryConsumer => false
  | .setRate => false
  | .setAlign => false
  | .resetPort => false
  | .restart => false

/-- The body of a REPLY (R166). -/
def replyBody (tag kind : Byte) (r : ResultCode) (payload : List Byte) : List Byte :=
  [0x40#8, tag, kind, r.code] ++ payload

/-! ## Notices -/

/-- A notice's subject, which is what is marked when it cannot be queued (R175). -/
inductive Subject where
  | input (i : Input)
  | port (p : Port)
  | chip (c : Chip)
deriving DecidableEq, Repr

/-- The notices with their contents (R171). -/
inductive Notice where
  | moved (i : Input) (o : MovedOutcome) (setting : Setting)
  | owner (i : Input) (now before : BitVec 32) (waiting : Nat)
  | limit (i : Input) (flag : Bool) (deficit : Int)
  | phantomState (i : Input) (ph : PhantomState) (seq : SeqState) (o : PhantomOutcome)
  | clip (i : Input) (count : Nat)
  /-- STATE with the 30 bytes of the state block (R168). -/
  | state (i : Input) (block : List Byte)
  | link (p : Port) (now before : PortState) (flags : Tab 12 Bool)
  | chip (c : Chip) (st : ChipState)
deriving DecidableEq, Repr

/-- The subject of a notice (R175). -/
def Notice.subject : Notice → Subject
  | .moved i _ _ => .input i
  | .owner i _ _ _ => .input i
  | .limit i _ _ => .input i
  | .phantomState i _ _ _ => .input i
  | .clip i _ => .input i
  | .state i _ => .input i
  | .link p _ _ _ => .port p
  | .chip c _ => .chip c

/-- The body of a notice, with tag 0 (R171). -/
def Notice.body : Notice → List Byte
  | .moved i o t => [0x50#8, 0#8, inputByte i, o.code] ++ beInt16 t.value ++
      [switchByte t.pad, byteOf t.p]
  | .owner i now before n => [0x51#8, 0#8, inputByte i] ++ be32 now ++ be32 before ++ [byteOf n]
  | .limit i flag d => [0x52#8, 0#8, inputByte i, switchByte flag] ++ beInt16 d
  | .phantomState i ph seq o => [0x53#8, 0#8, inputByte i, ph.code, seq.code, o.code]
  | .clip i n => [0x54#8, 0#8, inputByte i] ++ be16 n
  | .state i block => [0x55#8, 0#8, inputByte i] ++ block
  | .link p now before flags => [0x56#8, 0#8, portByte p, now.code, before.code] ++ be16 (marksValue flags)
  | .chip c st => [0x57#8, 0#8, byteOf (c.val + 1), st.code]

end Sys2Proof.Machine
end

