-- ==== Sys2Proof/Machine/Ops.lean ====
section
/-! DEFINITION. The shared operations: reading and changing one block's state for one input, pair, port or lane; the
queueing of records; the routing of notices and their marks (R159, R160, R175 to R179); the notices that trim and gate
changes raise (R8). Every operation is one update of `State` that names the fields it can touch. -/

namespace Sys2Proof.Machine

/-! ## Numbering -/

/-- The chip that serves an input (R97). -/
def chipOf (i : Input) : Chip := ⟨i.val / 8, by omega⟩

/-- The channel of its chip that serves an input (R97). -/
def channelOf (i : Input) : Channel := ⟨i.val % 8, by omega⟩

/-- The input that channel k of a chip serves (R97). -/
def inputAt (c : Chip) (k : Channel) : Input := ⟨8 * c.val + k.val, by omega⟩

/-- A chip's eight inputs in ascending order. -/
def chipInputs (c : Chip) : List Input := (List.finRange 8).map (inputAt c)

/-- The lane whose number is the index (R157). -/
def laneAt (n : Fin 7) : LaneId := if h : n = 0 then .panel else .split (n.pred h)

/-! ## One input's, port's or lane's cell -/

/-- Change the arbiter's state for one input. -/
def State.modOwn (i : Input) (f : Ownership → Ownership) (s : State) : State := { s with own := s.own.modify i f }

/-- Change the move controller's state for one input. -/
def State.modMove (i : Input) (f : MoveCtl → MoveCtl) (s : State) : State := { s with moves := s.moves.modify i f }

/-- Change the phantom controller's state for one input. -/
def State.modPhantom (i : Input) (f : PhantomCtl → PhantomCtl) (s : State) : State :=
  { s with phantoms := s.phantoms.modify i f }

/-- Change one link negotiator. -/
def State.modPort (p : Port) (f : LinkPort → LinkPort) (s : State) : State := { s with ports := s.ports.modify p f }

/-- Change one lane's receiving side. -/
def State.modRx (l : LaneId) (f : RxSide → RxSide) (s : State) : State := { s with rx := s.rx.modify l.idx f }

/-- Change one lane's transmitting side. -/
def State.modTx (l : LaneId) (f : TxSide → TxSide) (s : State) : State :=
  { s with comm := { s.comm with tx := s.comm.tx.modify l.idx f } }

/-- Change the preamp bus controller. -/
def State.modBus (f : Bus → Bus) (s : State) : State := { s with bus := f s.bus }

/-! ## Pairs -/

/-- The pair of a party and an input, none for a free entry. -/
def PairStore.get (ps : PairStore) (who : Party) (i : Input) : Option Pair :=
  match who with
  | .panel => some (ps.panel.get i)
  | .consumer k => (ps.seats.get k).map fun t => t.get i

/-- Change the pair of a party and an input. -/
def PairStore.modify (ps : PairStore) (who : Party) (i : Input) (f : Pair → Pair) : PairStore :=
  match who with
  | .panel => { ps with panel := ps.panel.modify i f }
  | .consumer k => { ps with seats := ps.seats.modify k fun o => o.map fun t => t.modify i f }

/-- Change every pair of one input. -/
def PairStore.mapInput (ps : PairStore) (i : Input) (f : Pair → Pair) : PairStore :=
  { panel := ps.panel.modify i f, seats := ps.seats.map fun o => o.map fun t => t.modify i f }

/-- Change every pair by a function of its input. -/
def PairStore.mapAll (ps : PairStore) (f : Input → Pair → Pair) : PairStore :=
  { panel := ps.panel.imap f, seats := ps.seats.map fun o => o.map fun t => t.imap f }

/-- The pairs of one input: the panel's and those of every entry in use. -/
def PairStore.ofInput (ps : PairStore) (i : Input) : List Pair := allParties.filterMap fun who => ps.get who i

/-- The pair of a party and an input. -/
def State.pair? (s : State) (who : Party) (i : Input) : Option Pair := s.pairs.get who i

/-! ## Who speaks on a lane -/

/-- The consumer entry that holds a port as bound, if any (R21: at most one). -/
def seatOf (entries : Tab 6 (Option Consumer)) (p : Port) : Option Seat :=
  allSeats.find? fun k => match entries.get k with
    | some c => c.ports.contains p
    | none => false

/-- The party on whose behalf a lane's requests come: the panel, or the consumer bound to the lane's port (R40). -/
def State.requester (s : State) (l : LaneId) : Option Party :=
  match l with
  | .panel => some .panel
  | .split p => (seatOf s.entries p).map .consumer

/-- The identity code by which records name a party (R39, R163). -/
def State.identityOf (s : State) (who : Party) : BitVec 32 :=
  match who with
  | .panel => 0#32
  | .consumer k => match s.entries.get k with
    | some c => c.identity
    | none => noIdentity

/-- The identity code of an owner, or of none. -/
def State.ownerCode (s : State) (o : Option Party) : BitVec 32 :=
  match o with
  | none => noIdentity
  | some who => s.identityOf who

/-- The lanes of one party: its bound ports' lanes, or lane P (R175). -/
def State.lanesOf (s : State) (who : Party) : List LaneId :=
  match who with
  | .panel => [.panel]
  | .consumer k => match s.entries.get k with
    | some c => c.ports.map .split
    | none => []

/-- The lanes of every PRESENT consumer and lane P (R175). A KEEPING consumer has no bound port. -/
def State.partyLanes (s : State) : List LaneId :=
  ((allPorts.filter fun p => (seatOf s.entries p).isSome).map LaneId.split) ++ [.panel]

/-- The lanes a CLIP event goes to: the bound ports whose map in effect holds the input, and lane P (R116, R175). That a
twin's two ports are looked at one by one, where their maps in effect differ, is the model's choice
(notes/assumptions/25.md). -/
def State.clipLanes (s : State) (i : Input) : List LaneId :=
  ((allPorts.filter fun p => (seatOf s.entries p).isSome && (s.streams.get p).map.contains i).map LaneId.split) ++
    [.panel]

/-! ## Queueing records and notices -/

/-- A frame joins a lane's transmit queue (R159). -/
def Comm.queueFrame (c : Comm) (l : LaneId) (body : List Byte) : Comm :=
  { c with tx := c.tx.modify l.idx fun t => { t with queue := t.queue ++ frameOf body } }

/-- How many bytes of a lane's transmit queue are taken. -/
def Comm.used (c : Comm) (l : LaneId) : Nat := (c.tx.get l.idx).queue.length

/-- The reserve test: after queueing the frame at least 96 bytes remain free (R160). -/
def Comm.passes (c : Comm) (l : LaneId) (body : List Byte) : Bool :=
  decide (c.used l + (frameOf body).length + Config.reserve ≤ Config.transmitRoom)

/-- Whether a subject is marked on a lane: in the stale set of a split lane, which holds inputs only, or among the marks
of lane P (R176, R177). -/
def Comm.marked (c : Comm) (l : LaneId) (sub : Subject) : Bool :=
  match l, sub with
  | .split p, .input i => (c.stale.get p).get i
  | .split _, .port _ => false
  | .split _, .chip _ => false
  | .panel, .input i => c.inputMarks.get i
  | .panel, .port p => c.portMarks.get p
  | .panel, .chip ch => c.chipMarks.get ch

/-- Set or clear a subject's mark on a lane. -/
def Comm.setMark (c : Comm) (l : LaneId) (sub : Subject) (b : Bool) : Comm :=
  match l, sub with
  | .split p, .input i => { c with stale := c.stale.modify p fun t => t.set i b }
  | .split _, .port _ => c
  | .split _, .chip _ => c
  | .panel, .input i => { c with inputMarks := c.inputMarks.set i b }
  | .panel, .port p => { c with portMarks := c.portMarks.set p b }
  | .panel, .chip ch => { c with chipMarks := c.chipMarks.set ch b }

/-- A LINK record queued on lane P sets the port's last-told state (R176, R179). -/
def Comm.told (c : Comm) (l : LaneId) (n : Notice) : Comm :=
  match l, n with
  | .panel, .link p now _ _ => { c with lastTold := c.lastTold.set p now }
  | .panel, .moved _ _ _ => c
  | .panel, .owner _ _ _ _ => c
  | .panel, .limit _ _ _ => c
  | .panel, .phantomState _ _ _ _ => c
  | .panel, .clip _ _ => c
  | .panel, .state _ _ => c
  | .panel, .chip _ _ => c
  | .split _, _ => c

/-- A notice is offered to a lane: folded into a mark that stands, queued if it passes the reserve test, or declined and
marked (R176). -/
def Comm.offer (l : LaneId) (n : Notice) (c : Comm) : Comm :=
  if c.marked l n.subject then c
  else if c.passes l n.body then (c.queueFrame l n.body).told l n
  else c.setMark l n.subject true

/-- An event becomes one notice record for each recipient lane (R175). -/
def State.raise (lanes : List LaneId) (n : Notice) (s : State) : State :=
  { s with comm := lanes.foldl (fun c l => c.offer l n) s.comm }

/-- An event that every PRESENT consumer and the panel are told of (R175). -/
def State.broadcast (n : Notice) (s : State) : State := s.raise s.partyLanes n

/-- A record of the part's own on a lane, queued without a room test (R159). -/
def State.send (l : LaneId) (body : List Byte) (s : State) : State :=
  { s with comm := s.comm.queueFrame l body }

/-! ## Trim changes and their LIMIT events -/

/-- The value A of an input's analog setting. -/
def State.analog (s : State) (i : Input) : Int := (s.moves.get i).setting.value

/-- The LIMIT event of a pair's change of trim state, if it enters or leaves LIMITED (R8). -/
def limitNotice (i : Input) (a : Int) (before after : Pair) : Option Notice :=
  if before.trimState ≠ .limited ∧ after.trimState = .limited then
    some (.limit i true ((after.deficit a).getD 0))
  else if before.trimState = .limited ∧ after.trimState ≠ .limited then some (.limit i false 0)
  else none

/-- Offer the LIMIT event of one pair's change to the lanes of the pair's party (R8, R175). -/
def Comm.limitEvent (lanes : List LaneId) (i : Input) (a : Int) (before : Option Pair) (f : Pair → Pair) (c : Comm) :
    Comm :=
  match before with
  | none => c
  | some q => match limitNotice i a q (f q) with
    | none => c
    | some n => lanes.foldl (fun c l => c.offer l n) c

/-- Change one pair's trim part and raise its LIMIT event. -/
def State.updatePair (who : Party) (i : Input) (f : Pair → Pair) (s : State) : State :=
  { s with
    pairs := s.pairs.modify who i f
    comm := s.comm.limitEvent (s.lanesOf who) i (s.analog i) (s.pair? who i) f }

/-- Change the trim part of every pair of an input and raise their LIMIT events, the panel's first and then the entries'
by index. That order is the model's choice: no rule orders the parties (notes/assumptions/24.md). -/
def State.updatePairs (i : Input) (f : Pair → Pair) (s : State) : State :=
  { s with
    pairs := s.pairs.mapInput i f
    comm := allParties.foldl (fun c who => c.limitEvent (s.lanesOf who) i (s.analog i) (s.pair? who i) f) s.comm }

/-- Change the trim part of every pair by a function of its input and raise their LIMIT events, input by input in ascending
order and, for each input, the panel's first and then the entries' by index. That order of the LIMIT events of one sample
period or one SET_RATE is the model's choice: R8, R127 and R175 give none (notes/assumptions/24.md). -/
def State.updateAllPairs (f : Input → Pair → Pair) (s : State) : State :=
  { s with
    pairs := s.pairs.mapAll f
    comm := allInputs.foldl (fun c i => allParties.foldl
      (fun c who => c.limitEvent (s.lanesOf who) i (s.analog i) (s.pair? who i) (f i)) c) s.comm }

/-- The gates of an input's pairs turn toward their requirement (R17, R18). -/
def State.turnGates (i : Input) (s : State) : State :=
  { s with pairs := s.pairs.mapInput i (Pair.turnGate s.rate.fade (s.phantoms.get i).seq) }

/-! ## State blocks and flush notices -/

/-- The requester's position in an input's waiting list, from 1, or 0 (R58). -/
def waitPosition (waiting : List Party) (who : Party) : Nat :=
  match waiting.findIdx? fun w => w == who with
  | none => 0
  | some n => n + 1

/-- The pair fields of a state block (R168); nothing for a party without a pair. -/
def pairBlock (q : Pair) (a : Int) : List Byte :=
  beLevel q.level ++ [switchByte q.mute] ++ beInt16 q.trim ++ [q.trimState.code] ++ beLevel (q.deficit a) ++
    be16 q.gate ++ [q.dir.code] ++ be16 q.sat

/-- The 30-byte state block of an input for a party (R168). -/
def State.stateBlock (s : State) (who : Party) (i : Input) : List Byte :=
  let m := s.moves.get i
  let o := s.own.get i
  let ph := s.phantoms.get i
  beInt16 m.setting.value ++ [switchByte m.setting.pad, byteOf m.setting.p, m.status.code, m.move.code] ++
    be32 (s.ownerCode o.owner) ++ [byteOf o.waiting.length, byteOf (waitPosition o.waiting who), switchByte o.lock,
    ph.phantom.code, ph.seq.code] ++ be16 (s.bus.clips.get i) ++
    (match s.pair? who i with
     | none => []
     | some q => pairBlock q m.setting.value)

/-- The flush notice of a mark, composed from the state as it stands (R179). -/
def State.flushNotice (s : State) (c : Comm) (l : LaneId) (sub : Subject) : Option Notice :=
  match sub with
  | .input i => (s.requester l).map fun who => .state i (s.stateBlock who i)
  | .port p => some (.link p (s.ports.get p).state (c.lastTold.get p) (s.ports.get p).flags)
  | .chip ch => some (.chip ch (s.bus.chips.get ch))

/-- A flush takes a list of marked subjects in order, queues the flush notice of each and removes its mark, and stops at
the first notice that fails the reserve test (R179). -/
def State.flushList (s : State) (l : LaneId) : List Subject → Comm → Comm
  | [], c => c
  | sub :: rest, c =>
    match s.flushNotice c l sub with
    | none => c
    | some n =>
      if c.passes l n.body then s.flushList l rest (((c.queueFrame l n.body).told l n).setMark l sub false) else c

/-- A lane's marks in the order of the flush: ports, chips, inputs, each ascending (R179). -/
def Comm.marksOf (c : Comm) (l : LaneId) : List Subject :=
  (allPorts.map Subject.port ++ allChips.map Subject.chip ++ allInputs.map Subject.input).filter fun sub => c.marked l sub

/-- Attempt a flush of a lane's marks (R179). -/
def State.flush (l : LaneId) (s : State) : State := { s with comm := s.flushList l (s.comm.marksOf l) s.comm }

end Sys2Proof.Machine
end

