-- ==== Sys2Proof/Machine/BusQueue.lean ====
section
/-! DEFINITION. The preamp bus controller's command queue and transactions (R98 to R102, R105): how commands and reads
join the queue, how channel words are built, what begins when a transaction ends, and the bytes a transaction sends. -/

namespace Sys2Proof.Machine

/-- The input whose channel word a command writes. -/
def Command.input : Command → Input
  | .gain i _ _ => i
  | .phantom i _ => i

/-- The channel word a command makes of the shadow: a gain command takes pad and gain from the command and the phantom
bit from the shadow, a phantom command the other way round (R101). -/
def Command.word (c : Command) (shadow : Byte) : Byte :=
  match c with
  | .gain _ pad p => channelWord p pad (wordPhantom shadow)
  | .phantom _ on => channelWord (wordGain shadow) (wordPad shadow) on

/-- Whether a queue entry is a write. -/
def QueueEntry.isWrite : QueueEntry → Bool
  | .write _ => true
  | .verify _ _ _ => false
  | .adoption _ _ => false

/-- A write joins the end of the queue (R102). -/
def Bus.addWrite (c : Command) (b : Bus) : Bus := { b with queue := b.queue ++ [.write c] }

/-- Reads join the queue behind every read already in it and ahead of every write (R102). -/
def Bus.addReads (rs : List QueueEntry) (b : Bus) : Bus :=
  { b with queue := b.queue.takeWhile (fun e => !e.isWrite) ++ rs ++ b.queue.dropWhile fun e => !e.isWrite }

/-- The poll's transaction at a position: a status read where the position's chip is OK, an identity read where it is
FAULTED; a PROBING chip is not reached by the poll (R105). -/
def Bus.pollTxn (b : Bus) : Option Txn :=
  match b.chips.get (chipOf b.pollPos) with
  | .ok => some (.status b.pollPos)
  | .faulted => some (.identity (chipOf b.pollPos))
  | .probing => none

/-- The transaction a queue entry begins as; a write's word is built at this moment (R101). -/
def Bus.txnOf (b : Bus) : QueueEntry → Txn
  | .write c => .write c (b.shadow.get c.input) (c.word (b.shadow.get c.input))
  | .verify c oldWord newWord => .verify c oldWord newWord
  | .adoption c k => .adoption c k

/-- Put a transaction on the wire. -/
def Bus.start (t : Option Txn) (b : Bus) : Bus := { b with flight := t.map fun x => { txn := x, discard := false } }

/-- What begins when a transaction has ended: the head of the queue, or else a poll transaction once READY (R102). -/
def Bus.next (b : Bus) : Bus :=
  match b.queue with
  | e :: rest => Bus.start (some (b.txnOf e)) { b with queue := rest }
  | [] => match b.pass with
    | .ready => Bus.start b.pollTxn b
    | .starting => Bus.start none b

/-- The move goes ON_WIRE (R65). -/
def MoveCtl.goOnWire (m : MoveCtl) : MoveCtl :=
  match m.move with
  | .queued t => { m with move := .onWire t }
  | .idle => m
  | .onWire _ => m
  | .landing _ _ => m

/-- The next transaction begins; where it carries a gain command, the input's move becomes ON_WIRE (R65, R103). -/
def State.beginNext (s : State) : State :=
  { s with
    bus := s.bus.next
    moves := match s.bus.queue with
      | .write (.gain i _ _) :: _ => s.moves.modify i MoveCtl.goOnWire
      | _ => s.moves }

/-- The poll position after an input: the next one, from 48 to 1 (R105). -/
def nextInput (i : Input) : Input := ⟨(i.val + 1) % 48, by omega⟩

/-- The poll position after a chip's last input (R105). -/
def afterChip (c : Chip) : Input := ⟨(8 * c.val + 8) % 48, by omega⟩

/-- The register value of a read, none where the read counts as unanswered (R99). -/
def readValue : ReadReply → Option Byte
  | .silent => none
  | .bytes first second => if first = 0x06#8 then second else none

/-- The value of a read of a channel word: a word outside the domain is treated as unanswered (R97). -/
def readWord (r : ReadReply) : Option Byte :=
  match readValue r with
  | none => none
  | some w => if inDomain w then some w else none

/-- The address byte of a chip: 0x30 + c in bits 7 to 1, and the read flag in bit 0 (R98). -/
def addressByte (c : Chip) (read : Bool) : Byte := byteOf (2 * (0x31 + c.val) + (if read then 1 else 0))

/-- The bytes the part sends for a transaction: address, register index and, for a write, the value (R97 to R99). -/
def Txn.wire : Txn → List Byte
  | .write c _ newWord => [addressByte (chipOf c.input) false, byteOf (channelOf c.input).val, newWord]
  | .verify c _ _ => [addressByte (chipOf c.input) true, byteOf (channelOf c.input).val]
  | .status i => [addressByte (chipOf i) true, byteOf (8 + (channelOf i).val)]
  | .identity c => [addressByte c true, byteOf 16]
  | .adoption c k => [addressByte c true, byteOf k.val]
  | .startIdentity c => [addressByte c true, byteOf 16]
  | .startWrite c k => [addressByte c false, byteOf k.val, 0#8]
  | .startVerify c k => [addressByte c true, byteOf k.val]
  | .startAdoption c k => [addressByte c true, byteOf k.val]

end Sys2Proof.Machine
end

