-- ==== Sys2Proof/Machine/Moves.lean ====
section
/-! DEFINITION. The move controller's handling of targets (R61 to R64, R79). -/

namespace Sys2Proof.Machine

/-- The in-flight target of a move (R59). -/
def Move.inFlight : Move → Option Setting
  | .idle => none
  | .queued t => some t
  | .onWire t => some t
  | .landing t _ => some t

/-- Whether a hold applies to an input: its analog status is UNCERTAIN, or its phantom sequence is not IDLE (R61). -/
def State.holds (s : State) (i : Input) : Bool :=
  decide ((s.moves.get i).status = .uncertain) || decide ((s.phantoms.get i).seq ≠ .idle)

/-- What a target does to one input's move state, and whether a move is issued for it (R61, R62, R64). -/
def MoveCtl.deal (hold : Bool) (t : Setting) (m : MoveCtl) : MoveCtl × Bool :=
  match m.move.inFlight with
  | some f => ({ m with pending := if t = f then none else some t }, false)
  | none =>
    if t = m.setting then ({ m with pending := none, failed := none }, false)
    else if m.failed = some t then ({ m with pending := none }, false)
    else if hold then ({ m with pending := some t, failed := none }, false)
    else ({ m with move := .queued t, pending := none, failed := none }, true)

/-- A target is handed to the move controller; an issued move puts its gain command in the queue (R61 to R64). -/
def State.handTarget (i : Input) (t : Setting) (s : State) : State :=
  { s with
    moves := s.moves.set i (MoveCtl.deal (s.holds i) t (s.moves.get i)).1
    bus := if (MoveCtl.deal (s.holds i) t (s.moves.get i)).2 then s.bus.addWrite (.gain i t.pad t.p) else s.bus }

/-- A pending target held on an IDLE input is dealt with afresh (R71 step 4, R76, R79). -/
def State.dealPending (i : Input) (s : State) : State :=
  match (s.moves.get i).move, (s.moves.get i).pending with
  | .idle, some t => s.handTarget i t
  | .idle, none => s
  | .queued _, _ => s
  | .onWire _, _ => s
  | .landing _ _, _ => s

/-- Whether a move is under way on an input (R83 case 2, R126). -/
def Move.busy : Move → Bool
  | .idle => false
  | .queued _ => true
  | .onWire _ => true
  | .landing _ _ => true

/-- Whether a move lands at the next sample period boundary: its landing count stands at 0 (R68). -/
def Move.due : Move → Bool
  | .landing _ 0 => true
  | .landing _ (_ + 1) => false
  | .idle => false
  | .queued _ => false
  | .onWire _ => false

/-- Whether a landing is due, on any input, at the boundary at which the next sample period begins (R68). -/
def State.landingDue (s : State) : Bool := allInputs.any fun i => (s.moves.get i).move.due

/-- The setting that R4 takes the step count from: the pending target, else the in-flight target, else the setting. -/
def MoveCtl.latest (m : MoveCtl) : Setting :=
  match m.pending with
  | some t => t
  | none => match m.move.inFlight with
    | some t => t
    | none => m.setting

end Sys2Proof.Machine
end

