-- ==== Sys2Proof/Machine/Phantoms.lean ====
section
/-! DEFINITION. The phantom controller's sequences (R82 to R95). -/

namespace Sys2Proof.Machine

/-- The phantom state that a switch value names. -/
def phantomOf (on : Bool) : PhantomState := if on then .on else .off

/-- Raise a PHANTOM_STATE event with the states now in force (R94). -/
def State.raisePhantom (i : Input) (o : PhantomOutcome) (s : State) : State :=
  s.broadcast (.phantomState i (s.phantoms.get i).phantom (s.phantoms.get i).seq o)

/-- A sequence starts for a value and enters FADE_OUT: origin and target are set and the outcome is absent, every gate of
the input turns, and the STARTED event is raised (R83 case 3, R85). -/
def State.startSequence (i : Input) (on : Bool) (s : State) : State :=
  ((s.modPhantom i fun q =>
    { q with origin := some q.phantom, target := some on, outcome := none, seq := .fadeOut }).turnGates i).raisePhantom
      i .started

/-- Entry to WRITING: a phantom command with the sequence target joins the command queue (R86). -/
def State.enterWriting (i : Input) (s : State) : State :=
  { s with
    phantoms := s.phantoms.modify i fun q => { q with seq := .writing, settle := none }
    bus := match (s.phantoms.get i).target with
      | some on => s.bus.addWrite (.phantom i on)
      | none => s.bus }

/-- Entry to SETTLING: the settle timer starts (R87). -/
def State.enterSettling (i : Input) (s : State) : State :=
  s.modPhantom i fun q => { q with seq := .settling, settle := some s.clock }

/-- Entry to FADE_IN: the pairs whose mute is off are required open, and their gates turn (R88). -/
def State.enterFadeIn (i : Input) (s : State) : State :=
  (s.modPhantom i fun q => { q with seq := .fadeIn, settle := none }).turnGates i

/-- Raise the event that ends a sequence, with the outcome it has earned (R88). A sequence always has one by then
(notes/assumptions/15.md). -/
def State.raiseEnd (i : Input) (o : Option SeqOutcome) (s : State) : State :=
  match o with
  | none => s
  | some x => s.raisePhantom i (.ended x)

/-- The end of FADE_IN: the input enters IDLE, its ending event is raised, and a held gain target is released (R79,
R88). -/
def State.endSequence (i : Input) (s : State) : State :=
  let o := (s.phantoms.get i).outcome
  ((s.modPhantom i fun q =>
    { q with seq := .idle, origin := none, target := none, reversal := none, outcome := none }).raiseEnd i o).dealPending
      i

/-- Every pair of the input stands at g = 0 (R85). -/
def State.allSilent (s : State) (i : Input) : Bool := (s.pairs.ofInput i).all fun q => decide (q.gate = 0)

/-- Every pair of the input whose mute is off stands OPEN (R88). -/
def State.allOpen (s : State) (i : Input) : Bool := (s.pairs.ofInput i).all fun q => q.mute || decide (q.dir = .opened)

/-- FADE_OUT ends where every pair stands at g = 0 (R85). That a FADE_OUT_END command which comes before the first sample
period after the entry ends it too, if the gates so stand, is the model's choice: R85 puts the end at a sample period
(notes/assumptions/27.md). -/
def State.endFadeOut (i : Input) (s : State) : State :=
  if (s.phantoms.get i).seq = .fadeOut ∧ s.allSilent i = true then s.enterWriting i else s

/-- FADE_IN ends where every pair whose mute is off is OPEN (R88). That a FADE_IN_END command which comes before the first
sample period after the entry ends it too, if the gates so stand, is the model's choice: R88 puts the end at a sample period
(notes/assumptions/27.md). -/
def State.endFadeIn (i : Input) (s : State) : State :=
  if (s.phantoms.get i).seq = .fadeIn ∧ s.allOpen i = true then s.endSequence i else s

/-- The settle timer expires: back to WRITING for a pending reversal, or on to FADE_IN (R87). -/
def State.settleExpired (i : Input) (s : State) : State :=
  if (s.phantoms.get i).seq = .settling then
    match (s.phantoms.get i).reversal with
    | some on => (s.modPhantom i fun q => { q with target := some on, reversal := none }).enterWriting i
    | none => s.enterFadeIn i
  else s

/-- A phantom command is reported taken: the phantom state becomes the sequence target, and the settle begins (R86). The
command is one of an input in WRITING (R101). -/
def State.phantomTaken (i : Input) (s : State) : State :=
  if (s.phantoms.get i).seq = .writing then
    (s.modPhantom i fun q =>
      { q with
        phantom := match q.target with
          | some on => phantomOf on
          | none => q.phantom
        outcome := some .switched }).enterSettling i
  else s

/-- A phantom command is reported not taken: any reversal is cleared, and the sequence fails (R86). -/
def State.phantomNotTaken (i : Input) (s : State) : State :=
  if (s.phantoms.get i).seq = .writing then
    (s.modPhantom i fun q => { q with reversal := none, outcome := some .failed }).enterFadeIn i
  else s

/-- A request taken in FADE_OUT (R89). -/
def State.phantomInFadeOut (i : Input) (on : Bool) (s : State) : State :=
  if (s.phantoms.get i).target = some on then s
  else if (s.phantoms.get i).origin = some (phantomOf on) then
    (s.modPhantom i fun q => { q with outcome := some .cancelled }).enterFadeIn i
  else s.modPhantom i fun q => { q with target := some on }

/-- A request taken in WRITING or SETTLING (R90). -/
def State.phantomReversal (i : Input) (on : Bool) (s : State) : State :=
  s.modPhantom i fun q => { q with reversal := if q.target = some on then none else some on }

/-- A request with authority that has passed the chip check, by the step in progress (R83, R89 to R91). -/
def State.phantomRequest (i : Input) (on : Bool) (s : State) : State :=
  match (s.phantoms.get i).seq with
  | .idle =>
    if (s.phantoms.get i).phantom = phantomOf on then s.modPhantom i fun q => { q with held := none }
    else if (s.moves.get i).move.busy then s.modPhantom i fun q => { q with held := some on }
    else s.startSequence i on
  | .fadeOut => s.phantomInFadeOut i on
  | .writing => s.phantomReversal i on
  | .settling => s.phantomReversal i on
  | .fadeIn => if (s.phantoms.get i).phantom = phantomOf on then s else s.startSequence i on

/-- The end of a move is reported: a held request's sequence leaves IDLE now (R71 step 3, R84). -/
def State.startHeld (i : Input) (s : State) : State :=
  match (s.phantoms.get i).held with
  | none => s
  | some on => (s.modPhantom i fun q => { q with held := none }).startSequence i on

/-- A chip fault discards a held request of an IDLE input and tells of it (R84, R92). -/
def State.dropHeld (i : Input) (s : State) : State :=
  match (s.phantoms.get i).held with
  | none => s
  | some _ => (s.modPhantom i fun q => { q with held := none }).raisePhantom i (.ended .failed)

/-- A chip fault during a sequence: the reversal is cleared, the phantom state is the shadow's, the sequence fails and
the input is in FADE_IN (R92). -/
def State.failSequence (i : Input) (s : State) : State :=
  (s.modPhantom i fun q =>
    { q with
      reversal := none
      phantom := phantomOf (wordPhantom (s.bus.shadow.get i))
      outcome := some .failed }).enterFadeIn i

/-- A chip fault as it reaches one input's sequence (R92). -/
def State.faultPhantom (i : Input) (s : State) : State :=
  match (s.phantoms.get i).seq with
  | .idle => s.dropHeld i
  | .fadeOut => s.failSequence i
  | .writing => s.failSequence i
  | .settling => s.failSequence i
  | .fadeIn => s.failSequence i

/-- The treatment of a sequence by a phantom fault report: only a settle toward ON ends early (R93). -/
def State.faultDuringSettle (i : Input) (s : State) : State :=
  if (s.phantoms.get i).seq = .settling ∧ (s.phantoms.get i).target = some true then
    (s.modPhantom i fun q => { q with reversal := none, outcome := some .failed }).enterFadeIn i
  else s

/-- A phantom fault report (R93). The event carries the sequence state in force when the report is taken
(notes/assumptions/13.md). -/
def State.phantomFault (i : Input) (s : State) : State :=
  if (s.phantoms.get i).phantom = .faulted ∧ (s.phantoms.get i).seq = .idle then s
  else ((s.modPhantom i fun q => { q with phantom := .faulted }).raisePhantom i .fault).faultDuringSettle i

end Sys2Proof.Machine
end

