-- ==== Sys2Proof/Machine/Arbiter.lean ====
section
/-! DEFINITION. The ownership arbiter (R39 to R57). -/

namespace Sys2Proof.Machine

/-- The owner level G: the level of the owner's pair, absent without an owner (R50). -/
def State.ownerLevel (s : State) (i : Input) : Option Int :=
  match (s.own.get i).owner with
  | none => none
  | some who => match s.pair? who i with
    | none => none
    | some q => q.level

/-- G is taken afresh; where it is present, the target for it and the pad choice is handed over (R3, R50). -/
def State.handOwnerTarget (i : Input) (s : State) : State :=
  match s.ownerLevel i with
  | none => s
  | some g => s.handTarget i (analogTarget g (s.own.get i).padChoice)

/-- The owner after a change, off the waiting list (R51 steps 1 and 2). -/
def Ownership.give (who : Option Party) (o : Ownership) : Ownership :=
  { o with
    owner := who
    waiting := match who with
      | none => o.waiting
      | some w => o.waiting.filter fun x => x != w }

/-- Raise the OWNER event of a change of owner (R57). -/
def State.raiseOwner (i : Input) (before : Option Party) (s : State) : State :=
  s.broadcast (.owner i (s.ownerCode (s.own.get i).owner) (s.ownerCode before) (s.own.get i).waiting.length)

/-- A change of an input's owner, carried out as one step (R51). -/
def State.changeOwner (i : Input) (who : Option Party) (s : State) : State :=
  ((s.modOwn i (Ownership.give who)).handOwnerTarget i).raiseOwner i (s.own.get i).owner

/-- Ownership passes to the oldest waiter, or to none (R43, R53). -/
def State.passOn (i : Input) (s : State) : State := s.changeOwner i (s.own.get i).waiting.head?

/-- A locked input whose owner is erased: the panel's pair takes the erased consumer's level, and the panel becomes
owner (R54). -/
def State.passToPanel (k : Seat) (i : Input) (s : State) : State :=
  let l := match s.pair? (.consumer k) i with
    | none => none
    | some q => q.level
  (s.updatePair .panel i (Pair.storeLevel (s.moves.get i).status (s.analog i) l)).changeOwner i (some .panel)

/-- One input's part of an erasure: handed on where the erased consumer owns it (R53). -/
def State.handOn (k : Seat) (i : Input) (s : State) : State :=
  if (s.own.get i).owner = some (.consumer k) then
    if (s.own.get i).lock then s.passToPanel k i else s.passOn i
  else s

/-- A party leaves one waiting list (R44, R52). -/
def Ownership.leave (who : Party) (o : Ownership) : Ownership := { o with waiting := o.waiting.filter fun x => x != who }

/-- The pad choice takes a value, and the target it gives is handed over: by R3 where G is present, by R4 where it is
absent (R48). -/
def State.choosePad (i : Input) (pad : Bool) (s : State) : State :=
  let s1 := s.modOwn i fun o => { o with padChoice := pad }
  match s.ownerLevel i with
  | some g => s1.handTarget i (analogTarget g pad)
  | none => s1.handTarget i (keptTarget pad (s.moves.get i).latest.p)

/-- The arbiter's answer to an adoption: the pad choice follows the adopted pad where there is no owner, and a present
owner level's target is handed over (R56, R76). -/
def State.arbiterAdopts (i : Input) (s : State) : State :=
  match (s.own.get i).owner with
  | none => s.modOwn i fun o => { o with padChoice := (s.moves.get i).setting.pad }
  | some _ => s.handOwnerTarget i

end Sys2Proof.Machine
end

