-- ==== Sys2Proof/Machine/MoveEnds.lean ====
section
/-! DEFINITION. How moves end and how an input's setting is adopted: landings, failures, abandonment by a chip fault,
adoption and the start-up writes (R66 to R77, R80). -/

namespace Sys2Proof.Machine

/-- Raise a MOVED event with the setting in force (R80). -/
def State.raiseMoved (i : Input) (o : MovedOutcome) (s : State) : State :=
  s.broadcast (.moved i o (s.moves.get i).setting)

/-- The end of a move: IDLE, the MOVED event, the report to the phantom controller, and the pending target (R71). -/
def State.endMove (i : Input) (o : MovedOutcome) (s : State) : State :=
  (((s.modMove i fun m => { m with move := .idle }).raiseMoved i o).startHeld i).dealPending i

/-- A landing: the setting takes the in-flight target, every level-holding pair's trim jumps by -ΔA and is retargeted,
and the move ends (R70). -/
def State.land (i : Input) (t : Setting) (s : State) : State :=
  ((s.modMove i fun m => { m with setting := t }).updatePairs i
    (Pair.land (s.moves.get i).status (t.value - s.analog i) t.value)).endMove i .landed

/-- A LANDING move whose count stands at 0 lands (R68). -/
def State.landIfDue (i : Input) (s : State) : State :=
  match (s.moves.get i).move with
  | .landing t 0 => s.land i t
  | .landing _ (_ + 1) => s
  | .idle => s
  | .queued _ => s
  | .onWire _ => s

/-- A sample period boundary for one input: a count at 0 lands, any other falls by one (R68). -/
def State.landingBoundary (i : Input) (s : State) : State :=
  match (s.moves.get i).move with
  | .landing t 0 => s.land i t
  | .landing t (n + 1) => s.modMove i fun m => { m with move := .landing t n }
  | .idle => s
  | .queued _ => s
  | .onWire _ => s

/-- A gain command is reported taken: LANDING, with the count at the D in force (R66). -/
def State.moveTaken (i : Input) (s : State) : State :=
  match (s.moves.get i).move with
  | .onWire t => s.modMove i fun m => { m with move := .landing t s.align }
  | .idle => s
  | .queued _ => s
  | .landing _ _ => s

/-- A gain command is reported not taken: the move fails, and its target is the failed-target mark (R67). -/
def State.moveNotTaken (i : Input) (s : State) : State :=
  match (s.moves.get i).move with
  | .onWire t => (s.modMove i fun m => { m with failed := some t }).endMove i .failed
  | .idle => s
  | .queued _ => s
  | .landing _ _ => s

/-- The move controller's part of a chip fault for one input: UNCERTAIN, any move abandoned, and its target kept as the
pending target unless a later one is held (R73). -/
def MoveCtl.abandon (m : MoveCtl) : MoveCtl :=
  { m with
    status := .uncertain
    move := .idle
    pending := match m.pending with
      | some t => some t
      | none => m.move.inFlight }

/-- A chip fault as it reaches one input's move and pairs: abandoned and frozen (R7, R73). -/
def State.faultMove (i : Input) (s : State) : State :=
  (s.modMove i MoveCtl.abandon).updatePairs i fun q => Pair.settleTrim q.trimState .uncertain (s.analog i) q

/-- An input becomes KNOWN with a setting: its pairs are retargeted and released (R7, R75 steps 1 and 2, R77). -/
def State.becomeKnown (i : Input) (t : Setting) (s : State) : State :=
  (s.modMove i fun m => { m with setting := t, failed := none, status := .known }).updatePairs i
    (Pair.retarget .known t.value)

/-- The adoption of one input from the word read: by the move controller, with its MOVED event outside the start-up
pass, by the arbiter, and by the phantom controller (R75, R76, R78, R95, R110). -/
def State.adopt (startUp : Bool) (i : Input) (w : Byte) (s : State) : State :=
  let s1 := s.becomeKnown i (wordSetting w)
  let s2 := if startUp then s1 else s1.raiseMoved i .adopted
  ((s2.arbiterAdopts i).dealPending i).modPhantom i fun q => { q with phantom := phantomOf (wordPhantom w) }

end Sys2Proof.Machine
end

