-- ==== Sys2Proof/Machine/Table.lean ====
section
/-! DEFINITION. The consumer table: binds, unbinds and erasures (R21 to R31). -/

namespace Sys2Proof.Machine

/-- What a bind report carries (R21, R138). -/
structure BindReport where
  port : Port
  identity : BitVec 32
  name : List Byte
  role : Role
  twin : Bool
  format : Format
  slots : Nat
deriving DecidableEq, Repr

/-- Whether a consumer is KEEPING. -/
def Presence.isKeeping : Presence → Bool
  | .present => false
  | .keeping _ _ => true

/-- The stamp of a KEEPING consumer's keep timer. -/
def Presence.stamp : Presence → Nat
  | .present => 0
  | .keeping _ n => n

/-- The entry that holds an identity code (R21: at most one). -/
def seatNamed (entries : Tab 6 (Option Consumer)) (identity : BitVec 32) : Option Seat :=
  allSeats.find? fun k => match entries.get k with
    | some c => c.identity == identity
    | none => false

/-- The lowest-numbered free consumer entry (R23). -/
def freeSeat (entries : Tab 6 (Option Consumer)) : Option Seat :=
  allSeats.find? fun k => (entries.get k).isNone

/-- The stamp of the keep timer of an entry, if it is KEEPING. -/
def keepStampOf (entries : Tab 6 (Option Consumer)) (k : Seat) : Option Nat :=
  match entries.get k with
  | none => none
  | some c => if c.presence.isKeeping then some c.presence.stamp else none

/-- The KEEPING entry whose keep timer started earliest, the lowest index among equals (R24). -/
def evictedSeat (entries : Tab 6 (Option Consumer)) : Option Seat :=
  allSeats.foldl (fun best k => match keepStampOf entries k, best with
    | none, _ => best
    | some _, none => some k
    | some n, some b => match keepStampOf entries b with
      | none => some k
      | some m => if n < m then some k else some b) none

/-- A stamp later than that of every keep timer that runs (notes/assumptions/6.md). -/
def State.nextStamp (s : State) : Nat :=
  1 + allSeats.foldl (fun acc k => max acc ((keepStampOf s.entries k).getD 0)) 0

/-- Erasure of a consumer: its inputs are handed on in ascending order, its pairs are deleted, and the entry is freed
(R30, R53). -/
def State.erase (k : Seat) (s : State) : State :=
  let s1 := allInputs.foldl (fun acc i => acc.handOn k i) s
  { s1 with
    pairs := { s1.pairs with seats := s1.pairs.seats.set k none }
    entries := s1.entries.set k none }

/-- The 48 pairs of a new entry (R9, R31). -/
def State.freshPairs (s : State) : Tab 48 Pair :=
  Tab.ofFn fun i => Pair.fresh s.rate.fade (s.moves.get i).status (s.phantoms.get i).seq

/-- A fresh consumer in an entry, with the inputs 1 up to the slot count as its map (R23). -/
def State.createConsumer (k : Seat) (r : BindReport) (s : State) : State :=
  { s with
    entries := s.entries.set k (some
      { identity := r.identity, name := r.name, role := r.role, presence := .present, ports := [r.port],
        format := r.format, slots := r.slots, map := allInputs.take r.slots })
    pairs := { s.pairs with seats := s.pairs.seats.set k (some s.freshPairs) } }

/-- A rebind: the entry takes the name, format and slot count of the report and keeps the rest (R25). -/
def State.rebind (k : Seat) (r : BindReport) (s : State) : State :=
  { s with entries := s.entries.modify k fun o => o.map fun c =>
      { c with presence := .present, ports := [r.port], name := r.name, format := r.format, slots := r.slots } }

/-- A twin join: the port follows the first, and the entry takes the report's name (R27). -/
def State.joinTwin (k : Seat) (r : BindReport) (s : State) : State :=
  { s with entries := s.entries.modify k fun o => o.map fun c =>
      { c with ports := c.ports ++ [r.port], name := r.name } }

/-- The test of R27 for a second port of a PRESENT consumer: none where it may join, else the reason of the refusal. The
twin-capable mark of the first port's OFFER is read from that port's partner page. -/
def State.twinTest (s : State) (c : Consumer) (twin : Bool) (format : Format) (slots : Nat) (role : Role) :
    Option Reason :=
  match c.ports with
  | [first] =>
    let mark := match (s.ports.get first).page with
      | some pg => pg.twin
      | none => false
    if !(twin && mark) then some .duplicate
    else if format = c.format ∧ slots = c.slots ∧ role = c.role then none
    else some .twinMismatch
  | [] => some .duplicate
  | _ :: _ :: _ => some .duplicate

/-- A bind report: the state after it, and the reason where the table refuses the bind (R23 to R27). -/
def State.bind (r : BindReport) (s : State) : State × Option Reason :=
  match seatNamed s.entries r.identity with
  | none =>
    match freeSeat s.entries with
    | some k => (s.createConsumer k r, none)
    | none =>
      match evictedSeat s.entries with
      | some k => ((s.erase k).createConsumer k r, none)
      | none => (s, some .duplicate)
  | some k =>
    match s.entries.get k with
    | none => (s, some .duplicate)
    | some c =>
      if c.presence.isKeeping then
        if c.role = r.role then (s.rebind k r, none) else ((s.erase k).createConsumer k r, none)
      else
        match s.twinTest c r.twin r.format r.slots r.role with
        | none => (s.joinTwin k r, none)
        | some why => (s, some why)

/-- A consumer without a port: it loses the port, and goes KEEPING where none remains (R28). -/
def Consumer.losePort (p : Port) (now stamp : Nat) (c : Consumer) : Consumer :=
  let left := c.ports.filter fun x => x != p
  { c with ports := left, presence := if left.isEmpty then .keeping now stamp else c.presence }

/-- An unbind report: the port leaves its consumer; a consumer left without a port goes KEEPING and leaves every waiting
list (R28, R52). A port that no entry holds changes nothing. -/
def State.unbind (p : Port) (stamp : Nat) (s : State) : State :=
  match seatOf s.entries p with
  | none => s
  | some k =>
    let after := (s.entries.get k).map (Consumer.losePort p s.clock stamp)
    { s with
      entries := s.entries.set k after
      own := match after with
        | none => s.own
        | some c => if c.ports.isEmpty then s.own.map (Ownership.leave (.consumer k)) else s.own }

/-- A keep timer's expiry erases its KEEPING consumer (R29, R30). -/
def State.keepExpired (k : Seat) (s : State) : State :=
  match keepStampOf s.entries k with
  | none => s
  | some _ => s.erase k

/-- The keep time that remains, in units of 100 ms rounded up: 1 to 100 while KEEPING, 0 while PRESENT (R38). -/
def State.keepLeft (s : State) (c : Consumer) : Nat :=
  match c.presence with
  | .present => 0
  | .keeping since _ =>
    max 1 ((Config.keepTime - (s.clock - since) + Config.keepReportUnit - 1) / Config.keepReportUnit)

end Sys2Proof.Machine
end

