-- ==== Sys2Proof/Machine/Links.lean ====
section
/-! DEFINITION. The link negotiators (R129 to R147) and the lane flush that their entries make (R161). -/

namespace Sys2Proof.Machine

/-- A lane flush: the receive queue, the partial and the held record and the transmit queue are emptied; the counters
and a break being driven are left as they are (R152, R161). -/
def State.flushLane (l : LaneId) (s : State) : State :=
  (s.modRx l fun r => { r with queue := [], overrunPending := false, gapRef := none, framer := .hunt }).modTx l
    fun t => { t with queue := [] }

/-- Whether the lane drives a break (R133). -/
def State.driveBreak (l : LaneId) (b : Bool) (s : State) : State := s.modTx l fun t => { t with breaking := b }

/-- The port's stale set is emptied (R177). -/
def State.clearStale (p : Port) (s : State) : State :=
  { s with comm := { s.comm with stale := s.comm.stale.set p (Tab.const 48 false) } }

/-- Raise a LINK event, which goes to lane P (R147, R175). -/
def State.raiseLink (p : Port) (before : PortState) (flags : Tab 12 Bool) (s : State) : State :=
  s.raise [.panel] (.link p (s.ports.get p).state before flags)

/-- The port leaves BOUND: its frames stop, its unbind is reported, and its stale set is emptied (R124, R143). -/
def State.leaveBound (p : Port) (stamp : Nat) (s : State) : State :=
  { s.unbind p stamp with
    streams := s.streams.set p Stream.atPowerOn
    comm := { s.comm with stale := s.comm.stale.set p (Tab.const 48 false) } }

/-- R143, for a port that is BOUND. -/
def State.leaveIfBound (p : Port) (stamp : Nat) (s : State) : State :=
  if (s.ports.get p).state = .bound then s.leaveBound p stamp else s

/-- A negotiator without nonce, partner page, resolved values and timer. -/
def LinkPort.discardAll (q : LinkPort) : LinkPort :=
  { q with nonce := none, page := none, resolved := none, timer := none }

/-- Entry to HOLD from any state: the port leaves BOUND if it was, its values are discarded, the lane is flushed and
drives a break, and the hold timer starts (R133, R177). -/
def State.enterHold (p : Port) (flags : Tab 12 Bool) (stamp : Nat) (s : State) : State :=
  (((((s.leaveIfBound p stamp).flushLane (.split p)).driveBreak (.split p) true).clearStale p).modPort p fun q =>
    { q.discardAll.goTo .hold with timer := some (.hold, s.clock) }).raiseLink p (s.ports.get p).state flags

/-- Entry to DOWN: as for HOLD, but that no break is driven and no timer runs (R131, R177). -/
def State.enterDown (p : Port) (flags : Tab 12 Bool) (stamp : Nat) (s : State) : State :=
  (((((s.leaveIfBound p stamp).flushLane (.split p)).driveBreak (.split p) false).clearStale p).modPort p fun q =>
    q.discardAll.goTo .down).raiseLink p (s.ports.get p).state flags

/-- Entry to OFFER: a fresh nonce is drawn, the part's OFFER is queued, and the offer wait starts (R134). -/
def State.enterOffer (p : Port) (s : State) : State :=
  let s1 := s.modPort p fun q =>
    { q.discardAll.goTo .offer with nonce := some (Config.freeNonce s.draws), timer := some (.offerWait, s.clock) }
  (({ s1 with draws := s.draws + 1 }).raiseLink p (s.ports.get p).state noFlags).send (.split p)
    (offerBody p s.rate (Config.freeNonce s.draws))

/-- Entry to FAULT: the reason's flag is latched, the REFUSE is queued, the port leaves BOUND if it was, its values are
discarded, and the rebind inhibit starts (R135, R142). -/
def State.enterFault (p : Port) (why : Reason) (tag : Byte) (nonce : BitVec 32) (s : State) : State :=
  ((((s.send (.split p) (refuseBody tag why nonce)).leaveIfBound p s.nextStamp).modPort p fun q =>
    { (LinkPort.latch why.flag q).discardAll.goTo .fault with timer := some (.rebindInhibit, s.clock) }).raiseLink p
      (s.ports.get p).state (oneFlag why.flag))

/-- Whether a nonce is live: the local nonce of a port in OFFER or CONFIRM (R136). -/
def State.liveNonce (s : State) (nonce : BitVec 32) : Bool :=
  allPorts.any fun p =>
    (decide ((s.ports.get p).state = .offer) || decide ((s.ports.get p).state = .confirm)) &&
      decide ((s.ports.get p).nonce = some nonce)

/-- The format that an OFFER resolves to: the first of W32M, W32L, X32M, P24 that it lists (R137). -/
def resolveFormat (formats : Byte) : Option Format :=
  [Format.w32m, Format.w32l, Format.x32m, Format.p24].find? fun f => formats.getLsbD f.bit

/-- The values a partner's OFFER resolves to, or the reason of its refusal by the first check that fails (R135, R137). -/
def State.resolve (s : State) (o : PartnerOffer) : Except Reason Resolved :=
  if s.liveNonce o.nonce then .error .loop
  else match partnerRole o.role with
  | none => .error .box
  | some role =>
    if o.identity = 0#32 ∨ o.identity = noIdentity then .error .identity
    else if !o.rates.getLsbD s.rate.bit then .error .rate
    else match resolveFormat o.formats with
    | none => .error .format
    | some format =>
      if o.maxChannels = 0#8 then .error .format
      else
        let r : Resolved := { format := format, slots := min o.maxChannels.toNat s.rate.capacity, role := role }
        match seatNamed s.entries o.identity with
        | none => .ok r
        | some k => match s.entries.get k with
          | none => .ok r
          | some c =>
            if c.presence.isKeeping then .ok r
            else match s.twinTest c o.twin r.format r.slots r.role with
              | none => .ok r
              | some why => .error why

/-- The partner page of an accepted OFFER (R137). -/
def PartnerOffer.page (o : PartnerOffer) (role : Role) : Page :=
  { nonce := o.nonce, identity := o.identity, role := role, rates := o.rates, formats := o.formats,
    maxChannels := o.maxChannels, twin := o.twin, name := o.name }

/-- An OFFER is accepted: page and resolved values are kept, the part's CONFIRM is queued, and the confirm wait starts
afresh (R137, R139). Staying in CONFIRM is no change of state and raises no LINK event. -/
def State.acceptOffer (p : Port) (tag : Byte) (o : PartnerOffer) (r : Resolved) (s : State) : State :=
  let s1 := s.modPort p fun q =>
    { q.goTo .confirm with
      page := some (o.page r.role), resolved := some r, timer := some (.confirmWait, s.clock) }
  let s2 := if (s.ports.get p).state = .confirm then s1 else s1.raiseLink p (s.ports.get p).state noFlags
  s2.send (.split p) (confirmBody tag o.nonce r)

/-- A partner's OFFER is resolved on a port in OFFER or CONFIRM (R135, R139). -/
def State.resolveOffer (p : Port) (tag : Byte) (o : PartnerOffer) (s : State) : State :=
  match s.resolve o with
  | .ok r => s.acceptOffer p tag o r
  | .error why => s.enterFault p why tag o.nonce

/-- A partner's OFFER taken in BOUND: the port leaves BOUND, enters OFFER with a fresh nonce, and resolves it there
(R140). -/
def State.reoffer (p : Port) (tag : Byte) (o : PartnerOffer) (s : State) : State :=
  ((s.leaveBound p s.nextStamp).enterOffer p).resolveOffer p tag o

/-- The bind report of a port that has entered BOUND (R138). -/
def bindReport (p : Port) (pg : Page) (r : Resolved) : BindReport :=
  { port := p, identity := pg.identity, name := pg.name, role := r.role, twin := pg.twin, format := r.format,
    slots := r.slots }

/-- The table has accepted a bind: the frame layout and the map in effect are set, all 48 inputs are marked stale, and
a flush is attempted (R118, R138, R178). -/
def State.bindAccepted (p : Port) (r : Resolved) (s : State) : State :=
  let map := match seatOf s.entries p with
    | none => []
    | some k => match s.entries.get k with
      | none => []
      | some c => c.map.take r.slots
  State.flush (.split p)
    { s with
      streams := s.streams.set p
        { layout := some { format := r.format, slots := r.slots, rate := s.rate }, map := map, frame := none }
      comm := { s.comm with stale := s.comm.stale.set p (Tab.const 48 true) } }

/-- A matching CONFIRM: the port enters BOUND and makes its bind report (R138). -/
def State.enterBound (p : Port) (tag : Byte) (pg : Page) (r : Resolved) (s : State) : State :=
  let s1 := (s.modPort p fun q => { q.goTo .bound with timer := none }).raiseLink p (s.ports.get p).state noFlags
  match s1.bind (bindReport p pg r) with
  | (s2, none) => s2.bindAccepted p r
  | (s2, some why) => s2.enterFault p why tag pg.nonce

/-- A partner's CONFIRM taken in CONFIRM (R138). -/
def State.matchConfirm (p : Port) (tag : Byte) (c : PartnerConfirm) (s : State) : State :=
  match (s.ports.get p).page, (s.ports.get p).resolved with
  | some pg, some r =>
    if (s.ports.get p).nonce = some c.nonce ∧ c.format = r.format.code ∧ c.slots.toNat = r.slots then
      s.enterBound p tag pg r
    else s.enterFault p .mismatch tag pg.nonce
  | some pg, none => s.enterFault p .mismatch tag pg.nonce
  | none, _ => s.enterFault p .mismatch tag c.nonce

/-- A break reported to a port's negotiator (R132). -/
def State.breakReported (p : Port) (s : State) : State :=
  match (s.ports.get p).state with
  | .down => s
  | .hold => s.modPort p (LinkPort.latch .breakSeen)
  | .offer => (s.modPort p (LinkPort.latch .breakSeen)).enterHold p (oneFlag .breakSeen) s.nextStamp
  | .confirm => (s.modPort p (LinkPort.latch .breakSeen)).enterHold p (oneFlag .breakSeen) s.nextStamp
  | .bound => (s.modPort p (LinkPort.latch .breakSeen)).enterHold p (oneFlag .breakSeen) s.nextStamp
  | .fault => (s.modPort p (LinkPort.latch .breakSeen)).enterHold p (oneFlag .breakSeen) s.nextStamp

/-- A break on a lane: on a split lane it flushes the lane and is reported; on lane P it is discarded (R152). -/
def State.breakOn (l : LaneId) (s : State) : State :=
  match l with
  | .panel => s
  | .split p => (s.flushLane (.split p)).breakReported p

/-- A carrier arrival (R131). -/
def State.carrierArrives (p : Port) (s : State) : State :=
  let s1 := s.modPort p fun q => { q with carrier := true }
  if (s.ports.get p).state = .down ∧ s.bus.pass = .ready then s1.enterOffer p else s1

/-- A carrier loss (R131). -/
def State.carrierLost (p : Port) (s : State) : State :=
  let s1 := s.modPort p fun q => { q with carrier := false }
  if (s.ports.get p).state = .down then s1
  else (s1.modPort p (LinkPort.latch .carrierLost)).enterDown p (oneFlag .carrierLost) s.nextStamp

/-- Whether a port's timer of a kind runs. -/
def LinkPort.runs (k : TimerKind) (q : LinkPort) : Bool :=
  match q.timer with
  | none => false
  | some (k', _) => decide (k' = k)

/-- The hold timer expires (R133). -/
def State.holdExpired (p : Port) (s : State) : State :=
  if (s.ports.get p).runs .hold then
    if (s.ports.get p).carrier then s.enterOffer p else s.enterDown p noFlags s.nextStamp
  else s

/-- The offer-wait timer expires (R134). -/
def State.offerWaitExpired (p : Port) (s : State) : State :=
  if (s.ports.get p).runs .offerWait then
    (s.modPort p (LinkPort.latch .offerTimeout)).enterHold p (oneFlag .offerTimeout) s.nextStamp
  else s

/-- The confirm-wait timer expires (R137). -/
def State.confirmWaitExpired (p : Port) (s : State) : State :=
  if (s.ports.get p).runs .confirmWait then
    (s.modPort p (LinkPort.latch .confirmTimeout)).enterHold p (oneFlag .confirmTimeout) s.nextStamp
  else s

/-- The rebind-inhibit timer expires (R142). -/
def State.inhibitExpired (p : Port) (s : State) : State :=
  if (s.ports.get p).runs .rebindInhibit then s.enterHold p noFlags s.nextStamp else s

/-- READY is reported: every port whose carrier is present enters OFFER, in ascending order (R129). -/
def State.readyPorts (s : State) : State :=
  allPorts.foldl (fun acc p =>
    if (acc.ports.get p).carrier = true ∧ (acc.ports.get p).state = .down then acc.enterOffer p else acc) s

end Sys2Proof.Machine
end

