-- ==== Sys2Proof/Machine/Chips.lean ====
section
/-! DEFINITION. Chip states, faults, recovery and the start-up pass (R103 to R114). -/

namespace Sys2Proof.Machine

/-- Raise the CHIP event of a chip's state, which goes to lane P (R107, R175). -/
def State.raiseChip (c : Chip) (s : State) : State := s.raise [.panel] (.chip c (s.bus.chips.get c))

/-- A queue entry that goes when a chip goes FAULTED: a write for one of the chip's inputs (R108). -/
def QueueEntry.writesChip (c : Chip) : QueueEntry → Bool
  | .write cmd => decide (chipOf cmd.input = c)
  | .verify _ _ _ => false
  | .adoption _ _ => false

/-- An adoption read of a chip (R109). -/
def QueueEntry.adopts (c : Chip) : QueueEntry → Bool
  | .write _ => false
  | .verify _ _ _ => false
  | .adoption c' _ => decide (c' = c)

/-- A chip goes FAULTED, and the writes queued for its inputs are withdrawn (R108). -/
def Bus.faultChip (c : Chip) (b : Bus) : Bus :=
  { b with chips := b.chips.set c .faulted, queue := b.queue.filter fun e => !e.writesChip c }

/-- A chip goes FAULTED from OK: its writes are withdrawn, its inputs' moves and sequences are dealt with, and the CHIP
event is raised (R73, R92, R108). That the inputs are dealt with in ascending order, first all their moves with the LIMIT
events and then all their sequences with the PHANTOM_STATE events, is the model's choice: those rules give no order
(notes/assumptions/24.md). -/
def State.chipFault (c : Chip) (s : State) : State :=
  let s1 := s.modBus (Bus.faultChip c)
  let s2 := (chipInputs c).foldl (fun acc i => acc.faultMove i) s1
  ((chipInputs c).foldl (fun acc i => acc.faultPhantom i) s2).raiseChip c

/-- The shadows of a chip take the words read, channel by channel (R100, R110). -/
def Bus.takeWords (c : Chip) (ws : List Byte) (b : Bus) : Bus :=
  { b with shadow := (List.finRange 8).foldl (fun sh k => match ws[k.val]? with
      | some w => sh.set (inputAt c k) w
      | none => sh) b.shadow }

/-- The adoption of a chip's eight inputs from its words: the shadows take them, the chip goes OK, the inputs are adopted
in ascending order, and the CHIP event is raised (R110, R113). -/
def State.adoptChip (startUp : Bool) (c : Chip) (ws : List Byte) (s : State) : State :=
  let s1 := s.modBus fun b => { Bus.takeWords c ws b with chips := b.chips.set c .ok, probe := [] }
  ((chipInputs c).foldl (fun acc i => acc.adopt startUp i (acc.bus.shadow.get i)) s1).raiseChip c

/-- The decision of a command's write is reported as taken: the shadow takes the word, and the command's block is told
(R66, R86, R100, R103). -/
def State.writeTaken (c : Command) (newWord : Byte) (s : State) : State :=
  let s1 := s.modBus fun b => { b with shadow := b.shadow.set c.input newWord }
  match c with
  | .gain i _ _ => s1.moveTaken i
  | .phantom i _ => s1.phantomTaken i

/-- The decision of a command's write is reported as not taken (R67, R86, R104). -/
def State.writeNotTaken (c : Command) (s : State) : State :=
  match c with
  | .gain i _ _ => s.moveNotTaken i
  | .phantom i _ => s.phantomNotTaken i

/-- A write transaction's reply: 0x06 takes the write, any other byte or a timeout queues a verify read (R98, R103). -/
def State.writeReplied (c : Command) (oldWord newWord : Byte) (reply : Option Byte) (s : State) : State :=
  if reply = some 0x06#8 then s.writeTaken c newWord
  else s.modBus (Bus.addReads [.verify c oldWord newWord])

/-- A verify read decides its write against the old and the new word (R104). -/
def State.verified (c : Command) (oldWord newWord : Byte) (w : Option Byte) (s : State) : State :=
  if w = some newWord then s.writeTaken c newWord
  else if w = some oldWord then s.writeNotTaken c
  else s.chipFault (chipOf c.input)

/-- The clip latch of an answered status read: the count rises by one and the CLIP event is raised, unless the count
stands at 65535 (R106). -/
def State.clipLatched (i : Input) (s : State) : State :=
  if s.bus.clips.get i < Config.counterTop then
    let s1 := s.modBus fun b => { b with clips := b.clips.set i (b.clips.get i + 1) }
    s1.raise (s1.clipLanes i) (.clip i (s1.bus.clips.get i))
  else s

/-- The phantom fault latch of an answered status read: the shadow's phantom bit is cleared, and the fault is reported
(R93, R106). -/
def State.faultLatched (i : Input) (s : State) : State :=
  (s.modBus fun b => { b with shadow := b.shadow.set i (dropPhantom (b.shadow.get i)) }).phantomFault i

/-- A status read of an input ends: the poll moves on, and the latches are dealt with, the clip latch first, or the chip
goes FAULTED (R105, R106). -/
def State.statusEnded (i : Input) (v : Option Byte) (s : State) : State :=
  let s1 := s.modBus fun b => { b with pollPos := nextInput i }
  match v with
  | none => s1.chipFault (chipOf i)
  | some x =>
    let s2 := if statusClip x then s1.clipLatched i else s1
    if statusFault x then s2.faultLatched i else s2

/-- The poll's identity read of a FAULTED chip ends: the poll moves past the chip, and 0x5A starts a probe (R105, R109). -/
def State.identityEnded (c : Chip) (v : Option Byte) (s : State) : State :=
  s.modBus fun b =>
    let b1 := { b with pollPos := afterChip c }
    if v = some 0x5A#8 then
      Bus.addReads ((List.finRange 8).map fun k => .adoption c k)
        { b1 with chips := b1.chips.set c .probing, probe := [] }
    else b1

/-- An adoption read of a probe ends: the word is kept, the eighth completes the probe, and a missing or invalid one
fails it (R109, R110). -/
def State.adoptionEnded (c : Chip) (k : Channel) (w : Option Byte) (s : State) : State :=
  match w with
  | none => s.modBus fun b =>
    { b with chips := b.chips.set c .faulted, probe := [], queue := b.queue.filter fun e => !e.adopts c }
  | some x =>
    if k = 7 then s.adoptChip false c (s.bus.probe ++ [x])
    else s.modBus fun b => { b with probe := b.probe ++ [x] }

/-! ## The start-up pass -/

/-- READY: the pass state changes, ports with carrier enter OFFER, and the poll begins at position 1 (R114). -/
def State.becomeReady (s : State) : State :=
  ((s.modBus fun b => { b with pass := .ready, pollPos := 0 }).readyPorts).beginNext

/-- The pass begins a transaction. -/
def State.passTxn (t : Txn) (s : State) : State := s.modBus (Bus.start (some t))

/-- The pass goes on to the next chip, or ends after the last (R112, R114). -/
def State.nextChip (c : Chip) (s : State) : State :=
  if h : c.val + 1 < 6 then s.passTxn (.startIdentity ⟨c.val + 1, h⟩) else s.becomeReady

/-- The pass begins with chip 1 (R112, R113). -/
def State.beginPass (s : State) : State := s.passTxn (.startIdentity 0)

/-- The pass leaves a chip FAULTED, with its CHIP event, and goes on (R112, R113). -/
def State.passFailsChip (c : Chip) (s : State) : State :=
  ((s.modBus fun b => { b with chips := b.chips.set c .faulted, probe := [] }).raiseChip c).nextChip c

/-- The pass's identity read of a chip ends (R112 step 1, R113 step 1). -/
def State.startIdentityEnded (c : Chip) (v : Option Byte) (s : State) : State :=
  if v = some 0x5A#8 then
    if s.bus.adopting then (s.modBus fun b => { b with probe := [] }).passTxn (.startAdoption c 0)
    else s.passTxn (.startWrite c 0)
  else s.passFailsChip c

/-- A start-up write is taken: the shadow is 0, the input is KNOWN at pad off and p = 0 with phantom OFF, and the next
write or the end of the chip follows (R77, R95, R112 steps 2 and 4). -/
def State.startWriteTaken (c : Chip) (k : Channel) (s : State) : State :=
  let i := inputAt c k
  let s1 := ((s.modBus fun b => { b with shadow := b.shadow.set i 0#8 }).becomeKnown i (wordSetting 0#8)).modPhantom i
    fun q => { q with phantom := .off }
  if h : k.val + 1 < 8 then s1.passTxn (.startWrite c ⟨k.val + 1, h⟩)
  else ((s1.modBus fun b => { b with chips := b.chips.set c .ok }).raiseChip c).nextChip c

/-- The verify read of a start-up write decides it: 0, the old and the new word, is taken; anything else is a chip fault,
which makes the chip's inputs UNCERTAIN (R104, R112 steps 2 and 3). -/
def State.startVerified (c : Chip) (k : Channel) (w : Option Byte) (s : State) : State :=
  if w = some 0#8 then s.startWriteTaken c k
  else ((chipInputs c).foldl (fun acc i => acc.faultMove i) s).passFailsChip c

/-- An adoption read of the start-up pass ends (R113 steps 2 and 3). -/
def State.startAdoptionEnded (c : Chip) (k : Channel) (w : Option Byte) (s : State) : State :=
  match w with
  | none => s.passFailsChip c
  | some x =>
    if h : k.val + 1 < 8 then
      (s.modBus fun b => { b with probe := b.probe ++ [x] }).passTxn (.startAdoption c ⟨k.val + 1, h⟩)
    else (s.adoptChip true c (s.bus.probe ++ [x])).nextChip c

/-! ## The ends of transactions -/

/-- A transaction left on the wire by a RESTART has finished: its result is discarded and the pass begins (R113). -/
def State.discardEnded (s : State) : State := s.beginPass

/-- The end of a transaction without an answer, by its own rule (R98, R99). -/
def State.unanswered (t : Txn) (s : State) : State :=
  match t with
  | .write c oldWord newWord => (s.writeReplied c oldWord newWord none).beginNext
  | .verify c oldWord newWord => (s.verified c oldWord newWord none).beginNext
  | .status i => (s.statusEnded i none).beginNext
  | .identity c => (s.identityEnded c none).beginNext
  | .adoption c k => (s.adoptionEnded c k none).beginNext
  | .startIdentity c => s.startIdentityEnded c none
  | .startWrite c k => s.passTxn (.startVerify c k)
  | .startVerify c k => s.startVerified c k none
  | .startAdoption c k => s.startAdoptionEnded c k none

end Sys2Proof.Machine
end

