-- ==== Sys2Proof/Machine/Requests.lean ====
section
/-! DEFINITION. The handling of taken records: the order of checks (R167), each request's own checks and actions at
step 8, its reply (R166), and the records that a link negotiator deals with first (R141, R164). A reply is queued before
the effects of its request, so that it stands ahead of the notices they raise on the lane (R158). -/

namespace Sys2Proof.Machine

/-- Queue a REPLY on the lane a request came in on (R166). -/
def State.reply (l : LaneId) (tag kind : Byte) (r : ResultCode) (payload : List Byte) (s : State) : State :=
  s.send l (replyBody tag kind r payload)

/-- A refused request: the reply without a payload, and no other change (R166). -/
def State.refuse (l : LaneId) (tag : Byte) (k : RequestKind) (r : ResultCode) (s : State) : State :=
  s.reply l tag k.code r []

/-! ## Step 8, request by request -/

/-- What LEVEL's field asks for: the level stored, clamped to its range (R1). -/
def storedLevel (field : Option Int) : Option Int := field.map clampLevel

/-- Whether LEVEL's field was clamped (R1). -/
def levelClamped (field : Option Int) : Bool := decide (storedLevel field ≠ field)

/-- LEVEL's result: DEFERRED from the owner of an UNCERTAIN input, else CLAMPED or OK (R32). -/
def levelResult (owns : Bool) (status : AnalogStatus) (field : Option Int) : ResultCode :=
  if owns ∧ status = .uncertain then .deferred else if levelClamped field then .clamped else .ok

/-- LEVEL's effect: the requester's pair takes the level, and an owner's level is handed to the arbiter (R32, R50). -/
def State.setLevel (who : Party) (i : Input) (level : Option Int) (s : State) : State :=
  let s1 := s.updatePair who i (Pair.storeLevel (s.moves.get i).status (s.analog i) level)
  if (s.own.get i).owner = some who then s1.handOwnerTarget i else s1

/-- LEVEL (R32). -/
def State.doLevel (l : LaneId) (tag : Byte) (who : Party) (i : Input) (field : Option Int) (s : State) : State :=
  if (s.own.get i).owner = some who ∧ (s.own.get i).lock = true ∧ who ≠ .panel then s.refuse l tag .level .locked
  else
    let owns := decide ((s.own.get i).owner = some who)
    (s.reply l tag RequestKind.level.code (levelResult owns (s.moves.get i).status field)
      (beLevel (storedLevel field))).setLevel who i (storedLevel field)

/-- MUTE's effect: the mute is stored, and the gate turns toward its requirement (R33). -/
def State.setMute (who : Party) (i : Input) (on : Bool) (s : State) : State :=
  { s with pairs := s.pairs.modify who i fun q =>
      Pair.turnGate s.rate.fade (s.phantoms.get i).seq { q with mute := on } }

/-- MUTE (R33). -/
def State.doMute (l : LaneId) (tag : Byte) (who : Party) (i : Input) (on : Bool) (s : State) : State :=
  (s.reply l tag RequestKind.mute.code .ok []).setMute who i on

/-- A consumer's stored map takes a list (R34). -/
def State.storeMap (k : Seat) (m : List Input) (s : State) : State :=
  { s with entries := s.entries.modify k fun o => o.map fun c => { c with map := m } }

/-- MAP, after the tests of its list: refused ROLE from the panel, else stored, cut to the slot count (R34). -/
def State.doMap (l : LaneId) (tag : Byte) (who : Party) (list : List Input) (s : State) : State :=
  match who with
  | .panel => s.refuse l tag .map .role
  | .consumer k =>
    let slots := match s.entries.get k with
      | some c => c.slots
      | none => 0
    let stored := list.take slots
    (s.reply l tag RequestKind.map.code (if slots < list.length then .clamped else .ok)
      [byteOf stored.length]).storeMap k stored

/-- The role of a party; the panel's is CLAIMANT (R37, R40). -/
def State.roleOf (s : State) (who : Party) : Role :=
  match who with
  | .panel => .claimant
  | .consumer k => match s.entries.get k with
    | some c => c.role
    | none => .listener

/-- TAKE (R41). -/
def State.doTake (l : LaneId) (tag : Byte) (who : Party) (i : Input) (s : State) : State :=
  let o := s.own.get i
  if o.lock = true ∧ who ≠ .panel then s.refuse l tag .take .locked
  else if s.roleOf who = .listener then s.refuse l tag .take .role
  else if o.owner = some who then s.reply l tag RequestKind.take.code .ok [0#8]
  else if o.owner = none then (s.reply l tag RequestKind.take.code .ok [0#8]).changeOwner i (some who)
  else if who ∈ o.waiting then
    s.reply l tag RequestKind.take.code .queued [byteOf (waitPosition o.waiting who)]
  else
    (s.reply l tag RequestKind.take.code .queued [byteOf (o.waiting.length + 1)]).modOwn i
      fun x => { x with waiting := x.waiting ++ [who] }

/-- RELEASE (R43, R44). -/
def State.doRelease (l : LaneId) (tag : Byte) (who : Party) (i : Input) (s : State) : State :=
  let o := s.own.get i
  if o.owner = some who then
    if o.lock = true ∧ who ≠ .panel then s.refuse l tag .release .locked
    else (s.reply l tag RequestKind.release.code .ok []).passOn i
  else if who ∈ o.waiting then (s.reply l tag RequestKind.release.code .ok []).modOwn i (Ownership.leave who)
  else s.refuse l tag .release .notOwner

/-- PAD (R48). -/
def State.doPad (l : LaneId) (tag : Byte) (who : Party) (i : Input) (on : Bool) (s : State) : State :=
  let o := s.own.get i
  if o.owner ≠ some who then s.refuse l tag .pad .notOwner
  else if o.lock = true ∧ who ≠ .panel then s.refuse l tag .pad .locked
  else
    (s.reply l tag RequestKind.pad.code (if (s.moves.get i).status = .uncertain then .deferred else .ok) []).choosePad
      i on

/-- PHANTOM: the arbiter's authority check (R49), the chip check, and the request by the step in progress (R83). -/
def State.doPhantom (l : LaneId) (tag : Byte) (who : Party) (i : Input) (on : Bool) (s : State) : State :=
  let o := s.own.get i
  if who ≠ .panel ∧ o.owner ≠ some who then s.refuse l tag .phantom .notOwner
  else if who ≠ .panel ∧ o.lock = true then s.refuse l tag .phantom .locked
  else if s.bus.chips.get (chipOf i) ≠ .ok then s.refuse l tag .phantom .faulted
  else (s.reply l tag RequestKind.phantom.code .ok []).phantomRequest i on

/-- QUERY_INPUT: the reply is formed, and then the saturation count of the requester's pair returns to 0 (R16, R168). -/
def State.doQueryInput (l : LaneId) (tag : Byte) (who : Party) (i : Input) (s : State) : State :=
  let s1 := s.reply l tag RequestKind.queryInput.code .ok (inputByte i :: s.stateBlock who i)
  { s1 with pairs := s1.pairs.modify who i fun q => { q with sat := 0 } }

/-- The payload of QUERY_LINK's reply (R145, R170). -/
def linkPayload (p : Port) (q : LinkPort) : List Byte :=
  let shown := match q.state with
    | .confirm => true
    | .bound => true
    | .down => false
    | .hold => false
    | .offer => false
    | .fault => false
  let tail := match shown, q.page, q.resolved with
    | true, some pg, some r => be32 pg.identity ++ [r.format.code, byteOf r.slots, r.role.code]
    | _, _, _ => be32 noIdentity ++ [noFormat, 0#8, 0#8]
  [portByte p, q.state.code, byteOf (marksValue q.history)] ++ be16 (marksValue q.flags) ++ tail

/-- QUERY_LINK: from a split lane only for its own port; the sets are cleared after the reply is formed (R145). -/
def State.doQueryLink (l : LaneId) (tag : Byte) (p : Port) (clear : Bool) (s : State) : State :=
  if l = .panel ∨ l = .split p then
    (s.reply l tag RequestKind.queryLink.code .ok (linkPayload p (s.ports.get p))).modPort p
      fun q => if clear then q.clearSets else q
  else s.refuse l tag .queryLink .panelOnly

/-- The payload of QUERY_LANE's reply (R157, R170). -/
def lanePayload (n : LaneId) (c : Counters) : List Byte :=
  [laneByte n] ++ be16 c.gap ++ be16 c.marked ++ be16 c.length ++ be16 c.check ++ be16 c.overrun ++ be16 c.ignored

/-- QUERY_LANE: from a split lane only for itself; the counters are cleared after the reply is formed (R157). -/
def State.doQueryLane (l : LaneId) (tag : Byte) (n : LaneId) (clear : Bool) (s : State) : State :=
  if l = .panel ∨ l = n then
    (s.reply l tag RequestKind.queryLane.code .ok (lanePayload n (s.rx.get n.idx).counters)).modRx n
      fun r => if clear then { r with counters := Counters.zero } else r
  else s.refuse l tag .queryLane .panelOnly

/-- The payload of QUERY_CONSUMER's reply (R38, R169): index 0 is the panel entry. -/
def State.consumerPayload (s : State) (index : Byte) : List Byte :=
  if index = 0#8 then
    [0#8] ++ be32 0#32 ++ [1#8, Role.code .claimant, 0#8, 0#8, 0#8, noFormat, 0#8, 0#8, byteOf panelName.length] ++
      panelName
  else match portOf index with
  | none => []
  | some k => match s.entries.get k with
    | none => [index] ++ be32 noIdentity ++ [0#8, 0#8, 0#8, 0#8, 0#8, noFormat, 0#8, 0#8, 0#8]
    | some c =>
      [index] ++ be32 c.identity ++ [if c.presence.isKeeping then 2#8 else 1#8, c.role.code,
        match c.ports[0]? with
        | some p => portByte p
        | none => 0#8,
        match c.ports[1]? with
        | some p => portByte p
        | none => 0#8,
        byteOf (s.keepLeft c), c.format.code, byteOf c.slots, byteOf c.map.length, byteOf c.name.length] ++ c.name

/-- QUERY_CONSUMER (R38). -/
def State.doQueryConsumer (l : LaneId) (tag : Byte) (index : Byte) (s : State) : State :=
  s.reply l tag RequestKind.queryConsumer.code .ok (s.consumerPayload index)

/-- LOCK (R46). -/
def State.doLock (l : LaneId) (tag : Byte) (i : Input) (on : Bool) (s : State) : State :=
  (s.reply l tag RequestKind.lock.code .ok []).modOwn i fun o => { o with lock := on }

/-- FORCE (R45). -/
def State.doForce (l : LaneId) (tag : Byte) (i : Input) (s : State) : State :=
  let s1 := s.reply l tag RequestKind.force.code .ok []
  if (s.own.get i).owner = some .panel then s1 else s1.changeOwner i (some .panel)

/-- Whether an input is busy for SET_RATE (R126). -/
def State.busyInput (s : State) (i : Input) : Bool :=
  (s.moves.get i).move.busy || decide ((s.phantoms.get i).seq ≠ .idle)

/-- Every pair brought to rest at the rate in force (R20), in the order of `State.updateAllPairs`. -/
def State.restPairs (s : State) : State :=
  s.updateAllPairs fun i q => Pair.rest s.rate.fade (s.moves.get i).status (s.analog i) q

/-- Every live port enters HOLD; the keep timers of the consumers this leaves without a port start at one moment
(R24, R127 step 3). That the ports enter it in ascending order, and so the order of their LINK notices on lane P, is the
model's choice: R127 and R147 give none (notes/assumptions/24.md). -/
def State.holdLivePorts (s : State) : State :=
  allPorts.foldl (fun acc p =>
    if (acc.ports.get p).state = .down then acc else acc.enterHold p noFlags s.nextStamp) s

/-- The change of box rate (R127). -/
def State.changeRate (r : BoxRate) (s : State) : State := (({ s with rate := r }).restPairs).holdLivePorts

/-- SET_RATE (R126). -/
def State.doSetRate (l : LaneId) (tag : Byte) (r : BoxRate) (s : State) : State :=
  if r = s.rate then s.reply l tag RequestKind.setRate.code .ok [s.rate.byte]
  else if allInputs.any s.busyInput then s.reply l tag RequestKind.setRate.code .busy [s.rate.byte]
  else (s.reply l tag RequestKind.setRate.code .ok [r.byte]).changeRate r

/-- SET_ALIGN (R69). -/
def State.doSetAlign (l : LaneId) (tag : Byte) (d : Nat) (s : State) : State :=
  { s.reply l tag RequestKind.setAlign.code (if 255 < d then .clamped else .ok) [byteOf (min d 255)] with
    align := min d 255 }

/-- RESET_PORT (R146). -/
def State.doResetPort (l : LaneId) (tag : Byte) (p : Port) (s : State) : State :=
  let s1 := s.reply l tag RequestKind.resetPort.code .ok []
  let s2 := match s.bus.pass with
    | .ready => s1.enterHold p noFlags s1.nextStamp
    | .starting => s1.flushLane (.split p)
  (s2.modRx (.split p) fun r => { r with counters := Counters.zero }).modPort p LinkPort.clearSets

/-- RESTART: the reply is queued, and the restart is pending until the reply's last byte has left (R172). -/
def State.doRestart (l : LaneId) (tag : Byte) (s : State) : State :=
  let s1 := s.reply l tag RequestKind.restart.code .ok []
  { s1 with restart := some (s1.comm.used l) }

/-! ## Steps 6 to 8 -/

/-- An input field is tested (step 6) before the request goes on. -/
def State.withInput (l : LaneId) (tag : Byte) (k : RequestKind) (b : Byte) (f : Input → State → State) (s : State) :
    State :=
  match inputOf b with
  | none => s.refuse l tag k .badInput
  | some i => f i s

/-- A switch field is tested (step 7) before the request goes on. -/
def State.withSwitch (l : LaneId) (tag : Byte) (k : RequestKind) (b : Byte) (f : Bool → State → State) (s : State) :
    State :=
  match switchOf b with
  | none => s.refuse l tag k .badValue
  | some on => f on s

/-- The inputs a MAP names, none where an entry is outside 1..48 (step 6). -/
def mapInputs : List Byte → Option (List Input)
  | [] => some []
  | b :: rest => match inputOf b, mapInputs rest with
    | some i, some is => some (i :: is)
    | _, _ => none

/-! Below, a field list of a length that does not fit the kind changes nothing: step 2 has refused it (R165). -/

/-- LEVEL: steps 6 to 8 (R1, R32). -/
def State.runLevel (l : LaneId) (tag : Byte) (who : Party) (fields : List Byte) (s : State) : State :=
  match fields with
  | [i, hi, lo] => s.withInput l tag .level i fun i s => s.doLevel l tag who i (levelField hi lo)
  | _ => s

/-- MUTE: steps 6 to 8 (R33). -/
def State.runMute (l : LaneId) (tag : Byte) (who : Party) (fields : List Byte) (s : State) : State :=
  match fields with
  | [i, v] => s.withInput l tag .mute i fun i s => s.withSwitch l tag .mute v fun on s => s.doMute l tag who i on
  | _ => s

/-- MAP: steps 6 to 8 (R34). -/
def State.runMap (l : LaneId) (tag : Byte) (who : Party) (fields : List Byte) (s : State) : State :=
  match mapInputs fields with
  | none => s.refuse l tag .map .badInput
  | some is => if is.Nodup then s.doMap l tag who is else s.refuse l tag .map .badValue

/-- TAKE: steps 6 to 8 (R41). -/
def State.runTake (l : LaneId) (tag : Byte) (who : Party) (fields : List Byte) (s : State) : State :=
  match fields with
  | [i] => s.withInput l tag .take i fun i s => s.doTake l tag who i
  | _ => s

/-- RELEASE: steps 6 to 8 (R43, R44). -/
def State.runRelease (l : LaneId) (tag : Byte) (who : Party) (fields : List Byte) (s : State) : State :=
  match fields with
  | [i] => s.withInput l tag .release i fun i s => s.doRelease l tag who i
  | _ => s

/-- PAD: steps 6 to 8 (R48). -/
def State.runPad (l : LaneId) (tag : Byte) (who : Party) (fields : List Byte) (s : State) : State :=
  match fields with
  | [i, v] => s.withInput l tag .pad i fun i s => s.withSwitch l tag .pad v fun on s => s.doPad l tag who i on
  | _ => s

/-- PHANTOM: steps 6 to 8 (R49, R83). -/
def State.runPhantom (l : LaneId) (tag : Byte) (who : Party) (fields : List Byte) (s : State) : State :=
  match fields with
  | [i, v] =>
    s.withInput l tag .phantom i fun i s => s.withSwitch l tag .phantom v fun on s => s.doPhantom l tag who i on
  | _ => s

/-- QUERY_INPUT: steps 6 to 8 (R168). -/
def State.runQueryInput (l : LaneId) (tag : Byte) (who : Party) (fields : List Byte) (s : State) : State :=
  match fields with
  | [i] => s.withInput l tag .queryInput i fun i s => s.doQueryInput l tag who i
  | _ => s

/-- QUERY_LINK: steps 6 to 8 (R145). -/
def State.runQueryLink (l : LaneId) (tag : Byte) (fields : List Byte) (s : State) : State :=
  match fields with
  | [p, c] =>
    match portOf p with
    | none => s.refuse l tag .queryLink .badValue
    | some p => s.withSwitch l tag .queryLink c fun clear s => s.doQueryLink l tag p clear
  | _ => s

/-- QUERY_LANE: steps 6 to 8 (R157). -/
def State.runQueryLane (l : LaneId) (tag : Byte) (fields : List Byte) (s : State) : State :=
  match fields with
  | [n, c] =>
    match laneOf n with
    | none => s.refuse l tag .queryLane .badValue
    | some n => s.withSwitch l tag .queryLane c fun clear s => s.doQueryLane l tag n clear
  | _ => s

/-- QUERY_CONSUMER: steps 6 to 8 (R38). -/
def State.runQueryConsumer (l : LaneId) (tag : Byte) (fields : List Byte) (s : State) : State :=
  match fields with
  | [x] => if x.toNat ≤ 6 then s.doQueryConsumer l tag x else s.refuse l tag .queryConsumer .badValue
  | _ => s

/-- LOCK: steps 6 to 8 (R46). -/
def State.runLock (l : LaneId) (tag : Byte) (fields : List Byte) (s : State) : State :=
  match fields with
  | [i, v] => s.withInput l tag .lock i fun i s => s.withSwitch l tag .lock v fun on s => s.doLock l tag i on
  | _ => s

/-- FORCE: steps 6 to 8 (R45). -/
def State.runForce (l : LaneId) (tag : Byte) (fields : List Byte) (s : State) : State :=
  match fields with
  | [i] => s.withInput l tag .force i fun i s => s.doForce l tag i
  | _ => s

/-- SET_RATE: steps 6 to 8 (R126). -/
def State.runSetRate (l : LaneId) (tag : Byte) (fields : List Byte) (s : State) : State :=
  match fields with
  | [r] =>
    match rateOf r with
    | none => s.refuse l tag .setRate .badValue
    | some r => s.doSetRate l tag r
  | _ => s

/-- SET_ALIGN: steps 6 to 8 (R69). -/
def State.runSetAlign (l : LaneId) (tag : Byte) (fields : List Byte) (s : State) : State :=
  match fields with
  | [hi, lo] => s.doSetAlign l tag (u16 hi lo)
  | _ => s

/-- RESET_PORT: steps 6 to 8 (R146). -/
def State.runResetPort (l : LaneId) (tag : Byte) (fields : List Byte) (s : State) : State :=
  match fields with
  | [p] =>
    match portOf p with
    | none => s.refuse l tag .resetPort .badValue
    | some p => s.doResetPort l tag p
  | _ => s

/-- RESTART: steps 6 to 8 (R172). -/
def State.runRestart (l : LaneId) (tag : Byte) (fields : List Byte) (s : State) : State :=
  match fields with
  | [] => s.doRestart l tag
  | _ => s

/-- Steps 6 to 8 of the order of checks for a request of a kind from a requester, whose body length fits (R167). -/
def State.runRequest (l : LaneId) (tag : Byte) (who : Party) (k : RequestKind) (fields : List Byte) (s : State) :
    State :=
  match k with
  | .level => s.runLevel l tag who fields
  | .mute => s.runMute l tag who fields
  | .map => s.runMap l tag who fields
  | .take => s.runTake l tag who fields
  | .release => s.runRelease l tag who fields
  | .pad => s.runPad l tag who fields
  | .phantom => s.runPhantom l tag who fields
  | .queryInput => s.runQueryInput l tag who fields
  | .queryLink => s.runQueryLink l tag fields
  | .queryLane => s.runQueryLane l tag fields
  | .queryConsumer => s.runQueryConsumer l tag fields
  | .lock => s.runLock l tag fields
  | .force => s.runForce l tag fields
  | .setRate => s.runSetRate l tag fields
  | .setAlign => s.runSetAlign l tag fields
  | .resetPort => s.runResetPort l tag fields
  | .restart => s.runRestart l tag fields

/-- Whose requests a lane carries at step 4: the panel's on lane P, the consumer's on a split lane whose port is BOUND,
nobody's otherwise (R40, R167). A BOUND port that no entry holds speaks for nobody (notes/assumptions/15.md). -/
def State.boundRequester (s : State) (l : LaneId) : Option Party :=
  match l with
  | .panel => some .panel
  | .split p => if (s.ports.get p).state = .bound then s.requester (.split p) else none

/-- The order of checks, steps 1 to 5, and then the request itself (R167). -/
def State.checkRequest (l : LaneId) (kind tag : Byte) (fields : List Byte) (s : State) : State :=
  match kindOf kind with
  | none => s.reply l tag kind .unknown []
  | some k =>
    if !k.fits fields.length then s.refuse l tag k .badLength
    else if k.panelOnly && decide (l ≠ .panel) then s.refuse l tag k .panelOnly
    else match s.boundRequester l with
    | none => s.refuse l tag k .notBound
    | some who =>
      if k.touchesInput && decide (s.bus.pass = .starting) then s.refuse l tag k .notReady
      else s.runRequest l tag who k fields

/-! ## Records on a split lane -/

/-- A record discarded by the link negotiator is counted IGNORED (R141). -/
def State.ignore (l : LaneId) (s : State) : State :=
  s.modRx l fun r => { r with counters := { r.counters with ignored := countUp r.counters.ignored } }

/-- A partner's OFFER taken in OFFER, CONFIRM or BOUND (R135, R139, R140, R164). -/
def State.takeOffer (p : Port) (tag : Byte) (fields : List Byte) (s : State) : State :=
  match parseOffer fields with
  | none => s.reply (.split p) tag offerKind .badLength []
  | some o => if (s.ports.get p).state = .bound then s.reoffer p tag o else s.resolveOffer p tag o

/-- A partner's CONFIRM taken in CONFIRM (R138, R164). -/
def State.takeConfirm (p : Port) (tag : Byte) (fields : List Byte) (s : State) : State :=
  match parseConfirm fields with
  | none => s.reply (.split p) tag confirmKind .badLength []
  | some c => s.matchConfirm p tag c

/-- A record taken on a split lane, by kind and port state (R141). -/
def State.takeOnSplit (p : Port) (kind tag : Byte) (fields : List Byte) (s : State) : State :=
  match (s.ports.get p).state with
  | .down => s.ignore (.split p)
  | .hold => s.ignore (.split p)
  | .fault => s.ignore (.split p)
  | .offer =>
    if kind = offerKind then s.takeOffer p tag fields
    else if kind = confirmKind then s.ignore (.split p)
    else s.checkRequest (.split p) kind tag fields
  | .confirm =>
    if kind = offerKind then s.takeOffer p tag fields
    else if kind = confirmKind then s.takeConfirm p tag fields
    else s.checkRequest (.split p) kind tag fields
  | .bound =>
    if kind = offerKind then s.takeOffer p tag fields
    else if kind = confirmKind then s.ignore (.split p)
    else s.checkRequest (.split p) kind tag fields

/-- The handling of a taken record (R158). -/
def State.takeRecord (l : LaneId) (kind tag : Byte) (fields : List Byte) (s : State) : State :=
  match l with
  | .panel => s.checkRequest .panel kind tag fields
  | .split p => s.takeOnSplit p kind tag fields

end Sys2Proof.Machine
end

