-- ==== Sys2Proof/Machine/Samples.lean ====
section
/-! DEFINITION. The sample period: landings at its boundary, ramps, gates, output samples and frames, and the ends of
fades (R10, R14 to R19, R68, R119 to R125). -/

namespace Sys2Proof.Machine

/-- The bytes of one slot (R121). -/
def slotBytes (f : Format) (y : Sample) : List Byte :=
  let hi := y.extractLsb' 16 8
  let mid := y.extractLsb' 8 8
  let lo := y.extractLsb' 0 8
  match f with
  | .p24 => [hi, mid, lo]
  | .w32m => [hi, mid, lo, 0#8]
  | .w32l => [0#8, lo, mid, hi]
  | .x32m => [if y.msb then 0xFF#8 else 0#8, hi, mid, lo]

/-- The output sample of a pair for an input sample (R13, R15). -/
def pairOutput (n : Nat) (x : Sample) (q : Pair) : Sample :=
  BitVec.ofInt 24 (outputSample x.toInt (gatedMultiplier n q))

/-- A pair that forms an output sample: its saturation count rises where R15 clamps (R16). -/
def Pair.countClip (n : Nat) (x : Sample) (q : Pair) : Pair :=
  if clips x.toInt (gatedMultiplier n q) then { q with sat := countUp q.sat } else q

/-- The map in effect of a port from its consumer's stored map, up to the port's slot count (R120). -/
def State.mapFor (s : State) (p : Port) (slots : Nat) : List Input :=
  match seatOf s.entries p with
  | none => []
  | some k => match s.entries.get k with
    | none => []
    | some c => c.map.take slots

/-- At the start of each frame the maps in effect are taken from the stored maps (R35, R120). -/
def State.takeMaps (s : State) : State :=
  { s with streams := s.streams.imap fun p st => match st.layout with
      | none => st
      | some ly => { st with map := s.mapFor p ly.slots } }

/-- Whether a consumer's pair forms an output sample: one of its bound ports carries frames and its map in effect holds
the input (R14 step 3). -/
def State.carried (s : State) (k : Seat) (i : Input) : Bool :=
  allPorts.any fun p => decide (seatOf s.entries p = some k) && (s.streams.get p).layout.isSome &&
    (s.streams.get p).map.contains i

/-- The sample in slot j (from 0) of a port's frame: the mapped pair's output sample, or 0 beyond the map (R119). -/
def State.slotSample (s : State) (x : Tab 48 Sample) (p : Port) (j : Nat) : Sample :=
  match (s.streams.get p).map[j]? with
  | none => 0#24
  | some i => match seatOf s.entries p with
    | none => 0#24
    | some k => match s.pair? (.consumer k) i with
      | none => 0#24
      | some q => pairOutput s.rate.fade (x.get i) q

/-- One port's frame: exactly slot-count slots in map order (R119). -/
def State.frame (s : State) (x : Tab 48 Sample) (p : Port) (ly : Layout) : List Byte :=
  (List.range ly.slots).flatMap fun j => slotBytes ly.format (s.slotSample x p j)

/-- The saturation counts of the pairs that form output samples (R16). -/
def State.countClips (x : Tab 48 Sample) (s : State) : Tab 6 (Option (Tab 48 Pair)) :=
  s.pairs.seats.imap fun k o => o.map fun t => t.imap fun i q =>
    (if s.carried k i then q.countClip s.rate.fade (x.get i) else q)

/-- Step 3 of R14: output samples are formed, saturation counts rise, and each port with a layout forms its frame. -/
def State.formFrames (x : Tab 48 Sample) (s : State) : State :=
  { s with
    streams := s.streams.imap fun p st => match st.layout with
      | none => st
      | some ly => { st with frame := some (s.frame x p ly) }
    pairs := { s.pairs with seats := s.countClips x } }

/-- Step 1 of R14 for every pair, with the LIMIT events it raises. -/
def State.rampPairs (s : State) : State :=
  s.updateAllPairs fun i q => q.rampAdvance s.rate (s.moves.get i).status (s.analog i)

/-- Step 2 of R14 for every pair. -/
def State.stepGates (s : State) : State := { s with pairs := s.pairs.mapAll fun _ q => q.gateStep s.rate.fade }

/-- The landings at a sample period boundary (R68). That several of them are made in ascending order of input is the
model's choice: R68 gives no order (notes/assumptions/24.md). -/
def State.landings (s : State) : State := allInputs.foldl (fun acc i => acc.landingBoundary i) s

/-- The ends of the fades that the period's gate steps have ended (R19, R85, R88). That they are completed in ascending
order of input, and so the order in which their phantom commands join the queue and their notices are raised, is the model's
choice: those rules give none (notes/assumptions/24.md). -/
def State.endFades (s : State) : State := allInputs.foldl (fun acc i => (acc.endFadeOut i).endFadeIn i) s

/-- Time passes by one sample period (notes/assumptions/5.md). -/
def State.tick (s : State) : State := { s with clock := s.clock + s.rate.period }

/-- One sample period (R14, R68, R119). -/
def State.samplePeriod (x : Tab 48 Sample) (s : State) : State :=
  (((((s.tick.landings).takeMaps).rampPairs).stepGates).formFrames x).endFades

/-- One pair's ramp step, where the period that begins next brings it (R10; notes/assumptions/4.md). While a landing is due
there is none to make yet: R68 places every landing of the boundary before any of the ramp steps of the period that begins
there. -/
def State.rampStep (who : Party) (i : Input) (s : State) : State :=
  match s.pair? who i with
  | none => s
  | some q =>
    if q.rampDue s.rate && !s.landingDue then
      s.updatePair who i fun q => { q.rampStep (s.moves.get i).status (s.analog i) with stepped := true }
    else s

end Sys2Proof.Machine
end

