-- ==== Sys2Proof/Machine/Lanes.lean ====
section
/-! DEFINITION. The lane units: characters and their marks, the framer, the taking of records, the sending of bytes
(R149 to R162), power-on and the taking effect of a restart (R111, R113, R173). -/

namespace Sys2Proof.Machine

/-! ## Power-on and restart -/

/-- The link negotiators at their power-on values; the carriers on the lines are as they are (notes/assumptions/10.md). -/
def State.portsAtPowerOn (s : State) : Tab 6 LinkPort :=
  s.ports.map fun q => { LinkPort.atPowerOn with carrier := q.carrier }

/-- Every block at its power-on values, but for the preamp bus controller, which is given. The commands that wait, the
carriers and the model's own counters are kept. -/
def State.blocksReset (b : Bus) (s : State) : State :=
  { State.reset with pending := s.pending, ports := s.portsAtPowerOn, bus := b, clock := s.clock, draws := s.draws }

/-- POWER_ON: every block at its power-on values, and the writing start-up pass begins (R111, R112). -/
def State.powerOn (s : State) : State := (s.blocksReset Bus.atPowerOn).beginPass

/-- The restart takes effect: every block at its power-on values; a transaction on the wire is left to finish, and the
adopting start-up pass begins after it, or at once (R113, R173). -/
def State.restartNow (s : State) : State :=
  match s.bus.flight with
  | none => (s.blocksReset { Bus.atPowerOn with adopting := true }).beginPass
  | some f => s.blocksReset { Bus.atPowerOn with adopting := true, flight := some { txn := f.txn, discard := true } }

/-! ## The receiving side -/

/-- A character is stored at the end of the receive queue, or lost to overrun (R151). -/
def RxSide.store (value : Byte) (framing parity gap : Bool) (r : RxSide) : RxSide :=
  if Config.receiveRoom ≤ r.queue.length then
    { r with overrunPending := true, counters := { r.counters with overrun := countUp r.counters.overrun } }
  else
    { r with
      queue := r.queue ++ [{ value := value, framing := framing, parity := parity, overrun := r.overrunPending, gap := gap }]
      overrunPending := false }

/-- What HUNT makes of a character: a marker starts a partial record unless it carries a framing or parity mark (R154). -/
def huntChar (c : RxChar) : Framer := if !c.framing && !c.parity && decide (c.value = marker) then .length else .hunt

/-- A character inside a record that no mark drops (R154, R155). -/
def RxSide.keepChar (v : Byte) (r : RxSide) : RxSide :=
  match r.framer with
  | .hunt => r
  | .held _ => r
  | .length =>
    if 2 ≤ v.toNat ∧ v.toNat ≤ 200 then { r with framer := .body v.toNat [] (crcByte 0xFFFF#16 v) }
    else { r with framer := .hunt, counters := { r.counters with length := countUp r.counters.length } }
  | .body len got crc =>
    if len ≤ got.length + 1 then { r with framer := .check (got ++ [v]) none (crcByte crc v) }
    else { r with framer := .body len (got ++ [v]) (crcByte crc v) }
  | .check body none crc => { r with framer := .check body (some v) (crcByte crc v) }
  | .check body (some _) crc =>
    if crcByte crc v = 0#16 then { r with framer := .held body }
    else { r with framer := .hunt, counters := { r.counters with check := countUp r.counters.check } }

/-- A character inside a record, tested by R155 before it is kept. -/
def RxSide.recordChar (c : RxChar) (r : RxSide) : RxSide :=
  if c.gap then
    { r with framer := huntChar c, counters := { r.counters with gap := countUp r.counters.gap } }
  else if c.framing || c.parity || c.overrun then
    { r with framer := .hunt, counters := { r.counters with marked := countUp r.counters.marked } }
  else r.keepChar c.value

/-- The framer reads one character (R154). -/
def RxSide.readChar (c : RxChar) (r : RxSide) : RxSide :=
  match r.framer with
  | .hunt => { r with framer := huntChar c }
  | .length => r.recordChar c
  | .body _ _ _ => r.recordChar c
  | .check _ _ _ => r.recordChar c
  | .held _ => r

/-- Whether a lane may take its held record now: at least 96 bytes of its transmit queue are free (R158), and, on lane
P, no restart is pending (R172). -/
def State.canTake (s : State) (l : LaneId) : Bool :=
  decide (s.comm.used l + Config.reserve ≤ Config.transmitRoom) && !(decide (l = .panel) && s.restart.isSome)

/-- A held record is taken and handled, and then the framer leaves HELD (R158). -/
def State.takeHeld (l : LaneId) (body : List Byte) (s : State) : State :=
  (match body with
   | kind :: tag :: fields => s.takeRecord l kind tag fields
   | _ => s).modRx l fun r => { r with framer := .hunt }

/-- The framer takes its held record when it may, and reads the receive queue while it holds none. The number bounds the
turns: one for each character and one for each record. -/
def State.readOn (l : LaneId) : Nat → State → State
  | 0, s => s
  | n + 1, s =>
    match (s.rx.get l.idx).framer with
    | .held body => if s.canTake l then State.readOn l n (s.takeHeld l body) else s
    | _ =>
      match (s.rx.get l.idx).queue with
      | [] => s
      | c :: rest => State.readOn l n (s.modRx l fun r => RxSide.readChar c { r with queue := rest })

/-- As many turns as the receive queue can need. -/
def State.service (l : LaneId) (s : State) : State :=
  State.readOn l (2 * (s.rx.get l.idx).queue.length + 1) s

/-- A split lane whose port a restart has taken DOWN stores nothing while the adopting pass runs (R174). That this lasts
until READY is the model's reading (notes/assumptions/26.md). -/
def State.deaf (s : State) (l : LaneId) : Bool :=
  match l with
  | .panel => false
  | .split p => decide ((s.ports.get p).state = .down) && decide (s.bus.pass = .starting) && s.bus.adopting

/-- Whether characters reach a lane: a split lane's only while its link has carrier (R149), and not after a restart until
the part is READY (R174). -/
def State.hears (s : State) (l : LaneId) : Bool :=
  match l with
  | .panel => true
  | .split p => (s.ports.get p).carrier && !s.deaf (.split p)

/-- A received character: a break, or stored with its marks and read (R149 to R155, R158). -/
def State.characterReceived (l : LaneId) (value : Byte) (parity stop : Bool) (start : Nat) (s : State) : State :=
  if !s.hears l then s
  else if isBreak value parity stop then s.breakOn l
  else
    (s.modRx l fun r =>
      { RxSide.store value (!stop) (parityMark value parity) (gapMark r.gapRef start) r with
        gapRef := some (start + Config.characterTime) }).service l

/-- A whole record that arrives on a lane intact. Where the framer is HELD, its characters wait in the receive queue, the
first of them with the overrun mark that is pending; otherwise the framer holds it, it is taken as soon as R158 allows, and
an overrun that is pending stays so (the model's choice, notes/assumptions/8.md). A lane that stores nothing takes nothing
(R174, notes/assumptions/26.md). -/
def State.deliver (l : LaneId) (kind tag : Byte) (fields : List Byte) (s : State) : State :=
  if s.deaf l then s
  else match (s.rx.get l.idx).framer with
  | .held _ => s.modRx l fun r => (frameOf (kind :: tag :: fields)).foldl (fun r v => r.store v false false false) r
  | _ => (s.modRx l fun r => { r with framer := .held (kind :: tag :: fields) }).service l

/-! ## The transmitting side -/

/-- What follows the departure of a byte: the notice builder flushes marks, and a waiting record may be taken (R158,
R159, R179). -/
def State.roomGained (l : LaneId) (s : State) : State := (s.flush l).service l

/-- A byte leaves a lane's transmit queue, unless the queue is empty or the lane drives a break. The last byte of a
RESTART reply makes the restart take effect (R159, R172). -/
def State.byteSent (l : LaneId) (s : State) : State :=
  match (s.comm.tx.get l.idx).queue, (s.comm.tx.get l.idx).breaking with
  | [], _ => s
  | _ :: _, true => s
  | _ :: rest, false =>
    let s1 := s.modTx l fun t => { t with queue := rest }
    match l, s.restart with
    | .panel, some n =>
      if n ≤ 1 then s1.restartNow else ({ s1 with restart := some (n - 1) }).roomGained .panel
    | .panel, none => s1.roomGained .panel
    | .split p, _ => s1.roomGained (.split p)

end Sys2Proof.Machine
end

