-- ==== Sys2Proof/Machine/BusSteps.lean ====
section
/-! DEFINITION. The meanings of the events on the preamp bus (R98 to R114): each ends the transaction in flight where that
transaction is of the event's kind, and then the next one begins. An event of another kind than the transaction in flight
does not happen and changes nothing (notes/assumptions/2.md). A transaction left on the wire by a RESTART has its result
discarded (R113). -/

namespace Sys2Proof.Machine

/-- The end of a transaction of a given kind: its rule where it is in flight, the discarding where a RESTART has left it
on the wire, nothing where the transaction in flight is of another kind. `rule` answers none for another kind. -/
def State.endTxn (rule : Txn → State → Option State) (s : State) : State :=
  match s.bus.flight with
  | none => s
  | some f =>
    match rule f.txn s with
    | none => s
    | some after => if f.discard then s.discardEnded else after

/-- The end of a write by a reply byte: a command's write (R103), or a write of the start-up pass, whose verify read the
pass makes itself (R112). -/
def writeRule (reply : Byte) (t : Txn) (s : State) : Option State :=
  match t with
  | .write c oldWord newWord => some (s.writeReplied c oldWord newWord (some reply)).beginNext
  | .startWrite c k => some (if reply = 0x06#8 then s.startWriteTaken c k else s.passTxn (.startVerify c k))
  | .verify _ _ _ => none
  | .status _ => none
  | .identity _ => none
  | .adoption _ _ => none
  | .startIdentity _ => none
  | .startVerify _ _ => none
  | .startAdoption _ _ => none

/-- The end of a verify read (R104, R112). -/
def verifyRule (r : ReadReply) (t : Txn) (s : State) : Option State :=
  match t with
  | .verify c oldWord newWord => some (s.verified c oldWord newWord (readWord r)).beginNext
  | .startVerify c k => some (s.startVerified c k (readWord r))
  | .write _ _ _ => none
  | .status _ => none
  | .identity _ => none
  | .adoption _ _ => none
  | .startIdentity _ => none
  | .startWrite _ _ => none
  | .startAdoption _ _ => none

/-- The end of a status read (R105, R106). -/
def statusRule (r : ReadReply) (t : Txn) (s : State) : Option State :=
  match t with
  | .status i => some (s.statusEnded i (readValue r)).beginNext
  | .write _ _ _ => none
  | .verify _ _ _ => none
  | .identity _ => none
  | .adoption _ _ => none
  | .startIdentity _ => none
  | .startWrite _ _ => none
  | .startVerify _ _ => none
  | .startAdoption _ _ => none

/-- The end of the poll's identity read (R105, R109). -/
def identityRule (r : ReadReply) (t : Txn) (s : State) : Option State :=
  match t with
  | .identity c => some (s.identityEnded c (readValue r)).beginNext
  | .write _ _ _ => none
  | .verify _ _ _ => none
  | .status _ => none
  | .adoption _ _ => none
  | .startIdentity _ => none
  | .startWrite _ _ => none
  | .startVerify _ _ => none
  | .startAdoption _ _ => none

/-- The end of an adoption read of a probe (R109, R110). -/
def adoptionRule (r : ReadReply) (t : Txn) (s : State) : Option State :=
  match t with
  | .adoption c k => some (s.adoptionEnded c k (readWord r)).beginNext
  | .write _ _ _ => none
  | .verify _ _ _ => none
  | .status _ => none
  | .identity _ => none
  | .startIdentity _ => none
  | .startWrite _ _ => none
  | .startVerify _ _ => none
  | .startAdoption _ _ => none

/-- The end of the start-up pass's identity read (R112, R113). -/
def startIdentityRule (r : ReadReply) (t : Txn) (s : State) : Option State :=
  match t with
  | .startIdentity c => some (s.startIdentityEnded c (readValue r))
  | .write _ _ _ => none
  | .verify _ _ _ => none
  | .status _ => none
  | .identity _ => none
  | .adoption _ _ => none
  | .startWrite _ _ => none
  | .startVerify _ _ => none
  | .startAdoption _ _ => none

/-- The end of a write of the start-up pass together with its verify read, where it needs one (R112;
notes/assumptions/16.md). Where the verify read is the transaction in flight, the verify reply decides alone. -/
def startWriteRule (reply : Option Byte) (verify : ReadReply) (t : Txn) (s : State) : Option State :=
  match t with
  | .startWrite c k =>
    some (if reply = some 0x06#8 then s.startWriteTaken c k else s.startVerified c k (readWord verify))
  | .startVerify c k => some (s.startVerified c k (readWord verify))
  | .write _ _ _ => none
  | .verify _ _ _ => none
  | .status _ => none
  | .identity _ => none
  | .adoption _ _ => none
  | .startIdentity _ => none
  | .startAdoption _ _ => none

/-- The end of an adoption read of the start-up pass (R113). -/
def startAdoptionRule (r : ReadReply) (t : Txn) (s : State) : Option State :=
  match t with
  | .startAdoption c k => some (s.startAdoptionEnded c k (readWord r))
  | .write _ _ _ => none
  | .verify _ _ _ => none
  | .status _ => none
  | .identity _ => none
  | .adoption _ _ => none
  | .startIdentity _ => none
  | .startWrite _ _ => none
  | .startVerify _ _ => none

/-- WRITE_DECIDED (R103). -/
def execWriteDecided (reply : Byte) (s : State) : Result := .next (s.endTxn (writeRule reply))

/-- REPLY_TIMEOUT (R98, R99): the transaction in flight ends unanswered, by its own rule. -/
def execReplyTimeout (s : State) : Result := .next (s.endTxn fun t s => some (s.unanswered t))

/-- VERIFY_READ (R104). -/
def execVerifyRead (r : ReadReply) (s : State) : Result := .next (s.endTxn (verifyRule r))

/-- STATUS_READ (R106). -/
def execStatusRead (r : ReadReply) (s : State) : Result := .next (s.endTxn (statusRule r))

/-- IDENTITY_READ (R109). -/
def execIdentityRead (r : ReadReply) (s : State) : Result := .next (s.endTxn (identityRule r))

/-- ADOPTION_READ (R109, R110). -/
def execAdoptionRead (r : ReadReply) (s : State) : Result := .next (s.endTxn (adoptionRule r))

/-- START_UP_IDENTITY_READ (R112, R113). -/
def execStartUpIdentityRead (r : ReadReply) (s : State) : Result := .next (s.endTxn (startIdentityRule r))

/-- START_UP_WRITE (R112). -/
def execStartUpWrite (reply : Option Byte) (verify : ReadReply) (s : State) : Result :=
  .next (s.endTxn (startWriteRule reply verify))

/-- START_UP_ADOPTION_READ (R113). -/
def execStartUpAdoptionRead (r : ReadReply) (s : State) : Result := .next (s.endTxn (startAdoptionRule r))

end Sys2Proof.Machine
end

