-- ==== Sys2Proof/Machine/LaneSteps.lean ====
section
/-! DEFINITION. The meanings of the events on the characters of a lane (R149, R152, R159). -/

namespace Sys2Proof.Machine

/-- CHARACTER_RECEIVED (R149). -/
def execCharacterReceived (lane : LaneId) (value : Byte) (parity stop : Bool) (start : Nat) (s : State) : Result :=
  .next (s.characterReceived lane value parity stop start)

/-- BREAK_RECEIVED (R152). -/
def execBreakReceived (lane : LaneId) (s : State) : Result := .next (s.breakOn lane)

/-- BYTE_SENT (R159). -/
def execByteSent (lane : LaneId) (s : State) : Result := .next (s.byteSent lane)

end Sys2Proof.Machine
end

