-- ==== Sys2Proof/Machine/LinkSteps.lean ====
section
/-! DEFINITION. The meanings of the timer and carrier events: the keep timer of a consumer entry (R30) and the events of
the link negotiators (R131 to R142). -/

namespace Sys2Proof.Machine

/-- KEEP_EXPIRY (R30). -/
def execKeepExpiry (k : Seat) (s : State) : Result := .next (s.keepExpired k)

/-- CARRIER_ARRIVAL (R131). -/
def execCarrierArrival (p : Port) (s : State) : Result := .next (s.carrierArrives p)

/-- CARRIER_LOSS (R131). -/
def execCarrierLoss (p : Port) (s : State) : Result := .next (s.carrierLost p)

/-- BREAK_DRIVE_END (R133): the break driven on entry to HOLD ends. -/
def execBreakDriveEnd (p : Port) (s : State) : Result := .next (s.driveBreak (.split p) false)

/-- HOLD_EXPIRY (R133). -/
def execHoldExpiry (p : Port) (s : State) : Result := .next (s.holdExpired p)

/-- OFFER_WAIT_EXPIRY (R134). -/
def execOfferWaitExpiry (p : Port) (s : State) : Result := .next (s.offerWaitExpired p)

/-- CONFIRM_WAIT_EXPIRY (R137). -/
def execConfirmWaitExpiry (p : Port) (s : State) : Result := .next (s.confirmWaitExpired p)

/-- REBIND_INHIBIT_EXPIRY (R142). -/
def execRebindInhibitExpiry (p : Port) (s : State) : Result := .next (s.inhibitExpired p)

end Sys2Proof.Machine
end

