-- ==== Sys2Proof/Machine/PowerSteps.lean ====
section
/-! DEFINITION. The meanings of the commands that begin a life of the part: POWER_ON and RESTART_TAKES_EFFECT. -/

namespace Sys2Proof.Machine

/-- POWER_ON (R111, R112). -/
def execPowerOn (s : State) : Result := .next s.powerOn

/-- RESTART_TAKES_EFFECT (R173): a pending restart takes effect; nothing happens where none is pending
(notes/assumptions/12.md). -/
def execRestartTakesEffect (s : State) : Result :=
  .next (match s.restart with
    | none => s
    | some _ => s.restartNow)

end Sys2Proof.Machine
end

