-- ==== Sys2Proof/Machine/RecordSteps.lean ====
section
/-! DEFINITION. The meanings of the records that come in on a lane: bring-up records, requests and records of a kind that
names no request. Each arrives whole and intact, and is handled as R158 lays down (notes/assumptions/8.md); the rule named
is the one that owns its effect. -/

namespace Sys2Proof.Machine

/-- OFFER (R135, R139, R140). -/
def execOffer (lane : LaneId) (tag : Byte) (fields : List Byte) (s : State) : Result :=
  .next (s.deliver lane offerKind tag fields)

/-- CONFIRM (R138). -/
def execConfirm (lane : LaneId) (tag : Byte) (fields : List Byte) (s : State) : Result :=
  .next (s.deliver lane confirmKind tag fields)

/-- UNKNOWN_KIND (R167 step 1). -/
def execUnknownKind (lane : LaneId) (kind tag : Byte) (fields : List Byte) (s : State) : Result :=
  .next (s.deliver lane kind tag fields)

/-- LEVEL (R32). -/
def execLevel (lane : LaneId) (tag : Byte) (fields : List Byte) (s : State) : Result :=
  .next (s.deliver lane (RequestKind.code .level) tag fields)

/-- MUTE (R33). -/
def execMute (lane : LaneId) (tag : Byte) (fields : List Byte) (s : State) : Result :=
  .next (s.deliver lane (RequestKind.code .mute) tag fields)

/-- MAP (R34). -/
def execMap (lane : LaneId) (tag : Byte) (fields : List Byte) (s : State) : Result :=
  .next (s.deliver lane (RequestKind.code .map) tag fields)

/-- TAKE (R41). -/
def execTake (lane : LaneId) (tag : Byte) (fields : List Byte) (s : State) : Result :=
  .next (s.deliver lane (RequestKind.code .take) tag fields)

/-- RELEASE (R43, R44). -/
def execRelease (lane : LaneId) (tag : Byte) (fields : List Byte) (s : State) : Result :=
  .next (s.deliver lane (RequestKind.code .release) tag fields)

/-- PAD (R48). -/
def execPad (lane : LaneId) (tag : Byte) (fields : List Byte) (s : State) : Result :=
  .next (s.deliver lane (RequestKind.code .pad) tag fields)

/-- PHANTOM (R49, R83). -/
def execPhantom (lane : LaneId) (tag : Byte) (fields : List Byte) (s : State) : Result :=
  .next (s.deliver lane (RequestKind.code .phantom) tag fields)

/-- QUERY_INPUT (R168). -/
def execQueryInput (lane : LaneId) (tag : Byte) (fields : List Byte) (s : State) : Result :=
  .next (s.deliver lane (RequestKind.code .queryInput) tag fields)

/-- QUERY_LINK (R145). -/
def execQueryLink (lane : LaneId) (tag : Byte) (fields : List Byte) (s : State) : Result :=
  .next (s.deliver lane (RequestKind.code .queryLink) tag fields)

/-- QUERY_LANE (R157). -/
def execQueryLane (lane : LaneId) (tag : Byte) (fields : List Byte) (s : State) : Result :=
  .next (s.deliver lane (RequestKind.code .queryLane) tag fields)

/-- QUERY_CONSUMER (R38). -/
def execQueryConsumer (lane : LaneId) (tag : Byte) (fields : List Byte) (s : State) : Result :=
  .next (s.deliver lane (RequestKind.code .queryConsumer) tag fields)

/-- LOCK (R46). -/
def execLock (lane : LaneId) (tag : Byte) (fields : List Byte) (s : State) : Result :=
  .next (s.deliver lane (RequestKind.code .lock) tag fields)

/-- FORCE (R45). -/
def execForce (lane : LaneId) (tag : Byte) (fields : List Byte) (s : State) : Result :=
  .next (s.deliver lane (RequestKind.code .force) tag fields)

/-- SET_RATE (R126). -/
def execSetRate (lane : LaneId) (tag : Byte) (fields : List Byte) (s : State) : Result :=
  .next (s.deliver lane (RequestKind.code .setRate) tag fields)

/-- SET_ALIGN (R69). -/
def execSetAlign (lane : LaneId) (tag : Byte) (fields : List Byte) (s : State) : Result :=
  .next (s.deliver lane (RequestKind.code .setAlign) tag fields)

/-- RESET_PORT (R146). -/
def execResetPort (lane : LaneId) (tag : Byte) (fields : List Byte) (s : State) : Result :=
  .next (s.deliver lane (RequestKind.code .resetPort) tag fields)

/-- RESTART (R172). -/
def execRestart (lane : LaneId) (tag : Byte) (fields : List Byte) (s : State) : Result :=
  .next (s.deliver lane (RequestKind.code .restart) tag fields)

end Sys2Proof.Machine
end

