-- ==== Sys2Proof/Machine/SampleSteps.lean ====
section
/-! DEFINITION. The meanings of the commands of the audio path: sample periods, ramp steps, landings, and the ends of the
fades and settles of phantom sequences. -/

namespace Sys2Proof.Machine

/-- SAMPLE_PERIOD (R14). -/
def execSamplePeriod (x : Tab 48 Sample) (s : State) : Result := .next (s.samplePeriod x)

/-- RAMP_STEP (R10; notes/assumptions/4.md). -/
def execRampStep (who : Party) (i : Input) (s : State) : Result := .next (s.rampStep who i)

/-- LANDING (R68, R70): a move whose landing count stands at 0 lands. -/
def execLanding (i : Input) (s : State) : Result := .next (s.landIfDue i)

/-- FADE_OUT_END (R85). -/
def execFadeOutEnd (i : Input) (s : State) : Result := .next (s.endFadeOut i)

/-- FADE_IN_END (R88). -/
def execFadeInEnd (i : Input) (s : State) : Result := .next (s.endFadeIn i)

/-- SETTLE_EXPIRY (R87). -/
def execSettleExpiry (i : Input) (s : State) : Result := .next (s.settleExpired i)

end Sys2Proof.Machine
end

