-- ==== Sys2Proof/Machine/Dispatch.lean ====
section
/-! DEFINITION. Every command to its meaning. -/

namespace Sys2Proof.Machine

/-- A command's effect on everything but the queue of waiting commands. -/
def exec (i : Instr) (s : State) : Host.Outcome State Fault Refusal :=
  match i with
  | .powerOn => Sys2Proof.Machine.execPowerOn s
  | .samplePeriod x => Sys2Proof.Machine.execSamplePeriod x s
  | .rampStep who input => Sys2Proof.Machine.execRampStep who input s
  | .landing input => Sys2Proof.Machine.execLanding input s
  | .fadeOutEnd input => Sys2Proof.Machine.execFadeOutEnd input s
  | .fadeInEnd input => Sys2Proof.Machine.execFadeInEnd input s
  | .settleExpiry input => Sys2Proof.Machine.execSettleExpiry input s
  | .keepExpiry k => Sys2Proof.Machine.execKeepExpiry k s
  | .carrierArrival p => Sys2Proof.Machine.execCarrierArrival p s
  | .carrierLoss p => Sys2Proof.Machine.execCarrierLoss p s
  | .characterReceived lane value parity stop start => Sys2Proof.Machine.execCharacterReceived lane value parity stop start s
  | .breakReceived lane => Sys2Proof.Machine.execBreakReceived lane s
  | .byteSent lane => Sys2Proof.Machine.execByteSent lane s
  | .breakDriveEnd p => Sys2Proof.Machine.execBreakDriveEnd p s
  | .holdExpiry p => Sys2Proof.Machine.execHoldExpiry p s
  | .offerWaitExpiry p => Sys2Proof.Machine.execOfferWaitExpiry p s
  | .confirmWaitExpiry p => Sys2Proof.Machine.execConfirmWaitExpiry p s
  | .rebindInhibitExpiry p => Sys2Proof.Machine.execRebindInhibitExpiry p s
  | .offer lane tag fields => Sys2Proof.Machine.execOffer lane tag fields s
  | .confirm lane tag fields => Sys2Proof.Machine.execConfirm lane tag fields s
  | .unknownKind lane kind tag fields => Sys2Proof.Machine.execUnknownKind lane kind tag fields s
  | .level lane tag fields => Sys2Proof.Machine.execLevel lane tag fields s
  | .mute lane tag fields => Sys2Proof.Machine.execMute lane tag fields s
  | .map lane tag fields => Sys2Proof.Machine.execMap lane tag fields s
  | .take lane tag fields => Sys2Proof.Machine.execTake lane tag fields s
  | .release lane tag fields => Sys2Proof.Machine.execRelease lane tag fields s
  | .pad lane tag fields => Sys2Proof.Machine.execPad lane tag fields s
  | .phantom lane tag fields => Sys2Proof.Machine.execPhantom lane tag fields s
  | .queryInput lane tag fields => Sys2Proof.Machine.execQueryInput lane tag fields s
  | .queryLink lane tag fields => Sys2Proof.Machine.execQueryLink lane tag fields s
  | .queryLane lane tag fields => Sys2Proof.Machine.execQueryLane lane tag fields s
  | .queryConsumer lane tag fields => Sys2Proof.Machine.execQueryConsumer lane tag fields s
  | .lock lane tag fields => Sys2Proof.Machine.execLock lane tag fields s
  | .force lane tag fields => Sys2Proof.Machine.execForce lane tag fields s
  | .setRate lane tag fields => Sys2Proof.Machine.execSetRate lane tag fields s
  | .setAlign lane tag fields => Sys2Proof.Machine.execSetAlign lane tag fields s
  | .resetPort lane tag fields => Sys2Proof.Machine.execResetPort lane tag fields s
  | .restart lane tag fields => Sys2Proof.Machine.execRestart lane tag fields s
  | .restartTakesEffect => Sys2Proof.Machine.execRestartTakesEffect s
  | .writeDecided reply => Sys2Proof.Machine.execWriteDecided reply s
  | .replyTimeout => Sys2Proof.Machine.execReplyTimeout s
  | .verifyRead r => Sys2Proof.Machine.execVerifyRead r s
  | .statusRead r => Sys2Proof.Machine.execStatusRead r s
  | .identityRead r => Sys2Proof.Machine.execIdentityRead r s
  | .adoptionRead r => Sys2Proof.Machine.execAdoptionRead r s
  | .startUpIdentityRead r => Sys2Proof.Machine.execStartUpIdentityRead r s
  | .startUpWrite reply verify => Sys2Proof.Machine.execStartUpWrite reply verify s
  | .startUpAdoptionRead r => Sys2Proof.Machine.execStartUpAdoptionRead r s

end Sys2Proof.Machine
end

