-- ==== Sys2Proof/Machine/Step.lean ====
section
/-! DEFINITION. One step of the part: the command at the front of the queue, or idling. -/

namespace Sys2Proof.Machine

/-- The state with a command put in front of the queue. -/
def State.withFront (c : Instr) (s : State) : State := { s with pending := c :: s.pending }

/-- The state with the command that a table word spells put at the front of the queue. The table gives no row any bits,
so no word spells a command and the state is as it was (notes/assumptions/1.md). -/
def State.withFetchWord (s : State) (nbits w : Nat) : State :=
  match decodeTableWord nbits w with
  | none => s
  | some c => s.withFront c

/-- One step: the front command is taken off the queue and carried out; on an empty queue the part idles
(notes/assumptions/1.md). -/
def step (s : State) : Host.Outcome State Fault Refusal :=
  match s.pending with
  | [] => .next s
  | c :: rest => exec c { s with pending := rest }

end Sys2Proof.Machine
end

