-- ==== Sys2Proof/Safety.lean ====
section
/-! DEFINITION. The terms that claims about the part use: when a lane takes a record at once and what its answer leaves,
and the properties that every step is to keep. -/

namespace Sys2Proof.Machine

/-! ## Taking a record -/

/-- The framer holds no complete record. -/
def Framer.isFree : Framer → Bool
  | .held _ => false
  | .hunt => true
  | .length => true
  | .body _ _ _ => true
  | .check _ _ _ => true

/-- A record that arrives on the lane is taken at once: no record is held, no character waits, the room of R158 is there,
and the lane is not one that a restart has made store nothing (R174). -/
def State.takesAtOnce (s : State) (l : LaneId) : Prop :=
  (s.rx.get l.idx).framer.isFree = true ∧ (s.rx.get l.idx).queue = [] ∧ s.canTake l = true ∧ s.deaf l = false

/-- The state in which a lane has taken its record, the framer reads on, and one frame has joined the transmit queue. -/
def State.answered (l : LaneId) (body : List Byte) (s : State) : State :=
  { s with rx := s.rx.modify l.idx fun r => { r with framer := .hunt }, comm := s.comm.queueFrame l body }

/-- A request of a kind on a lane passes steps 1 to 5 of R167 on behalf of a requester: the panel on lane P, or the
consumer of a BOUND port's entry on its lane. -/
def State.serves (s : State) (l : LaneId) (k : RequestKind) (who : Party) : Prop :=
  s.takesAtOnce l ∧ s.boundRequester l = some who ∧ (k.panelOnly = true → l = .panel) ∧
    (k.touchesInput = true → s.bus.pass = .ready)

/-! ## The notices that an effect raises -/

/-- An event as it is routed: the lanes it goes to, and its record (R175). -/
abbrev Event := List LaneId × Notice

/-- The transmit queues and the notice builder's marks after events have been raised, one after the other, each offered to
its lanes in order (R175, R176). -/
def Comm.tells (events : List Event) (c : Comm) : Comm :=
  events.foldl (fun c e => e.1.foldl (fun c l => c.offer l e.2) c) c

/-- The LIMIT event of a pair that has come from `q` to `q'` on an input whose setting has the value `a`, for the lanes of
its party (R8). -/
def limitTold (lanes : List LaneId) (i : Input) (a : Int) (q q' : Pair) : List Event :=
  if q.trimState ≠ .limited ∧ q'.trimState = .limited then
    [(lanes, .limit i true (match q'.level with
      | some x => x - a - q'.trim
      | none => 0))]
  else if q.trimState = .limited ∧ q'.trimState ≠ .limited then [(lanes, .limit i false 0)]
  else []

/-- The LIMIT events of an input's pairs between two states, the panel's first and then the entries' by index (R8; that
order is the model's, notes/assumptions/24.md). -/
def State.limitsTold (s t : State) (i : Input) : List Event :=
  allParties.flatMap fun who => match s.pair? who i, t.pair? who i with
    | some q, some q' => limitTold (s.lanesOf who) i (t.analog i) q q'
    | some _, none => []
    | none, _ => []

/-- The event of a change of owner, with the new and the previous owner's codes and the length of the waiting list (R57). -/
def State.ownerTold (s : State) (i : Input) (now before : Option Party) (waiting : Nat) : Event :=
  (s.partyLanes, .owner i (s.ownerCode now) (s.ownerCode before) waiting)

/-- The STARTED event of a phantom sequence that leaves the phantom state as it is (R85, R94). -/
def State.startTold (s : State) (i : Input) : Event :=
  (s.partyLanes, .phantomState i (s.phantoms.get i).phantom .fadeOut .started)

/-- A lane's transmit queue and a port's stale set emptied, with or without a break being driven (R161, R177). -/
def Comm.flushed (p : Port) (breaking : Bool) (c : Comm) : Comm :=
  { c with tx := c.tx.set p.succ { queue := [], breaking := breaking }, stale := c.stale.set p (Tab.const 48 false) }

/-- A lane has taken its record, queued the reply, and then told of the events that the handling raised (R158, R166). -/
def State.repliedThen (l : LaneId) (body : List Byte) (events : List Event) (s t : State) : Prop :=
  t.rx = (s.answered l body).rx ∧ t.comm = (s.answered l body).comm.tells events

/-- The command that is the request of a kind. -/
def RequestKind.request (k : RequestKind) (l : LaneId) (tag : Byte) (fields : List Byte) : Instr :=
  match k with
  | .level => .level l tag fields
  | .mute => .mute l tag fields
  | .map => .map l tag fields
  | .take => .take l tag fields
  | .release => .release l tag fields
  | .pad => .pad l tag fields
  | .phantom => .phantom l tag fields
  | .queryInput => .queryInput l tag fields
  | .queryLink => .queryLink l tag fields
  | .queryLane => .queryLane l tag fields
  | .queryConsumer => .queryConsumer l tag fields
  | .lock => .lock l tag fields
  | .force => .force l tag fields
  | .setRate => .setRate l tag fields
  | .setAlign => .setAlign l tag fields
  | .resetPort => .resetPort l tag fields
  | .restart => .restart l tag fields

/-- The command `c` is the arrival, on lane `l`, of the record with this kind, this tag and these fields. -/
def bringsRecord (c : Instr) (l : LaneId) (kind tag : Byte) (fields : List Byte) : Prop :=
  (c = .offer l tag fields ∧ kind = 0x01#8) ∨ (c = .confirm l tag fields ∧ kind = 0x02#8) ∨
    c = .unknownKind l kind tag fields ∨ ∃ k : RequestKind, c = k.request l tag fields ∧ kind = k.code

/-- A lane reads on from a state to the one in which it stops: the framer takes what it holds once the lane has the room of
R158, reads the characters that wait, one by one from the head of the receive queue, while it holds nothing, and stops where
it must wait or where no character is left (R154, R158). -/
inductive State.ReadsOn (l : LaneId) : State → State → Prop
  | waits {s : State} {body : List Byte} : (s.rx.get l.idx).framer = .held body → s.canTake l = false → ReadsOn l s s
  | stops {s : State} : (s.rx.get l.idx).framer.isFree = true → (s.rx.get l.idx).queue = [] → ReadsOn l s s
  | takes {s t : State} {body : List Byte} : (s.rx.get l.idx).framer = .held body → s.canTake l = true →
      ReadsOn l (s.takeHeld l body) t → ReadsOn l s t
  | reads {s t : State} {c : RxChar} {rest : List RxChar} : (s.rx.get l.idx).framer.isFree = true →
      (s.rx.get l.idx).queue = c :: rest →
      ReadsOn l { s with rx := s.rx.set l.idx (RxSide.readChar c { s.rx.get l.idx with queue := rest }) } t →
      ReadsOn l s t

/-- A record of a kind reaches the order of checks: on lane P always, on a split lane where its port is in OFFER, CONFIRM
or BOUND and the record is no bring-up record (R141, R167). -/
def State.reachesChecks (s : State) (l : LaneId) (kind : Byte) : Prop :=
  match l with
  | .panel => True
  | .split p =>
    ((s.ports.get p).state = .offer ∨ (s.ports.get p).state = .confirm ∨ (s.ports.get p).state = .bound) ∧
      kind ≠ offerKind ∧ kind ≠ confirmKind

/-! ## What targets, exits and entries leave -/

/-- The moves and the bus after the owner level of an input has been taken afresh: nothing changes where it is absent, and
the target for it is handed over where it is present (R50). -/
def State.pursue (s : State) (i : Input) (level : Option Int) (pad : Bool) : Tab 48 MoveCtl × Bus :=
  match level with
  | none => (s.moves, s.bus)
  | some g => ((s.handTarget i (analogTarget g pad)).moves, (s.handTarget i (analogTarget g pad)).bus)

/-- The level of a party's pair, absent where it has no pair. -/
def State.levelOf (s : State) (who : Party) (i : Input) : Option Int :=
  match s.pair? who i with
  | none => none
  | some q => q.level

/-- The level of an owner's pair, absent where there is no owner (R50). -/
def State.levelOfOwner (s : State) (owner : Option Party) (i : Input) : Option Int :=
  match owner with
  | none => none
  | some who => s.levelOf who i

/-- A lane has taken its record and queued the reply; then the input's owner has become `who`, its waiting list is
`waiting`, the owner level of the new owner has been pursued, and the change has been told of (R51, R57). Every other
input's owner and every other field is as it was. -/
def State.ownerPassed (l : LaneId) (body : List Byte) (i : Input) (who : Option Party) (waiting : List Party)
    (s t : State) : Prop :=
  s.repliedThen l body [s.ownerTold i who (s.own.get i).owner waiting.length] t ∧
    t.own = s.own.set i { s.own.get i with owner := who, waiting := waiting } ∧
    (t.moves, t.bus) = s.pursue i (s.levelOfOwner who i) (s.own.get i).padChoice ∧
      t = { s with rx := t.rx, comm := t.comm, own := t.own, moves := t.moves, bus := t.bus }

/-- A lane's marks in the order in which a flush takes them: on lane P the ports, then the chips, then the inputs, each
ascending; on a split lane the inputs of its stale set, ascending (R179). -/
def Comm.marksInOrder (c : Comm) (l : LaneId) : List Subject :=
  match l with
  | .panel => ((List.finRange 6).filter c.portMarks.get).map .port ++ ((List.finRange 6).filter c.chipMarks.get).map .chip ++
      ((List.finRange 48).filter c.inputMarks.get).map .input
  | .split p => ((List.finRange 48).filter (c.stale.get p).get).map .input

/-- The notice that a flush composes for a mark from the state as it stands: for a port its state, the state last told and
its latched flags; for a chip its state; for an input the state block of the lane's party (R179). -/
def State.markNotice (s : State) (c : Comm) (l : LaneId) (sub : Subject) : Option Notice :=
  match sub with
  | .port p => some (.link p (s.ports.get p).state (c.lastTold.get p) (s.ports.get p).flags)
  | .chip ch => some (.chip ch (s.bus.chips.get ch))
  | .input i => match l with
    | .panel => some (.state i (s.stateBlock .panel i))
    | .split p => (seatOf s.entries p).map fun k => .state i (s.stateBlock (.consumer k) i)

/-- `c` after the flush notice `n` of a mark has been queued: its frame stands at the end of the lane's queue, the mark is
gone, a LINK has set the port's last-told state, and nothing else differs (R179). -/
def State.markSent (s : State) (l : LaneId) (sub : Subject) (n : Notice) (c : Comm) : Comm :=
  let tx := c.tx.set l.idx { c.tx.get l.idx with queue := (c.tx.get l.idx).queue ++ frameOf n.body }
  match l, sub with
  | .panel, .port p => { c with tx := tx, portMarks := c.portMarks.set p false
                                lastTold := c.lastTold.set p (s.ports.get p).state }
  | .panel, .chip ch => { c with tx := tx, chipMarks := c.chipMarks.set ch false }
  | .panel, .input i => { c with tx := tx, inputMarks := c.inputMarks.set i false }
  | .split p, .input i => { c with tx := tx, stale := c.stale.set p ((c.stale.get p).set i false) }
  | .split _, .port _ => { c with tx := tx }
  | .split _, .chip _ => { c with tx := tx }

/-- A flush of a list of marks makes `c'` of `c`: mark after mark, each notice is queued where at least 96 of the 512 bytes
remain free after it and the flush goes on; at the first that does not fit it stops, and everything stands as it is (R179,
R160). Where a split lane speaks for no consumer there is no notice, and the flush stops too. -/
def State.marksFlushed (s : State) (l : LaneId) : List Subject → Comm → Comm → Prop
  | [], c, c' => c' = c
  | sub :: more, c, c' =>
    match s.markNotice c l sub with
    | none => c' = c
    | some n =>
      if (c.tx.get l.idx).queue.length + (n.body.length + 4) + 96 ≤ 512 then
        State.marksFlushed s l more (s.markSent l sub n c) c'
      else c' = c

/-- A stamp above that of every keep timer that runs: a timer that starts with it has started after all of them (R24,
notes/assumptions/6.md). -/
def State.laterStamp (s : State) (stamp : Nat) : Prop :=
  ∀ k c since n, s.entries.get k = some c → c.presence = .keeping since n → n < stamp

/-- What a port's exit from BOUND leaves of the stream builder, the consumer table and the arbiter (R28, R52, R124, R143);
a port that was not BOUND leaves them as they were. A keep timer that starts carries a later stamp than every one that runs
(R24, notes/assumptions/6.md). -/
def State.portLeft (p : Port) (s t : State) : Prop :=
  if (s.ports.get p).state = .bound then
    t.streams = s.streams.set p { layout := none, map := [], frame := none } ∧
      match seatOf s.entries p with
      | none => t.entries = s.entries ∧ t.own = s.own
      | some k => ∀ c, s.entries.get k = some c →
        (c.ports.filter (· != p) ≠ [] →
          t.entries = s.entries.set k (some { c with ports := c.ports.filter (· != p) }) ∧ t.own = s.own) ∧
        (c.ports.filter (· != p) = [] → ∃ stamp, s.laterStamp stamp ∧
          t.entries = s.entries.set k (some { c with ports := [], presence := .keeping s.clock stamp }) ∧
            t.own = s.own.map fun o => { o with waiting := o.waiting.filter (· != .consumer k) })
  else t.streams = s.streams ∧ t.entries = s.entries ∧ t.own = s.own

/-- What an entry to HOLD leaves, from a port that holds `q` with the flags of the event latched, and the LINK event it
raises with the reason flags `why` (R133, R147, R161, R177). -/
def State.enteredHold (p : Port) (q : LinkPort) (why : Tab 12 Bool) (s t : State) : Prop :=
  t.ports = s.ports.set p
      { q with state := .hold, timer := some (.hold, s.clock), nonce := none, page := none, resolved := none,
               history := q.history.set 1 true } ∧
    t.rx = s.rx.modify p.succ
      (fun r => { r with queue := [], overrunPending := false, gapRef := none, framer := .hunt }) ∧
    t.comm = (s.comm.flushed p true).tells [([.panel], .link p .hold (s.ports.get p).state why)] ∧
    s.portLeft p t ∧
    t = { s with ports := t.ports, rx := t.rx, comm := t.comm, streams := t.streams, entries := t.entries, own := t.own }

/-- What an entry to DOWN leaves, and the LINK event it raises (R131, R147, R161, R177). -/
def State.enteredDown (p : Port) (q : LinkPort) (why : Tab 12 Bool) (s t : State) : Prop :=
  t.ports = s.ports.set p
      { q with state := .down, timer := none, nonce := none, page := none, resolved := none,
               history := q.history.set 0 true } ∧
    t.rx = s.rx.modify p.succ
      (fun r => { r with queue := [], overrunPending := false, gapRef := none, framer := .hunt }) ∧
    t.comm = (s.comm.flushed p false).tells [([.panel], .link p .down (s.ports.get p).state why)] ∧
    s.portLeft p t ∧
    t = { s with ports := t.ports, rx := t.rx, comm := t.comm, streams := t.streams, entries := t.entries, own := t.own }

/-- What an entry to OFFER leaves, from a port that holds `q`: a fresh nonce, the offer wait, the LINK event, and the part's
OFFER behind whatever the lane had queued (R134, R147). -/
def State.enteredOffer (p : Port) (q : LinkPort) (s t : State) : Prop :=
  t.ports = s.ports.set p
      { q with state := .offer, timer := some (.offerWait, s.clock), nonce := some (Config.freeNonce s.draws),
               page := none, resolved := none, history := q.history.set 2 true } ∧
    t.draws = s.draws + 1 ∧
    t.comm = (s.comm.tells [([.panel], .link p .offer (s.ports.get p).state noFlags)]).queueFrame (.split p)
      (offerBody p s.rate (Config.freeNonce s.draws)) ∧
    t = { s with ports := t.ports, comm := t.comm, draws := t.draws }

/-- What a chip fault leaves of the chip's state, its queued writes, and its inputs' moves, sequences and gates, and what it
tells of (R73, R92, R108); other chips' inputs are as they were, and so is every trim. The order of the events is the
model's (notes/assumptions/14.md, notes/assumptions/24.md). -/
def State.chipFaulted (c : Chip) (s t : State) : Prop :=
  t.bus = { s.bus with chips := s.bus.chips.set c .faulted
                       queue := s.bus.queue.filter fun e => !e.writesChip c } ∧
    (∀ i, chipOf i = c → t.moves.get i =
      { s.moves.get i with
        status := .uncertain, move := .idle
        pending := match (s.moves.get i).pending with
          | some x => some x
          | none => (s.moves.get i).move.inFlight }) ∧
    (∀ i, chipOf i ≠ c → t.moves.get i = s.moves.get i ∧ t.phantoms.get i = s.phantoms.get i) ∧
    (∀ i, chipOf i = c → (s.phantoms.get i).seq = .idle →
      t.phantoms.get i = { s.phantoms.get i with held := none }) ∧
    (∀ i, chipOf i = c → (s.phantoms.get i).seq ≠ .idle →
      t.phantoms.get i =
        { s.phantoms.get i with
          seq := .fadeIn, settle := none, reversal := none, outcome := some .failed
          phantom := if wordPhantom (s.bus.shadow.get i) then .on else .off }) ∧
    (∀ who i q, s.pair? who i = some q → t.pair? who i = some
      { q with
        trimState := if chipOf i = c then .frozen else q.trimState
        dir := if chipOf i = c ∧ (s.phantoms.get i).seq ≠ .idle then (Pair.turnGate s.rate.fade .fadeIn q).dir
          else q.dir }) ∧
    t.comm = s.comm.tells
      ((chipInputs c).flatMap (fun i => s.limitsTold t i) ++
        (chipInputs c).flatMap (fun i =>
          if (s.phantoms.get i).seq = .idle ∧ (s.phantoms.get i).held ≠ none then
            [(s.partyLanes, .phantomState i (s.phantoms.get i).phantom .idle (.ended .failed))]
          else []) ++
        [([.panel], .chip c .faulted)]) ∧
    t = { s with bus := t.bus, moves := t.moves, phantoms := t.phantoms, pairs := t.pairs, comm := t.comm }

/-- A pair whose trim target has been recomputed and whose trim state has been set, on a KNOWN input whose setting has the
value `a`: it enters RAMPING with its phase at 0, and its level, mute, trim, gate and saturation count are as they were (R5,
R6, R10). The mark `stepped` is the model's own (notes/assumptions/4.md). -/
def Pair.retargeted (a : Int) (q q' : Pair) : Prop :=
  let entered := q'.trimState = .ramping ∧ q.trimState ≠ .ramping
  q' = { q with
    target := (match q.level with
      | none => 0
      | some l => max (-400) (min 240 (l - a)))
    trimState := q'.trimState
    phase := if entered then 0 else q.phase
    stepped := if entered then false else q.stepped } ∧
  q'.trimState = q'.stateNow .known a

/-- The target that an adoption finds for an input: the owner level's on the pad choice, or else the pending target (R56,
R76). -/
def State.adoptedTarget (s : State) (i : Input) : Option Setting :=
  match s.levelOfOwner (s.own.get i).owner i with
  | some g => some (analogTarget g (s.own.get i).padChoice)
  | none => (s.moves.get i).pending

/-- What the adoption of a chip's eight words leaves (R56, R75, R76, R95, R110): the chip is OK; each of its inputs is KNOWN
with the setting and the phantom state of its word, its trims are released, and its target is pursued; the gain commands so
issued join the end of the queue. In ascending order, each input's LIMIT events are told of, and then, but in the start-up
pass, its MOVED event; last comes the CHIP event (notes/assumptions/14.md; for the parties of one input's LIMIT events,
notes/assumptions/24.md). Other chips' inputs are as they were. -/
def State.chipAdopted (startUp : Bool) (c : Chip) (ws : List Byte) (s t : State) : Prop :=
  t.bus = { s.bus with
    chips := s.bus.chips.set c .ok, probe := [], shadow := t.bus.shadow
    queue := s.bus.queue ++ (chipInputs c).filterMap fun i => match (t.moves.get i).move with
      | .queued a => some (.write (.gain i a.pad a.p))
      | .idle => none
      | .onWire _ => none
      | .landing _ _ => none } ∧
    (∀ k w, ws[k.val]? = some w →
      let i := inputAt c k
      let m : MoveCtl := { s.moves.get i with setting := wordSetting w, failed := none, status := .known }
      t.bus.shadow.get i = w ∧
      t.moves.get i = (match s.adoptedTarget i with
        | some a => (MoveCtl.deal (decide ((s.phantoms.get i).seq ≠ .idle)) a m).1
        | none => m) ∧
      t.phantoms.get i = { s.phantoms.get i with phantom := if wordPhantom w then .on else .off } ∧
      t.own.get i = (if (s.own.get i).owner = none then { s.own.get i with padChoice := wordPad w } else s.own.get i) ∧
      ∀ who q, s.pair? who i = some q → ∃ q', t.pair? who i = some q' ∧ q.retargeted (wordSetting w).value q') ∧
    (∀ i, chipOf i ≠ c → t.bus.shadow.get i = s.bus.shadow.get i ∧ t.moves.get i = s.moves.get i ∧
      t.phantoms.get i = s.phantoms.get i ∧ t.own.get i = s.own.get i ∧ ∀ who, t.pair? who i = s.pair? who i) ∧
    t.comm = s.comm.tells ((chipInputs c).flatMap (fun i => s.limitsTold t i ++
      (if startUp then [] else [(s.partyLanes, .moved i .adopted (t.moves.get i).setting)])) ++
        [([.panel], .chip c .ok)]) ∧
    t = { s with bus := t.bus, moves := t.moves, phantoms := t.phantoms, own := t.own, pairs := t.pairs, comm := t.comm }

/-- A list of ports enters OFFER one after the other, each with a nonce of its own, counted from `n` (R129, R134). -/
def Comm.offers (rate : BoxRate) (c : Comm) (n : Nat) : List Port → Comm
  | [] => c
  | p :: rest =>
    ((c.tells [([.panel], .link p .offer .down noFlags)]).queueFrame (.split p)
      (offerBody p rate (Config.freeNonce n))).offers rate (n + 1) rest

/-- What the start-up pass does after a chip (R112, R114): it reads the next chip's identity, or, after the last one, the
part is READY, every DOWN port with carrier enters OFFER in ascending order with a nonce drawn for it, and the poll begins
at input 1. -/
def State.passedOn (c : Chip) (s t : State) : Prop :=
  if h : c.val + 1 < 6 then
    t = { s with bus := { s.bus with flight := some { txn := .startIdentity ⟨c.val + 1, h⟩, discard := false } } }
  else
    let rising := allPorts.filter fun p => (s.ports.get p).carrier && decide ((s.ports.get p).state = .down)
    ∃ u : State, t = u.beginNext ∧ u.bus = { s.bus with pass := .ready, pollPos := 0 } ∧
      (∀ n p, rising[n]? = some p → u.ports.get p =
        { s.ports.get p with
          state := .offer, timer := some (.offerWait, s.clock), nonce := some (Config.freeNonce (s.draws + n))
          page := none, resolved := none, history := (s.ports.get p).history.set 2 true }) ∧
      (∀ p, p ∉ rising → u.ports.get p = s.ports.get p) ∧
      u.draws = s.draws + rising.length ∧
      u.comm = s.comm.offers s.rate s.draws rising ∧
      u = { s with bus := u.bus, ports := u.ports, draws := u.draws, comm := u.comm }

/-! ## What every step keeps -/

/-- R39 for one input: the waiting list holds each party at most once and never the owner, and stands behind an owner. -/
def Ownership.ok (o : Ownership) : Prop :=
  o.waiting.Nodup ∧ (∀ who ∈ o.waiting, o.owner ≠ some who) ∧ (o.owner = none → o.waiting = [])

/-- R39 for every input. -/
def State.ownersOk (s : State) : Prop := ∀ i, (s.own.get i).ok

/-- One gate (R18, R19): its position is within the fade length, CLOSED is g = 0 and OPEN is g = N, a CLOSING gate stands
above 0 and an OPENING one below N. -/
def Pair.gateOk (n : Nat) (q : Pair) : Prop :=
  match q.dir with
  | .closed => q.gate = 0
  | .opened => q.gate = n
  | .closing => 0 < q.gate ∧ q.gate ≤ n
  | .opening => q.gate < n

/-- A gate goes the way its requirement calls for (R17, R18). -/
def Pair.gateFollows (seq : SeqState) (q : Pair) : Prop :=
  if requiredClosed seq q.mute then q.dir = .closing ∨ q.dir = .closed else q.dir = .opening ∨ q.dir = .opened

/-- Every gate is in order, and every pair of an input in WRITING or SETTLING stands at g = 0 (R17 to R19, R85). -/
def State.gatesOk (s : State) : Prop :=
  ∀ who i q, s.pair? who i = some q →
    q.gateOk s.rate.fade ∧ q.gateFollows (s.phantoms.get i).seq ∧
      ((s.phantoms.get i).seq = .writing ∨ (s.phantoms.get i).seq = .settling → q.gate = 0)

/-- One pair's numbers are within their ranges (R1, R5, R10, R16). -/
def Pair.inRange (rate : BoxRate) (q : Pair) : Prop :=
  (∀ l, q.level = some l → -600 ≤ l ∧ l ≤ 840) ∧ (-400 ≤ q.trim ∧ q.trim ≤ 240) ∧
    (-400 ≤ q.target ∧ q.target ≤ 240) ∧ q.phase < rate.rampInterval ∧ q.sat ≤ 65535

/-- Every number of the part that the manual bounds is within its bounds: levels, trims, targets, phases and saturation
counts (R1, R5, R10, R16), D and the landing counts (R59, R69), clip counts (R106), the receive queues and counters (R151,
R156), the transmit queues (R159, R160) and the names (R164). The transmit queue of a port in DOWN or HOLD is empty, since
its entry flushed the lane (R161) and nothing is sent on it there. -/
def State.numbersOk (s : State) : Prop :=
  (∀ who i q, s.pair? who i = some q → q.inRange s.rate) ∧
  s.align ≤ 255 ∧
  (∀ i a n, (s.moves.get i).move = .landing a n → n ≤ 255) ∧
  (∀ n, (s.comm.tx.get n).queue.length ≤ 512) ∧
  (∀ p, (s.ports.get p).state = .down ∨ (s.ports.get p).state = .hold → (s.comm.tx.get p.succ).queue = []) ∧
  (∀ k c, s.entries.get k = some c → c.name.length ≤ 16) ∧
  (∀ p pg, (s.ports.get p).page = some pg → pg.name.length ≤ 16) ∧
  (∀ i, s.bus.clips.get i ≤ 65535) ∧
  (∀ n, (s.rx.get n).queue.length ≤ 512 ∧ (s.rx.get n).counters.gap ≤ 65535 ∧ (s.rx.get n).counters.marked ≤ 65535 ∧
    (s.rx.get n).counters.length ≤ 65535 ∧ (s.rx.get n).counters.check ≤ 65535 ∧
    (s.rx.get n).counters.overrun ≤ 65535 ∧ (s.rx.get n).counters.ignored ≤ 65535)

/-- A setting is within the analog domain (R2). -/
def Setting.inRange (t : Setting) : Prop := t.p ≤ pMax t.pad

/-- Every setting and target of one input is within the analog domain (R2, R59). -/
def MoveCtl.inRange (m : MoveCtl) : Prop :=
  m.setting.inRange ∧ (∀ t, m.move.inFlight = some t → t.inRange) ∧ (∀ t, m.pending = some t → t.inRange)

/-- A command asks for a setting within the analog domain; a phantom command asks for none. -/
def Command.inRange : Command → Prop
  | .gain _ pad p => p ≤ pMax pad
  | .phantom _ _ => True

/-- A queued write's command, and the word a queued verify read may commit, are within the domain. -/
def QueueEntry.inRange : QueueEntry → Prop
  | .write c => c.inRange
  | .verify _ _ newWord => inDomain newWord = true
  | .adoption _ _ => True

/-- The word a transaction writes or may commit is within the domain; the start-up pass writes 0. -/
def Txn.inRange : Txn → Prop
  | .write _ _ newWord => inDomain newWord = true
  | .verify _ _ newWord => inDomain newWord = true
  | .status _ => True
  | .identity _ => True
  | .adoption _ _ => True
  | .startIdentity _ => True
  | .startWrite _ _ => True
  | .startVerify _ _ => True
  | .startAdoption _ _ => True

/-- Every setting the part holds or pursues, and every channel word it takes a chip to hold, has read or may write, is
within the analog domain (R2, R97, R100, R101). -/
def State.wordsOk (s : State) : Prop :=
  (∀ i, (s.moves.get i).inRange) ∧ (∀ i, inDomain (s.bus.shadow.get i) = true) ∧
    (∀ w ∈ s.bus.probe, inDomain w = true) ∧ (∀ e ∈ s.bus.queue, e.inRange) ∧
    (∀ f, s.bus.flight = some f → f.txn.inRange)

/-- The consumer table is in order (R21, R22, R31): an entry holds pairs exactly while it holds a consumer, no two
entries hold one identity, a consumer is KEEPING exactly while it has no port, it has at most two, each of them BOUND, and
no port belongs to two consumers. -/
def State.tableOk (s : State) : Prop :=
  (∀ k, (s.entries.get k).isSome = (s.pairs.seats.get k).isSome) ∧
  (∀ k k' c c', s.entries.get k = some c → s.entries.get k' = some c' → c.identity = c'.identity → k = k') ∧
  (∀ k c, s.entries.get k = some c →
    c.ports.length ≤ 2 ∧ c.ports.Nodup ∧ (c.presence.isKeeping = true ↔ c.ports = []) ∧
      ∀ p ∈ c.ports, (s.ports.get p).state = .bound) ∧
  (∀ k k' c c' p, s.entries.get k = some c → s.entries.get k' = some c' → p ∈ c.ports → p ∈ c'.ports → k = k')

/-- The port state in which a timer of a kind runs (R130). -/
def TimerKind.state : TimerKind → PortState
  | .hold => .hold
  | .offerWait => .offer
  | .confirmWait => .confirm
  | .rebindInhibit => .fault

/-- A port's timer runs only in the state that starts it (R130, R133, R134, R137, R142). -/
def State.timersOk (s : State) : Prop :=
  ∀ p k since, (s.ports.get p).timer = some (k, since) → (s.ports.get p).state = k.state

/-- An owner is the panel or a consumer of the table, and a consumer that waits is PRESENT (R39). -/
def State.partiesOk (s : State) : Prop :=
  ∀ i k, ((s.own.get i).owner = some (.consumer k) → (s.entries.get k).isSome = true) ∧
    (.consumer k ∈ (s.own.get i).waiting → ∃ c, s.entries.get k = some c ∧ c.presence.isKeeping = false)

end Sys2Proof.Machine
end

