-- ==== Sys2Proof/WellFormed.lean ====
section
/-! DEFINITION. Which commands can be: a record fits a frame, and a record of unknown kind is of a kind that names neither
a request nor, on a split lane, a bring-up record that the link negotiator takes (R153, R141, R167). -/

namespace Sys2Proof

/-- The fields of a record leave its body within 200 bytes, kind and tag included (R153). -/
def fieldsFit (fields : List Byte) : Bool := decide (fields.length ≤ 198)

/-- A kind that names no request on the lane it comes in on: OFFER and CONFIRM do on a split lane only (R141, R167). -/
def kindUnknown (lane : LaneId) (kind : Byte) : Bool :=
  (Machine.kindOf kind).isNone &&
    match lane with
    | .panel => true
    | .split _ => kind != Machine.offerKind && kind != Machine.confirmKind

/-- A command that can be. -/
def Instr.wf (i : Instr) : Bool :=
  match i with
  | .unknownKind lane kind _ fields => fieldsFit fields && kindUnknown lane kind
  | .offer _ _ fields => fieldsFit fields
  | .confirm _ _ fields => fieldsFit fields
  | .level _ _ fields => fieldsFit fields
  | .mute _ _ fields => fieldsFit fields
  | .map _ _ fields => fieldsFit fields
  | .take _ _ fields => fieldsFit fields
  | .release _ _ fields => fieldsFit fields
  | .pad _ _ fields => fieldsFit fields
  | .phantom _ _ fields => fieldsFit fields
  | .queryInput _ _ fields => fieldsFit fields
  | .queryLink _ _ fields => fieldsFit fields
  | .queryLane _ _ fields => fieldsFit fields
  | .queryConsumer _ _ fields => fieldsFit fields
  | .lock _ _ fields => fieldsFit fields
  | .force _ _ fields => fieldsFit fields
  | .setRate _ _ fields => fieldsFit fields
  | .setAlign _ _ fields => fieldsFit fields
  | .resetPort _ _ fields => fieldsFit fields
  | .restart _ _ fields => fieldsFit fields
  | .powerOn => true
  | .samplePeriod _ => true
  | .rampStep _ _ => true
  | .landing _ => true
  | .fadeOutEnd _ => true
  | .fadeInEnd _ => true
  | .settleExpiry _ => true
  | .keepExpiry _ => true
  | .carrierArrival _ => true
  | .carrierLoss _ => true
  | .characterReceived _ _ _ _ _ => true
  | .breakReceived _ => true
  | .byteSent _ => true
  | .breakDriveEnd _ => true
  | .holdExpiry _ => true
  | .offerWaitExpiry _ => true
  | .confirmWaitExpiry _ => true
  | .rebindInhibitExpiry _ => true
  | .restartTakesEffect => true
  | .writeDecided _ => true
  | .replyTimeout => true
  | .verifyRead _ => true
  | .statusRead _ => true
  | .identityRead _ => true
  | .adoptionRead _ => true
  | .startUpIdentityRead _ => true
  | .startUpWrite _ _ => true
  | .startUpAdoptionRead _ => true

end Sys2Proof
end

