-- ==== Sys2Proof/Certificates/Slice0/Obligations.lean ====
section
/-! DEFINITION. The statements about the part. `t = { s with f := t.f, … }` says that every field but those named is as it
was; the clauses beside it say what the named fields hold. -/

open Sys2Proof Sys2Proof.Machine

/-! ## The machine as a whole -/

/-- A step takes the command at the front of the queue and carries it out on the state with the rest of the queue; with
no command waiting the part idles. The queue is the model's own (notes/assumptions/1.md). -/
def Obligations.StepRunsTheFrontCommand : Prop :=
  (∀ (c : Instr) (rest : List Instr) (s : State),
    step { s with pending := c :: rest } = exec c { s with pending := rest }) ∧
  ∀ s : State, s.pending = [] → step s = .next s

/-- No command stops the part, in any state. That the queue of waiting commands is left alone, by POWER_ON and a restart
too, and that an event without its occasion answers the state as it is, are the model's choices (notes/assumptions/1.md,
notes/assumptions/2.md, notes/assumptions/22.md). -/
def Obligations.EveryCommandCompletes : Prop :=
  ∀ (c : Instr) (s : State), ∃ t, exec c s = .next t ∧ t.pending = s.pending

/-- State.reset holds the values of the chapters' state tables. That no carrier is reported, that the pass has not begun
its first transaction, and the mark `stepped` of a pair are the model's own (notes/assumptions/10.md,
notes/assumptions/11.md, notes/assumptions/4.md). -/
def Obligations.ResetHoldsThePowerOnValues : Prop :=
  State.reset.rate = .khz48 ∧ State.reset.align = 40 ∧ State.reset.restart = none ∧
  (∀ i, State.reset.own.get i = { owner := none, waiting := [], lock := false, padChoice := false }) ∧
  (∀ i, State.reset.moves.get i =
    { setting := { pad := false, p := 0 }, status := .uncertain, move := .idle, pending := none, failed := none }) ∧
  (∀ i, State.reset.phantoms.get i =
    { phantom := .off, seq := .idle, origin := none, target := none, outcome := none, reversal := none, held := none,
      settle := none }) ∧
  (∀ c, State.reset.bus.chips.get c = .probing) ∧ (∀ i, State.reset.bus.shadow.get i = 0#8) ∧
  (∀ i, State.reset.bus.clips.get i = 0) ∧ State.reset.bus.queue = [] ∧ State.reset.bus.flight = none ∧
  State.reset.bus.pollPos.val + 1 = 1 ∧ State.reset.bus.pass = .starting ∧
  (∀ k, State.reset.entries.get k = none ∧ State.reset.pairs.seats.get k = none) ∧
  (∀ i, State.reset.pairs.panel.get i =
    { level := none, mute := false, trim := 0, target := 0, trimState := .frozen, phase := 0, stepped := false,
      gate := 960, dir := .opened, sat := 0 }) ∧
  (∀ p, State.reset.streams.get p = { layout := none, map := [], frame := none }) ∧
  (∀ p, (State.reset.ports.get p).state = .down ∧ (State.reset.ports.get p).timer = none ∧
    (State.reset.ports.get p).carrier = false ∧
    (State.reset.ports.get p).nonce = none ∧ (State.reset.ports.get p).page = none ∧
    (State.reset.ports.get p).resolved = none ∧
    (∀ b, (State.reset.ports.get p).history.get b = decide (b = 0)) ∧
    (∀ b, (State.reset.ports.get p).flags.get b = false)) ∧
  (∀ n, State.reset.rx.get n =
    { queue := [], overrunPending := false, gapRef := none, framer := .hunt,
      counters := { gap := 0, marked := 0, length := 0, check := 0, overrun := 0, ignored := 0 } }) ∧
  (∀ n, State.reset.comm.tx.get n = { queue := [], breaking := false }) ∧
  (∀ p i, (State.reset.comm.stale.get p).get i = false) ∧ (∀ i, State.reset.comm.inputMarks.get i = false) ∧
  (∀ p, State.reset.comm.portMarks.get p = false) ∧ (∀ c, State.reset.comm.chipMarks.get c = false) ∧
  (∀ p, State.reset.comm.lastTold.get p = .down)

/-- POWER_ON: every block at its power-on values, and the writing start-up pass reads chip 1's identity. A restart that
takes effect: every block at its power-on values too; the adopting pass begins at once where the bus is idle, and otherwise
the transaction on the wire is left to finish with its result to be discarded. That the carriers on the lines, the time
base and the count of nonces drawn are kept, and that RESTART_TAKES_EFFECT changes nothing where no restart is pending, are
the model's choices (notes/assumptions/10.md, notes/assumptions/12.md, notes/assumptions/22.md). -/
def Obligations.PowerOnAndRestartBeginAPass : Prop :=
  ∀ s : State,
    let begun (b : Bus) : State :=
      { State.reset with
        pending := s.pending
        ports := s.ports.map fun q => { LinkPort.atPowerOn with carrier := q.carrier }
        bus := b
        clock := s.clock
        draws := s.draws }
    exec .powerOn s =
      .next (begun { State.reset.bus with flight := some { txn := .startIdentity 0, discard := false } }) ∧
    (∀ n, s.restart = some n → exec .restartTakesEffect s = .next (begun
      { State.reset.bus with
        adopting := true
        flight := match s.bus.flight with
          | none => some { txn := .startIdentity 0, discard := false }
          | some f => some { txn := f.txn, discard := true } })) ∧
    (s.restart = none → exec .restartTakesEffect s = .next s)

/-! ## The sample arithmetic -/

/-- R12: the gain multiplier is the real number 2^20 · 10^(T/200) rounded to the nearest integer, halves up; it increases
strictly with T and fits 24 bits; and the reference values. -/
def Obligations.GainMultiplierIsRounded : Prop :=
  (∀ t : Int, -400 ≤ t → t ≤ 240 →
    (gainMultiplier t : Int) = ⌊(2 : ℝ) ^ 20 * (10 : ℝ) ^ ((t : ℝ) / 200) + 1 / 2⌋ ∧ gainMultiplier t < 2 ^ 24) ∧
  (∀ t : Int, -400 ≤ t → t < 240 → gainMultiplier t < gainMultiplier (t + 1)) ∧
  gainMultiplier (-400) = 10486 ∧ gainMultiplier (-200) = 104858 ∧ gainMultiplier (-60) = 525533 ∧
  gainMultiplier 0 = 1048576 ∧ gainMultiplier 1 = 1060718 ∧ gainMultiplier 60 = 2092184 ∧
  gainMultiplier 200 = 10485760 ∧ gainMultiplier 240 = 16618810

/-- R15: the output sample is the exact product rounded to the nearest multiple, halves toward plus infinity, and clamped
to 24 bits; R15 clamps exactly when the rounded value lies outside; an open gate at trim 0 gives the multiplier 2^20, which
passes every sample, and a multiplier of 0 gives 0. -/
def Obligations.OutputSampleIsRoundedAndClamped : Prop :=
  (∀ (x : Int) (me : Nat),
    outputSample x me = max (-8388608) (min 8388607 ⌊((x * me + 2 ^ 19 : Int) : ℚ) / 2 ^ 20⌋) ∧
    (clips x me = true ↔
      ⌊((x * me + 2 ^ 19 : Int) : ℚ) / 2 ^ 20⌋ < -8388608 ∨ 8388607 < ⌊((x * me + 2 ^ 19 : Int) : ℚ) / 2 ^ 20⌋) ∧
    (-8388608 ≤ x → x ≤ 8388607 → outputSample x (2 ^ 20) = x) ∧ outputSample x 0 = 0) ∧
  ∀ (n : Nat) (q : Pair), 0 < n → q.trim = 0 → q.gate = n → gatedMultiplier n q = 2 ^ 20

/-- R121: the bytes of one slot in each format, first byte first, what the 32-bit words of the last three are, and that an
empty slot is all zero bytes. -/
def Obligations.SlotBytesByFormat : Prop :=
  ∀ y : Sample,
    slotBytes .p24 y = [y.extractLsb' 16 8, y.extractLsb' 8 8, y.extractLsb' 0 8] ∧
    slotBytes .w32m y = [y.extractLsb' 16 8, y.extractLsb' 8 8, y.extractLsb' 0 8, 0#8] ∧
    slotBytes .w32l y = [0#8, y.extractLsb' 0 8, y.extractLsb' 8 8, y.extractLsb' 16 8] ∧
    slotBytes .x32m y =
      [if y.getLsbD 23 then 0xFF#8 else 0x00#8, y.extractLsb' 16 8, y.extractLsb' 8 8, y.extractLsb' 0 8] ∧
    (∀ a b c d, slotBytes .w32m y = [a, b, c, d] → (a ++ b ++ c ++ d : BitVec 32).toInt = y.toInt * 256) ∧
    (∀ a b c d, slotBytes .w32l y = [a, b, c, d] → (d ++ c ++ b ++ a : BitVec 32).toInt = y.toInt * 256) ∧
    (∀ a b c d, slotBytes .x32m y = [a, b, c, d] → (a ++ b ++ c ++ d : BitVec 32).toInt = y.toInt) ∧
    ∀ f, ∀ b ∈ slotBytes f 0#24, b = 0#8

/-- R18: how a gate turns when its requirement becomes closed or open, `n` being the fade length and `q` holding its mute
already. -/
def Obligations.GateTurnsTowardItsRequirement : Prop :=
  ∀ (n : Nat) (seq : SeqState) (q : Pair),
    (Pair.turnGate n seq q).gate = q.gate ∧
    (requiredClosed seq q.mute = true →
      (q.dir = .opened ∨ q.dir = .opening →
        (Pair.turnGate n seq q).dir = if q.gate = 0 then .closed else .closing) ∧
      (q.dir = .closing ∨ q.dir = .closed → (Pair.turnGate n seq q).dir = q.dir)) ∧
    (requiredClosed seq q.mute = false →
      (q.dir = .closed ∨ q.dir = .closing →
        (Pair.turnGate n seq q).dir = if q.gate = n then .opened else .opening) ∧
      (q.dir = .opened ∨ q.dir = .opening → (Pair.turnGate n seq q).dir = q.dir)) ∧
    (requiredClosed seq q.mute = true ↔ q.mute = true ∨ seq = .fadeOut ∨ seq = .writing ∨ seq = .settling) ∧
    Pair.turnGate n seq q = { q with dir := (Pair.turnGate n seq q).dir }

/-! ## Time and the audio path -/

/-- SAMPLE_PERIOD on every input at which no move lands: each pair takes its ramp step and then its gate step, and a
consumer's pair that forms an output sample counts it where it is clamped; a landing count falls by one; a FADE_OUT all of
whose pairs the period leaves at g = 0 goes on to WRITING, and a FADE_IN all of whose pairs with mute off it leaves OPEN ends
in IDLE and hands a held gain target over; every other sequence and move is as it was. Where nothing lands, the phantom
commands of those fades and the gain commands of moves so issued join the queue, and the LIMIT events and then the outcomes
of the fades are all that is told of. LandingJumpsTheTrims says what a landing does inside the period. That a pair whose step
a RAMP_STEP has already made takes none, and has no mark of it after the period, is the model's choice
(notes/assumptions/4.md), as are the time base (notes/assumptions/5.md) and the order of events and commands of several
inputs (notes/assumptions/24.md); that the period itself ends the fades is deduced (notes/assumptions/3.md). -/
def Obligations.SamplePeriodAdvancesEveryPair : Prop :=
  ∀ (x : Tab 48 Sample) (s : State), ∃ t, exec (.samplePeriod x) s = .next t ∧
    t.clock = s.clock + s.rate.period ∧
    (∀ who i q, s.pair? who i = some q → (∀ a, (s.moves.get i).move ≠ .landing a 0) → ∃ q', t.pair? who i = some q' ∧
      q'.level = q.level ∧ q'.mute = q.mute ∧ q'.target = q.target ∧
      (q.trimState ≠ .ramping ∨ q.stepped = true →
        q'.trim = q.trim ∧ q'.trimState = q.trimState ∧ q'.phase = q.phase) ∧
      (q.trimState = .ramping → q.stepped = false → q.phase + 1 < s.rate.rampInterval →
        q'.trim = q.trim ∧ q'.trimState = .ramping ∧ q'.phase = q.phase + 1) ∧
      (q.trimState = .ramping → q.stepped = false → s.rate.rampInterval ≤ q.phase + 1 →
        q'.trim = (if q.trim < q.target then q.trim + 1 else if q.target < q.trim then q.trim - 1 else q.trim) ∧
          q'.phase = 0 ∧ q'.trimState = q'.stateNow (s.moves.get i).status (s.analog i)) ∧
      (q.dir = .opened ∨ q.dir = .closed → q'.gate = q.gate ∧ q'.dir = q.dir) ∧
      (q.dir = .closing →
        q'.gate = q.gate - 1 ∧ q'.dir = if q.gate - 1 = 0 then .closed else .closing) ∧
      (q.dir = .opening →
        q'.gate = q.gate + 1 ∧ q'.dir = if s.rate.fade ≤ q.gate + 1 then .opened else .opening) ∧
      q'.sat = (match who with
        | .panel => q.sat
        | .consumer k =>
          if s.takeMaps.carried k i ∧ clips (x.get i).toInt (gatedMultiplier s.rate.fade q') = true then
            min 65535 (q.sat + 1)
          else q.sat)) ∧
    (∀ who i q', t.pair? who i = some q' → q'.stepped = false) ∧
    (∀ i a n, (s.moves.get i).move = .landing a (n + 1) →
      t.moves.get i = { s.moves.get i with move := .landing a n }) ∧
    (∀ i a, (s.moves.get i).move = .landing a 0 → (t.moves.get i).setting = a) ∧
    (∀ i, (∀ a, (s.moves.get i).move ≠ .landing a 0) →
      let ph := s.phantoms.get i
      let m := s.moves.get i
      let faded := (ph.seq = .fadeOut ∧ ∀ who q', t.pair? who i = some q' → q'.gate = 0)
      let risen := (ph.seq = .fadeIn ∧ ∀ who q', t.pair? who i = some q' → q'.mute = false → q'.dir = .opened)
      (faded → t.phantoms.get i = { ph with seq := .writing, settle := none }) ∧
      (risen → t.phantoms.get i =
        { ph with seq := .idle, origin := none, target := none, reversal := none, outcome := none }) ∧
      (¬faded → ¬risen → t.phantoms.get i = ph) ∧
      (∀ b, risen → m.move = .idle → m.pending = some b →
        t.moves.get i = (State.handTarget i b { s with phantoms := t.phantoms }).moves.get i) ∧
      ((∀ a n, m.move ≠ .landing a n) → (risen → m.move ≠ .idle ∨ m.pending = none) → t.moves.get i = m)) ∧
    ((∀ i a, (s.moves.get i).move ≠ .landing a 0) →
      t.bus = { s.bus with
        queue := s.bus.queue ++ allInputs.flatMap fun i =>
          match (s.phantoms.get i).seq, (t.phantoms.get i).seq with
          | .fadeOut, .writing => (match (s.phantoms.get i).target with
            | some on => [QueueEntry.write (.phantom i on)]
            | none => [])
          | .fadeIn, .idle => (match (s.moves.get i).move, (t.moves.get i).move with
            | .idle, .queued a => [.write (.gain i a.pad a.p)]
            | _, _ => [])
          | _, _ => [] } ∧
      t.comm = s.comm.tells ((allInputs.flatMap fun i => s.limitsTold t i) ++ allInputs.flatMap fun i =>
        match (s.phantoms.get i).seq, (t.phantoms.get i).seq, (s.phantoms.get i).outcome with
        | .fadeIn, .idle, some o => [(s.partyLanes, .phantomState i (s.phantoms.get i).phantom .idle (.ended o))]
        | _, _, _ => [])) ∧
    t = { s with clock := t.clock, moves := t.moves, comm := t.comm, phantoms := t.phantoms, pairs := t.pairs,
                 bus := t.bus, streams := t.streams }

/-- SAMPLE_PERIOD on the streams: a port with a layout forms one frame of exactly slot-count slots in its format, slot by
slot the output samples of its consumer's pairs for the inputs of its stored map, with the trims and gates that the period
has left, and 0 beyond the map; a port without a layout forms none. -/
def Obligations.SamplePeriodFormsFrames : Prop :=
  ∀ (x : Tab 48 Sample) (s : State), ∃ t, exec (.samplePeriod x) s = .next t ∧ ∀ p,
    ((s.streams.get p).layout = none → t.streams.get p = s.streams.get p) ∧
    ∀ ly k c pairs, (s.streams.get p).layout = some ly → seatOf s.entries p = some k → s.entries.get k = some c →
      t.pairs.seats.get k = some pairs →
      t.streams.get p =
        { layout := some ly
          map := c.map.take ly.slots
          frame := some ((List.range ly.slots).flatMap fun j => slotBytes ly.format
            (match (c.map.take ly.slots)[j]? with
             | some i => BitVec.ofInt 24
                (outputSample (x.get i).toInt (gainMultiplier (pairs.get i).trim * (pairs.get i).gate / s.rate.fade))
             | none => 0#24)) }

/-- RAMP_STEP: the trim of a RAMPING pair whose next sample period brings its phase to the ramp interval steps by one dd
toward its target, the phase returns to 0 and the state is set by R6, with its LIMIT event; no other pair changes. While a
landing is due at the boundary at which that period begins, which comes before any of its ramp steps (R68), and for a pair
whose step that period does not bring, the command changes nothing. This, the mark that keeps the period from stepping a pair
again, and that the step has a command of its own are the model's (notes/assumptions/2.md, notes/assumptions/4.md). -/
def Obligations.RampStepMovesTheTrim : Prop :=
  (∀ (who : Party) (i : Input) (s : State),
    ((∃ j a, (s.moves.get j).move = .landing a 0) ∨ s.pair? who i = none ∨
      (∃ q, s.pair? who i = some q ∧
        (q.trimState ≠ .ramping ∨ q.stepped = true ∨ q.phase + 1 < s.rate.rampInterval))) →
    exec (.rampStep who i) s = .next s) ∧
  ∀ (who : Party) (i : Input) (s : State) (q : Pair), (∀ j a, (s.moves.get j).move ≠ .landing a 0) →
    s.pair? who i = some q → q.trimState = .ramping → q.stepped = false → s.rate.rampInterval ≤ q.phase + 1 →
    ∃ t q', exec (.rampStep who i) s = .next t ∧ t.pair? who i = some q' ∧
      q' = { q with
        trim := if q.trim < q.target then q.trim + 1 else if q.target < q.trim then q.trim - 1 else q.trim
        phase := 0
        stepped := true
        trimState := q'.trimState } ∧
      q'.trimState = q'.stateNow (s.moves.get i).status (s.analog i) ∧
      (∀ who' i', (who', i') ≠ (who, i) → t.pair? who' i' = s.pair? who' i') ∧
      t.comm = s.comm.tells (limitTold (s.lanesOf who) i (s.analog i) q q') ∧
      t = { s with pairs := t.pairs, comm := t.comm }

/-- LANDING of a move whose count stands at 0: the setting takes the in-flight target; the trim of every pair that holds a
level jumps by -ΔA within its range and is retargeted; a pair without a level keeps its trim; no gate turns but where a
held phantom request's sequence starts, which turns every gate of the input; and a pending target is handed over, with the
gain command of a move so issued (TargetsAreDealtWithInOrder). The LIMIT events, the MOVED event and the STARTED event of a
held request are told of in this order (the order of events that no rule orders is the model's, notes/assumptions/14.md,
notes/assumptions/24.md). SAMPLE_PERIOD makes the landings that are due at its boundary just so, input by input: it leaves
what it would leave if the LANDING of the first input that is due, in the model's order, had come right before it
(notes/assumptions/3.md, notes/assumptions/24.md). -/
def Obligations.LandingJumpsTheTrims : Prop :=
  (∀ (x : Tab 48 Sample) (i : Input) (a : Setting) (s u : State), (s.moves.get i).move = .landing a 0 →
    (∀ j < i, ∀ b, (s.moves.get j).move ≠ .landing b 0) → exec (.landing i) s = .next u →
    exec (.samplePeriod x) s = exec (.samplePeriod x) u) ∧
  ∀ (i : Input) (a : Setting) (s : State), (s.moves.get i).move = .landing a 0 →
    ∃ t, exec (.landing i) s = .next t ∧
      let idle : MoveCtl := { s.moves.get i with setting := a, move := .idle }
      (∀ who q, s.pair? who i = some q → ∃ q', t.pair? who i = some q' ∧ q'.level = q.level ∧ q'.mute = q.mute ∧
        q'.gate = q.gate ∧ q'.sat = q.sat ∧
        q'.dir = (if (s.phantoms.get i).held = none then q.dir else (Pair.turnGate s.rate.fade .fadeOut q).dir) ∧
        (q.level = none →
          q'.trim = q.trim ∧ q'.target = q.target ∧ q'.trimState = q.trimState ∧ q'.phase = q.phase) ∧
        (∀ l, q.level = some l →
          q'.trim = max (-400) (min 240 (q.trim - (a.value - s.analog i))) ∧
          q'.target = max (-400) (min 240 (l - a.value)) ∧
          q'.trimState = q'.stateNow (s.moves.get i).status a.value ∧
          q'.phase = if q'.trimState = .ramping ∧ q.trimState ≠ .ramping then 0 else q.phase)) ∧
      (∀ who j, j ≠ i → t.pair? who j = s.pair? who j) ∧
      ((s.moves.get i).pending = none → t.moves = s.moves.set i idle ∧ t.bus = s.bus) ∧
      (∀ b, (s.moves.get i).pending = some b →
        let u := State.handTarget i b { s with moves := s.moves.set i idle, phantoms := t.phantoms }
        t.moves = u.moves ∧ t.bus = u.bus) ∧
      ((s.phantoms.get i).held = none → t.phantoms = s.phantoms) ∧
      (∀ on, (s.phantoms.get i).held = some on → t.phantoms = s.phantoms.set i
        { s.phantoms.get i with held := none, origin := some (s.phantoms.get i).phantom, target := some on,
                                outcome := none, seq := .fadeOut }) ∧
      t.comm = s.comm.tells (s.limitsTold t i ++ [(s.partyLanes, .moved i .landed a)] ++
        (if (s.phantoms.get i).held = none then [] else [s.startTold i])) ∧
      t = { s with moves := t.moves, comm := t.comm, phantoms := t.phantoms, pairs := t.pairs, bus := t.bus }

/-- FADE_OUT_END, where every pair of the input stands at 0: the input enters WRITING, and a phantom command for the
sequence target joins the end of the queue. SETTLE_EXPIRY in SETTLING: back to WRITING with the reversal as the target, or
on to FADE_IN, where every gate turns toward its requirement. That the command may end FADE_OUT before the first sample
period after the entry is the model's choice (notes/assumptions/27.md). -/
def Obligations.PhantomStepsFollowOneAnother : Prop :=
  (∀ (i : Input) (on : Bool) (s : State), (s.phantoms.get i).seq = .fadeOut → (s.phantoms.get i).target = some on →
    (∀ who q, s.pair? who i = some q → q.gate = 0) →
    exec (.fadeOutEnd i) s = .next
      { s with phantoms := s.phantoms.set i { s.phantoms.get i with seq := .writing, settle := none }
               bus := { s.bus with queue := s.bus.queue ++ [.write (.phantom i on)] } }) ∧
  (∀ (i : Input) (on : Bool) (s : State), (s.phantoms.get i).seq = .settling →
    (s.phantoms.get i).reversal = some on →
    exec (.settleExpiry i) s = .next
      { s with phantoms := s.phantoms.set i
                 { s.phantoms.get i with seq := .writing, settle := none, target := some on, reversal := none }
               bus := { s.bus with queue := s.bus.queue ++ [.write (.phantom i on)] } }) ∧
  (∀ (i : Input) (s : State), (s.phantoms.get i).seq = .settling → (s.phantoms.get i).reversal = none →
    exec (.settleExpiry i) s = .next
      { s with phantoms := s.phantoms.set i { s.phantoms.get i with seq := .fadeIn, settle := none }
               pairs := s.pairs.mapInput i (Pair.turnGate s.rate.fade .fadeIn) })

/-- FADE_IN_END, where every pair of the input whose mute is off is OPEN: the input enters IDLE with its origin, target,
reversal and outcome cleared, the outcome is told of, and a held gain target is handed over, with the gain command of a move
so issued (TargetsAreDealtWithInOrder). That a sequence without an outcome tells of nothing, and that the command may end
FADE_IN before the first sample period after the entry, are the model's choices (notes/assumptions/15.md,
notes/assumptions/27.md). -/
def Obligations.FadeInEndsTheSequence : Prop :=
  ∀ (i : Input) (s : State), (s.phantoms.get i).seq = .fadeIn →
    (∀ who q, s.pair? who i = some q → q.mute = false → q.dir = .opened) →
    ∃ t, exec (.fadeInEnd i) s = .next t ∧
      t.phantoms = s.phantoms.set i
        { s.phantoms.get i with seq := .idle, origin := none, target := none, reversal := none, outcome := none } ∧
      (((s.moves.get i).pending = none ∨ (s.moves.get i).move.busy = true) → t.moves = s.moves ∧ t.bus = s.bus) ∧
      (∀ b, (s.moves.get i).move = .idle → (s.moves.get i).pending = some b →
        let u := State.handTarget i b { s with phantoms := t.phantoms }
        t.moves = u.moves ∧ t.bus = u.bus) ∧
      t.comm = s.comm.tells (match (s.phantoms.get i).outcome with
        | some o => [(s.partyLanes, .phantomState i (s.phantoms.get i).phantom .idle (.ended o))]
        | none => []) ∧
      t = { s with phantoms := t.phantoms, comm := t.comm, moves := t.moves, bus := t.bus }

/-- What handing a target over does: R61's four cases on an IDLE input, R62 on a moving one, and the gain command of R64
exactly where a move is issued. -/
def Obligations.TargetsAreDealtWithInOrder : Prop :=
  ∀ (i : Input) (a : Setting) (s : State),
    (∀ f, (s.moves.get i).move.inFlight = some f → s.handTarget i a =
      { s with moves := s.moves.set i { s.moves.get i with pending := if a = f then none else some a } }) ∧
    ((s.moves.get i).move = .idle →
      (a = (s.moves.get i).setting → s.handTarget i a =
        { s with moves := s.moves.set i { s.moves.get i with pending := none, failed := none } }) ∧
      (a ≠ (s.moves.get i).setting → (s.moves.get i).failed = some a → s.handTarget i a =
        { s with moves := s.moves.set i { s.moves.get i with pending := none } }) ∧
      (a ≠ (s.moves.get i).setting → (s.moves.get i).failed ≠ some a →
        ((s.moves.get i).status = .uncertain ∨ (s.phantoms.get i).seq ≠ .idle) → s.handTarget i a =
        { s with moves := s.moves.set i { s.moves.get i with pending := some a, failed := none } }) ∧
      (a ≠ (s.moves.get i).setting → (s.moves.get i).failed ≠ some a →
        (s.moves.get i).status = .known → (s.phantoms.get i).seq = .idle → s.handTarget i a =
        { s with
          moves := s.moves.set i { s.moves.get i with move := .queued a, pending := none, failed := none }
          bus := { s.bus with queue := s.bus.queue ++ [.write (.gain i a.pad a.p)] } }))

/-- The notices: the bytes of each, the lanes each event goes to, and what offering one to a lane does. Nothing is added
where its subject is marked there; it is queued where at least 96 of the 512 bytes remain free after it, and a LINK queued
on lane P sets the port's last-told state; otherwise its subject is marked and nothing is queued. MOVED, OWNER and
PHANTOM_STATE go to `partyLanes`, LIMIT to `lanesOf` the pair's party, CLIP to `clipLanes`, LINK and CHIP to lane P: the
statements about the commands that raise them say so. That a CLIP is decided port by port is the model's choice
(notes/assumptions/25.md). -/
def Obligations.NoticesAreComposedRoutedAndOffered : Prop :=
  (∀ (i : Input) (p : Port) (c : Chip) (a : Setting) (now before : BitVec 32) (n : Nat) (limited : Bool) (d : Int)
      (ph : PhantomState) (seq : SeqState) (block : List Byte) (st st' : PortState) (flags : Tab 12 Bool)
      (chip : ChipState) (mo : MovedOutcome) (po : PhantomOutcome),
    let input : Byte := BitVec.ofNat 8 (i.val + 1)
    let two (x : BitVec 16) : List Byte := [x.extractLsb' 8 8, x.extractLsb' 0 8]
    let four (x : BitVec 32) : List Byte :=
      [x.extractLsb' 24 8, x.extractLsb' 16 8, x.extractLsb' 8 8, x.extractLsb' 0 8]
    let b (x : Bool) : Byte := if x then 1#8 else 0#8
    (Notice.moved i mo a).body = [0x50#8, 0#8, input, match mo with
        | .landed => 0#8
        | .failed => 1#8
        | .adopted => 2#8] ++ two (BitVec.ofInt 16 (10 * a.p + if a.pad then -200 else 0)) ++
      [b a.pad, BitVec.ofNat 8 a.p] ∧
    (Notice.owner i now before n).body = [0x51#8, 0#8, input] ++ four now ++ four before ++ [BitVec.ofNat 8 n] ∧
    (Notice.limit i limited d).body = [0x52#8, 0#8, input, b limited] ++ two (BitVec.ofInt 16 d) ∧
    (Notice.phantomState i ph seq po).body = [0x53#8, 0#8, input,
      match ph with
        | .off => 0#8
        | .on => 1#8
        | .faulted => 2#8,
      match seq with
        | .idle => 0#8
        | .fadeOut => 1#8
        | .writing => 2#8
        | .settling => 3#8
        | .fadeIn => 4#8,
      match po with
        | .started => 0#8
        | .ended .switched => 1#8
        | .ended .failed => 2#8
        | .ended .cancelled => 3#8
        | .fault => 4#8] ∧
    (Notice.clip i n).body = [0x54#8, 0#8, input] ++ two (BitVec.ofNat 16 n) ∧
    (Notice.state i block).body = [0x55#8, 0#8, input] ++ block ∧
    (Notice.link p st st' flags).body = [0x56#8, 0#8, BitVec.ofNat 8 (p.val + 1), st.code, st'.code] ++
      two (BitVec.ofNat 16 (((List.finRange 12).map fun k => if flags.get k then 2 ^ k.val else 0).sum)) ∧
    (Notice.chip c chip).body = [0x57#8, 0#8, BitVec.ofNat 8 (c.val + 1), match chip with
      | .probing => 0#8
      | .ok => 1#8
      | .faulted => 2#8] ∧
    [PortState.down, .hold, .offer, .confirm, .bound, .fault].map PortState.code = [0#8, 1#8, 2#8, 3#8, 4#8, 5#8]) ∧
  (∀ (s : State) (i : Input) (l : LaneId),
    (l ∈ s.partyLanes ↔ l = .panel ∨ ∃ p k c, l = .split p ∧ s.entries.get k = some c ∧ p ∈ c.ports) ∧
    (l ∈ s.clipLanes i ↔ l = .panel ∨
      ∃ p k c, l = .split p ∧ s.entries.get k = some c ∧ p ∈ c.ports ∧ i ∈ (s.streams.get p).map) ∧
    s.partyLanes.Nodup ∧ (s.clipLanes i).Nodup ∧ s.lanesOf .panel = [.panel] ∧
    (∀ k c, s.entries.get k = some c → s.lanesOf (.consumer k) = c.ports.map LaneId.split)) ∧
  ∀ (l : LaneId) (n : Notice) (c : Comm),
    (c.marked l n.subject = true → c.offer l n = c) ∧
    (c.marked l n.subject = false →
      ((c.tx.get l.idx).queue.length + (n.body.length + 4) + 96 ≤ 512 →
        (c.offer l n).tx = c.tx.set l.idx
            { c.tx.get l.idx with queue := (c.tx.get l.idx).queue ++ frameOf n.body } ∧
          (∀ sub l', (c.offer l n).marked l' sub = c.marked l' sub) ∧
          (∀ p st st' flags, l = .panel → n = .link p st st' flags → (c.offer l n).lastTold = c.lastTold.set p st) ∧
          ((l ≠ .panel ∨ ∀ p st st' flags, n ≠ .link p st st' flags) → (c.offer l n).lastTold = c.lastTold)) ∧
      (512 < (c.tx.get l.idx).queue.length + (n.body.length + 4) + 96 →
        (c.offer l n).tx = c.tx ∧ (c.offer l n).lastTold = c.lastTold ∧
          ∀ sub l', (c.offer l n).marked l' sub =
            (c.marked l' sub || (decide (l' = l ∧ sub = n.subject) &&
              (match l, sub with
               | .panel, _ => true
               | .split _, .input _ => true
               | .split _, .port _ => false
               | .split _, .chip _ => false)))))

/-! ## Timers, carriers and breaks -/

/-- KEEP_EXPIRY of a KEEPING consumer: each input it owns goes to its oldest waiter or to none, or, where it is locked, to
the panel, whose pair takes the consumer's level and its trim target; the new owner's level is pursued and the change is told
of, and the gain commands so issued join the end of the queue input by input. The consumer's pairs are deleted and its entry
is freed; nothing else of the table changes. The premise on the arbiter's state is one that every step keeps. -/
def Obligations.KeepExpiryErasesTheConsumer : Prop :=
  ∀ (k : Seat) (c : Consumer) (s : State), s.entries.get k = some c → c.presence.isKeeping = true →
    (∀ i, (s.own.get i).ok) →
    ∃ t, exec (.keepExpiry k) s = .next t ∧
      let owned (i : Input) : Prop := (s.own.get i).owner = some (.consumer k)
      t.entries = s.entries.set k none ∧ t.pairs.seats = s.pairs.seats.set k none ∧
      (∀ i, ¬owned i →
        t.own.get i = s.own.get i ∧ t.moves.get i = s.moves.get i ∧ t.pairs.panel.get i = s.pairs.panel.get i) ∧
      (∀ i, owned i → (s.own.get i).lock = false →
        t.own.get i = { s.own.get i with owner := (s.own.get i).waiting.head?, waiting := (s.own.get i).waiting.tail } ∧
          t.pairs.panel.get i = s.pairs.panel.get i ∧
          t.moves.get i =
            (s.pursue i (s.levelOfOwner (s.own.get i).waiting.head? i) (s.own.get i).padChoice).1.get i) ∧
      (∀ i, owned i → (s.own.get i).lock = true →
        let level := s.levelOf (.consumer k) i
        let q := s.pairs.panel.get i
        let q' := t.pairs.panel.get i
        t.own.get i = { s.own.get i with owner := some .panel
                                         waiting := (s.own.get i).waiting.filter (· != .panel) } ∧
          t.moves.get i = (s.pursue i level (s.own.get i).padChoice).1.get i ∧
          q' = { q with level := level, target := q'.target, trimState := q'.trimState, phase := q'.phase,
                        stepped := q'.stepped } ∧
          ((s.moves.get i).status = .known →
            q'.target = (match level with
              | none => 0
              | some x => max (-400) (min 240 (x - s.analog i))) ∧
            q'.trimState = q'.stateNow .known (s.analog i) ∧
            q'.phase = if q'.trimState = .ramping ∧ q.trimState ≠ .ramping then 0 else q.phase) ∧
          ((s.moves.get i).status = .uncertain →
            q'.target = q.target ∧ q'.trimState = .frozen ∧ q'.phase = q.phase)) ∧
      t.bus = { s.bus with
        queue := s.bus.queue ++ allInputs.filterMap fun i => match (s.moves.get i).move, (t.moves.get i).move with
          | .idle, .queued a => some (.write (.gain i a.pad a.p))
          | _, _ => none } ∧
      t.comm = s.comm.tells (allInputs.flatMap fun i =>
        if (s.own.get i).owner = some (.consumer k) then
          (if (s.own.get i).lock then
            limitTold [.panel] i (s.analog i) (s.pairs.panel.get i) (t.pairs.panel.get i) else []) ++
          [s.ownerTold i (t.own.get i).owner (s.own.get i).owner (t.own.get i).waiting.length]
        else []) ∧
      t = { s with entries := t.entries, pairs := t.pairs, own := t.own, moves := t.moves, bus := t.bus, comm := t.comm }

/-- CARRIER_ARRIVAL: a DOWN port enters OFFER once the part is READY; in any other case only the carrier is noted.
CARRIER_LOSS: any port but a DOWN one latches CARRIER_LOST and enters DOWN, leaving BOUND if it was. That the carrier itself
is noted where R131 has nothing else change is the model's choice (notes/assumptions/23.md, notes/assumptions/2.md). The
stamp of a keep timer that starts is the model's (notes/assumptions/6.md). -/
def Obligations.CarrierTakesAPortUpAndDown : Prop :=
  (∀ (p : Port) (s : State), (s.ports.get p).state = .down → s.bus.pass = .ready →
    ∃ t, exec (.carrierArrival p) s = .next t ∧ s.enteredOffer p { s.ports.get p with carrier := true } t) ∧
  (∀ (p : Port) (s : State), ((s.ports.get p).state ≠ .down ∨ s.bus.pass = .starting) →
    exec (.carrierArrival p) s = .next { s with ports := s.ports.set p { s.ports.get p with carrier := true } }) ∧
  (∀ (p : Port) (s : State), (s.ports.get p).state ≠ .down →
    ∃ t, exec (.carrierLoss p) s = .next t ∧
      s.enteredDown p { s.ports.get p with carrier := false, flags := (s.ports.get p).flags.set 8 true }
        (oneFlag .carrierLost) t) ∧
  (∀ (p : Port) (s : State), (s.ports.get p).state = .down →
    exec (.carrierLoss p) s = .next { s with ports := s.ports.set p { s.ports.get p with carrier := false } })

/-- HOLD_EXPIRY while the hold timer runs: OFFER with a fresh nonce where carrier is present, DOWN otherwise.
BREAK_DRIVE_END: the lane drives its break no longer. The stamp of a keep timer that starts is the model's
(notes/assumptions/6.md). -/
def Obligations.HoldEndsInOfferOrDown : Prop :=
  (∀ (p : Port) (since : Nat) (s : State), (s.ports.get p).timer = some (.hold, since) →
    ((s.ports.get p).carrier = true → ∃ t, exec (.holdExpiry p) s = .next t ∧ s.enteredOffer p (s.ports.get p) t) ∧
    ((s.ports.get p).carrier = false → ∃ t, exec (.holdExpiry p) s = .next t ∧
      s.enteredDown p (s.ports.get p) noFlags t)) ∧
  ∀ (p : Port) (s : State), exec (.breakDriveEnd p) s = .next
    { s with comm := { s.comm with tx := s.comm.tx.set p.succ { s.comm.tx.get p.succ with breaking := false } } }

/-- The expiries of the offer wait, of the confirm wait and of the rebind inhibit, each while its timer runs: the flag of a
wait is latched, and the port enters HOLD. The stamp of a keep timer that starts is the model's (notes/assumptions/6.md). -/
def Obligations.WaitsEndInHold : Prop :=
  (∀ (p : Port) (since : Nat) (s : State), (s.ports.get p).timer = some (.offerWait, since) →
    ∃ t, exec (.offerWaitExpiry p) s = .next t ∧
      s.enteredHold p { s.ports.get p with flags := (s.ports.get p).flags.set 10 true } (oneFlag .offerTimeout) t) ∧
  (∀ (p : Port) (since : Nat) (s : State), (s.ports.get p).timer = some (.confirmWait, since) →
    ∃ t, exec (.confirmWaitExpiry p) s = .next t ∧
      s.enteredHold p { s.ports.get p with flags := (s.ports.get p).flags.set 11 true } (oneFlag .confirmTimeout) t) ∧
  (∀ (p : Port) (since : Nat) (s : State), (s.ports.get p).timer = some (.rebindInhibit, since) →
    ∃ t, exec (.rebindInhibitExpiry p) s = .next t ∧ s.enteredHold p (s.ports.get p) noFlags t)

/-- BREAK_RECEIVED: on lane P it changes nothing; on a split lane it flushes the lane, and then latches BREAK_SEEN and sends
the port to HOLD from OFFER, CONFIRM, BOUND or FAULT, only latches in HOLD, and does no more in DOWN. The stamp of a keep
timer that starts is the model's (notes/assumptions/6.md). -/
def Obligations.BreakFlushesAndHolds : Prop :=
  (∀ s : State, exec (.breakReceived .panel) s = .next s) ∧
  ∀ (p : Port) (s : State),
    ((s.ports.get p).state ≠ .down → (s.ports.get p).state ≠ .hold →
      ∃ t, exec (.breakReceived (.split p)) s = .next t ∧
        s.enteredHold p { s.ports.get p with flags := (s.ports.get p).flags.set 9 true } (oneFlag .breakSeen) t) ∧
    ((s.ports.get p).state = .down ∨ (s.ports.get p).state = .hold →
      exec (.breakReceived (.split p)) s = .next
        { s with
          rx := s.rx.modify p.succ
            fun r => { r with queue := [], overrunPending := false, gapRef := none, framer := .hunt }
          comm := { s.comm with tx := s.comm.tx.set p.succ { s.comm.tx.get p.succ with queue := [] } }
          ports := if (s.ports.get p).state = .hold then
              s.ports.set p { s.ports.get p with flags := (s.ports.get p).flags.set 9 true }
            else s.ports })

/-! ## Characters and records -/

/-- CHARACTER_RECEIVED on a lane that hears it, for a character that is no break: its marks; a place in the queue, or loss
to overrun, while the framer is HELD and may not take its record; and what HUNT makes of it. A split lane without carrier
hears nothing, and a DOWN port's lane stores nothing while the pass that follows a RESTART is under way (R174, as
notes/assumptions/26.md reads it). Inside a record the framer reads the character as FramerKeepsOrDrops says, and a character
that completes a record makes it arrive (RecordsWaitForRoom and the statements about records say what follows). The start
moment is counted in the model's time base (notes/assumptions/9.md). -/
def Obligations.CharactersGetTheirMarks : Prop :=
  (∀ (p : Port) (v : Byte) (parity stop : Bool) (at_ : Nat) (s : State),
    ((s.ports.get p).carrier = false ∨
      ((s.ports.get p).state = .down ∧ s.bus.pass = .starting ∧ s.bus.adopting = true)) →
    exec (.characterReceived (.split p) v parity stop at_) s = .next s) ∧
  (∀ (l : LaneId) (s : State), s.hears l = true ↔ ∀ p, l = .split p → (s.ports.get p).carrier = true ∧
    ¬((s.ports.get p).state = .down ∧ s.bus.pass = .starting ∧ s.bus.adopting = true)) ∧
  (∀ (l : LaneId) (at_ : Nat) (s : State), s.hears l = true →
    exec (.characterReceived l 0#8 false false at_) s = exec (.breakReceived l) s) ∧
  ∀ (l : LaneId) (v : Byte) (parity stop : Bool) (at_ : Nat) (s : State), s.hears l = true →
    (v, parity, stop) ≠ (0#8, false, false) →
    let r := s.rx.get l.idx
    let gap := match r.gapRef with
      | none => true
      | some e => decide (e + 44 * 12 < at_)
    let odd := decide (((List.range 8).countP (fun b => v.getLsbD b) + (if parity then 1 else 0)) % 2 = 1)
    let c : RxChar := { value := v, framing := !stop, parity := odd, overrun := r.overrunPending, gap := gap }
    (r.framer.isFree = false → s.canTake l = false → r.queue.length < 512 →
      exec (.characterReceived l v parity stop at_) s = .next
        { s with
          rx := s.rx.set l.idx
            { r with queue := r.queue ++ [c], overrunPending := false, gapRef := some (at_ + 11 * 12) } }) ∧
    (r.framer.isFree = false → s.canTake l = false → 512 ≤ r.queue.length →
      exec (.characterReceived l v parity stop at_) s = .next
        { s with
          rx := s.rx.set l.idx
            { r with
              overrunPending := true
              gapRef := some (at_ + 11 * 12)
              counters := { r.counters with overrun := min 65535 (r.counters.overrun + 1) } } }) ∧
    (r.framer = .hunt → r.queue = [] →
      exec (.characterReceived l v parity stop at_) s = .next
        { s with
          rx := s.rx.set l.idx
            { r with
              overrunPending := false
              gapRef := some (at_ + 11 * 12)
              framer := if v = 0xB7#8 ∧ stop = true ∧ odd = false then .length else .hunt } }) ∧
    (r.framer ≠ .hunt → r.framer.isFree = true → r.queue = [] →
      let read := RxSide.readChar c { r with overrunPending := false, gapRef := some (at_ + 11 * 12) }
      (read.framer.isFree = true →
        exec (.characterReceived l v parity stop at_) s = .next { s with rx := s.rx.set l.idx read }) ∧
      ∀ kind tag fields, read.framer = .held (kind :: tag :: fields) →
        exec (.characterReceived l v parity stop at_) s = .next
          (State.deliver l kind tag fields { s with rx := s.rx.set l.idx { read with framer := .hunt } }))

/-- The framer on a character inside a record, case by case of R155 and then of R154: a gap mark drops the record and the
character is dealt with as in HUNT; another mark drops the record and the character; a length outside 2 to 200 drops it;
a body byte is kept; and the second check byte holds the record or drops it. -/
def Obligations.FramerKeepsOrDrops : Prop :=
  ∀ (c : RxChar) (r : RxSide), r.framer ≠ .hunt → r.framer.isFree = true →
    (c.gap = true → RxSide.readChar c r =
      { r with
        framer := if c.value = 0xB7#8 ∧ c.framing = false ∧ c.parity = false then .length else .hunt
        counters := { r.counters with gap := min 65535 (r.counters.gap + 1) } }) ∧
    (c.gap = false → (c.framing || c.parity || c.overrun) = true → RxSide.readChar c r =
      { r with framer := .hunt, counters := { r.counters with marked := min 65535 (r.counters.marked + 1) } }) ∧
    (c.gap = false → (c.framing || c.parity || c.overrun) = false →
      (r.framer = .length → RxSide.readChar c r =
        if 2 ≤ c.value.toNat ∧ c.value.toNat ≤ 200 then
          { r with framer := .body c.value.toNat [] (crcByte 0xFFFF#16 c.value) }
        else { r with framer := .hunt, counters := { r.counters with length := min 65535 (r.counters.length + 1) } }) ∧
      (∀ n got crc, r.framer = .body n got crc → got.length + 1 < n → RxSide.readChar c r =
        { r with framer := .body n (got ++ [c.value]) (crcByte crc c.value) }) ∧
      (∀ got crc, r.framer = .body (got.length + 1) got crc → RxSide.readChar c r =
        { r with framer := .check (got ++ [c.value]) none (crcByte crc c.value) }) ∧
      (∀ body crc, r.framer = .check body none crc → RxSide.readChar c r =
        { r with framer := .check body (some c.value) (crcByte crc c.value) }) ∧
      (∀ body b crc, r.framer = .check body (some b) crc → RxSide.readChar c r =
        if crcByte crc c.value = 0#16 then { r with framer := .held body }
        else { r with framer := .hunt, counters := { r.counters with check := min 65535 (r.counters.check + 1) } }))

/-- A frame is the marker 0xB7, the number of body bytes, the body, and the check over the last two, high byte first: the CRC
of generator x^16 + x^12 + x^5 + 1 from 0xFFFF, with each byte fed most significant bit first, without reflection or final
inversion. The receipt of a whole frame, character by character and without a pause, on a lane in HUNT is the arrival of its
record: what the record commands of the table stand for (the model's choice of notes/assumptions/8.md). `a` is the moment
the first start bit began. -/
def Obligations.CharactersOfAFrameDeliverItsRecord : Prop :=
  (let feed (c : BitVec 16) (bit : Bool) : BitVec 16 := (c <<< 1) ^^^ (if c.msb != bit then 0x1021#16 else 0#16)
   let crc (start : BitVec 16) (bytes : List Byte) : BitVec 16 :=
     (bytes.flatMap fun b => [7, 6, 5, 4, 3, 2, 1, 0].map fun k => b.getLsbD k).foldl feed start
   (∀ (c : BitVec 16) (b : Byte), crcByte c b = crc c [b]) ∧
   ∀ body : List Byte,
     let check := crc 0xFFFF#16 (BitVec.ofNat 8 body.length :: body)
     frameOf body = [0xB7#8, BitVec.ofNat 8 body.length] ++ body ++
       [check.extractLsb' 8 8, check.extractLsb' 0 8]) ∧
  ∀ (l : LaneId) (kind tag : Byte) (fields : List Byte) (a : Nat) (s : State), fields.length ≤ 198 →
    s.hears l = true → s.takesAtOnce l → (s.rx.get l.idx).framer = .hunt → (s.rx.get l.idx).overrunPending = false →
    ((frameOf (kind :: tag :: fields)).zipIdx.foldl
      (fun o (c : Byte × Nat) => match o with
        | .next u => exec (.characterReceived l c.1 (decide (onesOf c.1 % 2 = 1)) true (a + 132 * c.2)) u
        | .fault f => .fault f
        | .refused f => .refused f)
      (Host.Outcome.next s : Result)) =
    .next (State.deliver l kind tag fields
      (s.modRx l fun r => { r with gapRef := some (a + 132 * (fields.length + 6)) }))

/-- Any record waits for room, a bring-up record and one of unknown kind as well as a request: while fewer than 96 bytes of
its lane's transmit queue are free, or a restart is pending on lane P, the framer holds it, and further records wait in the
receive queue. Where there is room it is taken, and the framer reads on (`State.ReadsOn`). When a byte leaves, what the framer
holds is dealt with as a record that arrives at that moment, whatever waits behind it. How whole records wait as characters is
the model's choice (notes/assumptions/8.md). The premise leaves out a lane that stores nothing after a RESTART
(notes/assumptions/26.md), of which UnknownKindsAreAnsweredOrIgnored speaks. -/
def Obligations.RecordsWaitForRoom : Prop :=
  ∀ (c : Instr) (l : LaneId) (kind tag : Byte) (fields : List Byte) (s : State), bringsRecord c l kind tag fields →
    s.deaf l = false →
    let r := s.rx.get l.idx
    let record := kind :: tag :: fields
    let holding : State := { s with rx := s.rx.set l.idx { r with framer := .held record } }
    (s.canTake l = true ↔ (s.comm.tx.get l.idx).queue.length + 96 ≤ 512 ∧ (l = .panel → s.restart = none)) ∧
    (r.framer.isFree = true → s.canTake l = false → exec c s = .next holding) ∧
    (r.framer.isFree = true → ∃ t, exec c s = .next t ∧ State.ReadsOn l holding t) ∧
    (∀ body, r.framer = .held body → r.overrunPending = false → r.queue.length + (record.length + 4) ≤ 512 →
      exec c s = .next
        { s with
          rx := s.rx.set l.idx
            { r with queue := r.queue ++ (frameOf record).map fun v =>
                { value := v, framing := false, parity := false, overrun := false, gap := false } } }) ∧
    (∀ b rest, (s.comm.tx.get l.idx).queue = b :: rest → (s.comm.tx.get l.idx).breaking = false →
      (l ≠ .panel ∨ s.restart = none) → r.framer = .held record →
      let freed : Comm := { s.comm with tx := s.comm.tx.set l.idx { s.comm.tx.get l.idx with queue := rest } }
      freed.marksOf l = [] → exec (.byteSent l) s = exec c
        { s with comm := freed, rx := s.rx.set l.idx { r with framer := .hunt } })

/-- BYTE_SENT: nothing leaves an empty queue or a lane that drives a break. Otherwise the first byte leaves, and the lane's
marks are flushed: ports, then chips, then inputs, each ascending, mark after mark up to the first whose notice would leave
fewer than 96 bytes free. Only then is a record that the framer holds taken, if 96 bytes are still free; else it waits. Once
it is taken the framer reads on (`State.ReadsOn`): the characters that wait are read one by one from the head of the queue,
and each further record that they make is held and taken in its turn, up to the first that must wait. What a held record does
is what its arrival on a lane that takes it at once does, the characters that wait behind it being left as they are. The last
byte of a RESTART reply makes the restart take effect. That an empty queue's byte changes nothing, the count of bytes by which
a restart waits, and that the flush comes before the record are the model's (notes/assumptions/2.md, notes/assumptions/12.md,
notes/assumptions/18.md). -/
def Obligations.ByteSentFreesRoomAndFlushes : Prop :=
  (∀ (c : Comm) (l : LaneId), c.marksOf l = c.marksInOrder l) ∧
  (∀ (c : Instr) (l : LaneId) (kind tag : Byte) (fields : List Byte) (q : List RxChar) (u : State),
    bringsRecord c l kind tag fields → u.takesAtOnce l →
    ∃ v, exec c u = .next v ∧ (v.rx.get l.idx).framer = .hunt ∧ (v.rx.get l.idx).queue = [] ∧
      State.takeHeld l (kind :: tag :: fields)
          { u with rx := u.rx.set l.idx { u.rx.get l.idx with queue := q, framer := .held (kind :: tag :: fields) } } =
        { v with rx := v.rx.set l.idx { v.rx.get l.idx with queue := q } }) ∧
  ∀ (l : LaneId) (s : State),
    (((s.comm.tx.get l.idx).queue = [] ∨ (s.comm.tx.get l.idx).breaking = true) → exec (.byteSent l) s = .next s) ∧
    ∀ b rest, (s.comm.tx.get l.idx).queue = b :: rest → (s.comm.tx.get l.idx).breaking = false →
      let r := s.rx.get l.idx
      let freed : Comm := { s.comm with tx := s.comm.tx.set l.idx { s.comm.tx.get l.idx with queue := rest } }
      let left (c : Comm) : State :=
        { s with comm := c, restart := if l = .panel then s.restart.map (· - 1) else s.restart }
      let room (c : Comm) : Prop := (c.tx.get l.idx).queue.length + 96 ≤ 512 ∧ (l = .panel → s.restart = none)
      (∀ n, l = .panel → s.restart = some n → n ≤ 1 →
        exec (.byteSent l) s = exec .restartTakesEffect { s with comm := freed }) ∧
      ((∀ n, l = .panel → s.restart = some n → 1 < n) →
        ∃ c t, s.marksFlushed l (freed.marksInOrder l) freed c ∧ exec (.byteSent l) s = .next t ∧
          State.ReadsOn l (left c) t ∧
          (r.framer.isFree = true → r.queue = [] → t = left c) ∧
          ∀ kind tag fields, r.framer = .held (kind :: tag :: fields) →
            (¬room c → t = left c) ∧
            (room c → s.deaf l = false → ∀ command, bringsRecord command l kind tag fields →
              exec command { left c with rx := s.rx.set l.idx { r with framer := .hunt } } = .next t))

/-! ## Bring-up -/

/-- R135's checks of a partner's OFFER in their order, each with its reason, and the values that an OFFER which passes them
resolves to. -/
def Obligations.OfferChecksInOrder : Prop :=
  ∀ (o : PartnerOffer) (s : State),
    let live := ∃ p, ((s.ports.get p).state = .offer ∨ (s.ports.get p).state = .confirm) ∧
      (s.ports.get p).nonce = some o.nonce
    (live → s.resolve o = .error .loop) ∧
    (¬live → o.role ≠ 1#8 → o.role ≠ 2#8 → s.resolve o = .error .box) ∧
    ∀ role, ¬live → ((o.role = 1#8 ∧ role = .claimant) ∨ (o.role = 2#8 ∧ role = .listener)) →
      ((o.identity = 0#32 ∨ o.identity = 0xFFFFFFFF#32) → s.resolve o = .error .identity) ∧
      (o.identity ≠ 0#32 → o.identity ≠ 0xFFFFFFFF#32 →
        (o.rates.getLsbD (match s.rate with
          | .khz48 => 0
          | .khz96 => 1) = false → s.resolve o = .error .rate) ∧
        (o.rates.getLsbD (match s.rate with
          | .khz48 => 0
          | .khz96 => 1) = true →
          ((o.formats.getLsbD 0 || o.formats.getLsbD 1 || o.formats.getLsbD 2 || o.formats.getLsbD 3) = false ∨
            o.maxChannels = 0#8 → s.resolve o = .error .format) ∧
          ∀ format, o.maxChannels ≠ 0#8 →
            format = (if o.formats.getLsbD 1 then Format.w32m else if o.formats.getLsbD 2 then .w32l
              else if o.formats.getLsbD 3 then .x32m else .p24) →
            (o.formats.getLsbD 0 || o.formats.getLsbD 1 || o.formats.getLsbD 2 || o.formats.getLsbD 3) = true →
            let r : Resolved :=
              { format := format
                slots := min o.maxChannels.toNat (match s.rate with
                  | .khz48 => 48
                  | .khz96 => 24)
                role := role }
            ((∀ k c, s.entries.get k = some c → c.identity = o.identity → c.presence.isKeeping = true) →
              s.resolve o = .ok r) ∧
            (∀ k c, seatNamed s.entries o.identity = some k → s.entries.get k = some c →
              c.presence.isKeeping = false →
              (∀ first, c.ports = [first] → ∀ pg, (s.ports.get first).page = some pg →
                ((o.twin && pg.twin) = false → s.resolve o = .error .duplicate) ∧
                ((o.twin && pg.twin) = true →
                  s.resolve o = if format = c.format ∧ r.slots = c.slots ∧ role = c.role then .ok r
                    else .error .twinMismatch)) ∧
              (2 ≤ c.ports.length → s.resolve o = .error .duplicate))))

/-- The bring-up records and what becomes of an OFFER. The bytes of the part's OFFER, CONFIRM and REFUSE, with the codes they
carry, and how a partner's OFFER and CONFIRM are read, which is so exactly where their lengths fit. OFFER taken in OFFER or
CONFIRM: an OFFER that passes the checks makes its page and values the port's, queues the part's CONFIRM with the partner's
tag and nonce, and starts the confirm wait in CONFIRM, with a LINK event where the port has come from OFFER; one that fails
them latches the flag of the reason and enters FAULT, with the REFUSE queued, the rebind inhibit started, and a LINK event
with that flag. -/
def Obligations.OfferIsConfirmedOrRefused : Prop :=
  (let four (x : BitVec 32) : List Byte := [x.extractLsb' 24 8, x.extractLsb' 16 8, x.extractLsb' 8 8, x.extractLsb' 0 8]
   (∀ (p : Port) (nonce : BitVec 32),
      let offer (rates channels : Byte) : List Byte := [0x01#8, 0#8] ++ four nonce ++
        [0#8, 0#8, 0#8, BitVec.ofNat 8 (p.val + 1), 3#8, rates, 0b1111#8, channels, 0#8, 4#8, 0x53#8, 0x47#8, 0x34#8, 0x38#8]
      offerBody p .khz48 nonce = offer 0b01#8 48#8 ∧ offerBody p .khz96 nonce = offer 0b10#8 24#8) ∧
   (∀ (tag : Byte) (nonce : BitVec 32) (r : Resolved), confirmBody tag nonce r = [0x02#8, tag] ++ four nonce ++
      [match r.format with
        | .p24 => 0#8
        | .w32m => 1#8
        | .w32l => 2#8
        | .x32m => 3#8,
       BitVec.ofNat 8 r.slots,
       match r.role with
        | .claimant => 1#8
        | .listener => 2#8
        | .box => 3#8]) ∧
   (∀ (tag : Byte) (why : Reason) (nonce : BitVec 32), refuseBody tag why nonce = [0x03#8, tag, match why with
        | .loop => 1#8
        | .box => 2#8
        | .identity => 3#8
        | .rate => 4#8
        | .format => 5#8
        | .duplicate => 6#8
        | .twinMismatch => 7#8
        | .mismatch => 8#8] ++ four nonce) ∧
   [Reason.loop, .box, .identity, .rate, .format, .duplicate, .twinMismatch, .mismatch].map
     (fun why => why.flag.bit.val) = [0, 1, 2, 3, 4, 5, 6, 7] ∧
   (∀ (fields : List Byte) (o : PartnerOffer), parseOffer fields = some o ↔
      o.name.length ≤ 16 ∧ ∃ flags : Byte, o.twin = flags.getLsbD 0 ∧
        fields = four o.nonce ++ four o.identity ++ [o.role, o.rates, o.formats, o.maxChannels, flags,
          BitVec.ofNat 8 o.name.length] ++ o.name) ∧
   (∀ (fields : List Byte) (c : PartnerConfirm), parseConfirm fields = some c ↔
      fields = four c.nonce ++ [c.format, c.slots, c.role])) ∧
  ∀ (p : Port) (tag : Byte) (fields : List Byte) (o : PartnerOffer) (s : State), s.takesAtOnce (.split p) →
    ((s.ports.get p).state = .offer ∨ (s.ports.get p).state = .confirm) → parseOffer fields = some o →
    (∀ r, s.resolve o = .ok r → ∃ t, exec (.offer (.split p) tag fields) s = .next t ∧
      t.ports = s.ports.set p
        { s.ports.get p with
          state := .confirm
          timer := some (.confirmWait, s.clock)
          page := some
            { nonce := o.nonce, identity := o.identity, role := r.role, rates := o.rates, formats := o.formats,
              maxChannels := o.maxChannels, twin := o.twin, name := o.name }
          resolved := some r
          history := (s.ports.get p).history.set 3 true } ∧
      t.rx = (s.answered (.split p) []).rx ∧
      t.comm = (s.comm.tells (if (s.ports.get p).state = .offer then
        [([.panel], .link p .confirm .offer noFlags)] else [])).queueFrame (.split p) (confirmBody tag o.nonce r) ∧
      t = { s with rx := t.rx, ports := t.ports, comm := t.comm }) ∧
    (∀ why, s.resolve o = .error why → ∃ t, exec (.offer (.split p) tag fields) s = .next t ∧
      t.ports = s.ports.set p
        { s.ports.get p with
          state := .fault
          timer := some (.rebindInhibit, s.clock)
          nonce := none
          page := none
          resolved := none
          history := (s.ports.get p).history.set 5 true
          flags := (s.ports.get p).flags.set why.flag.bit true } ∧
      s.repliedThen (.split p) (refuseBody tag why o.nonce)
        [([.panel], .link p .fault (s.ports.get p).state (oneFlag why.flag))] t ∧
      t = { s with rx := t.rx, ports := t.ports, comm := t.comm })

/-- OFFER taken in BOUND: the port leaves BOUND and enters OFFER with a fresh nonce, and the partner's OFFER is dealt with
there. Where it passes the checks in the OFFER state so entered, the part's OFFER and its CONFIRM stand one behind the other
on the lane and the port is in CONFIRM; where it fails them, the part's OFFER and the REFUSE stand one behind the other, the
flag of the reason is latched and the port is in FAULT. Both entries have their LINK events. The stamp of a keep timer that
starts is the model's (notes/assumptions/6.md). -/
def Obligations.OfferInBoundReoffers : Prop :=
  ∀ (p : Port) (tag : Byte) (fields : List Byte) (o : PartnerOffer) (s : State),
    s.takesAtOnce (.split p) → (s.ports.get p).state = .bound → parseOffer fields = some o →
    let offering : Comm := ({ s.comm with stale := s.comm.stale.set p (Tab.const 48 false) }.tells
      [([.panel], .link p .offer .bound noFlags)]).queueFrame (.split p)
        (offerBody p s.rate (Config.freeNonce s.draws))
    let left (t : State) : Prop := t.draws = s.draws + 1 ∧ s.portLeft p t ∧
      t.rx = (s.answered (.split p) []).rx ∧
      t = { s with rx := t.rx, ports := t.ports, comm := t.comm, draws := t.draws, streams := t.streams,
                   entries := t.entries, own := t.own }
    (∀ r, ((s.leaveBound p s.nextStamp).enterOffer p).resolve o = .ok r →
      ∃ t, exec (.offer (.split p) tag fields) s = .next t ∧ left t ∧
        t.ports = s.ports.set p
          { s.ports.get p with
            state := .confirm
            timer := some (.confirmWait, s.clock)
            nonce := some (Config.freeNonce s.draws)
            page := some
              { nonce := o.nonce, identity := o.identity, role := r.role, rates := o.rates, formats := o.formats,
                maxChannels := o.maxChannels, twin := o.twin, name := o.name }
            resolved := some r
            history := ((s.ports.get p).history.set 2 true).set 3 true } ∧
        t.comm = (offering.tells [([.panel], .link p .confirm .offer noFlags)]).queueFrame (.split p)
          (confirmBody tag o.nonce r)) ∧
    ∀ why, ((s.leaveBound p s.nextStamp).enterOffer p).resolve o = .error why →
      ∃ t, exec (.offer (.split p) tag fields) s = .next t ∧ left t ∧
        t.ports = s.ports.set p
          { s.ports.get p with
            state := .fault
            timer := some (.rebindInhibit, s.clock)
            nonce := none
            page := none
            resolved := none
            history := ((s.ports.get p).history.set 2 true).set 5 true
            flags := (s.ports.get p).flags.set why.flag.bit true } ∧
        t.comm = (offering.queueFrame (.split p) (refuseBody tag why o.nonce)).tells
          [([.panel], .link p .fault .offer (oneFlag why.flag))]

/-- CONFIRM taken in CONFIRM. One that matches the local nonce and the resolved format and slot count enters BOUND, and the
consumer table deals with the bind: an unknown identity gets a fresh entry in the lowest free seat, or, where all six are in
use, in the seat of the KEEPING consumer whose keep timer started first (the lowest of equals; the stamps that order the
starts are the model's, notes/assumptions/6.md), which is erased before; a KEEPING consumer of the same role returns with
what it held, and one of another role is erased and replaced; a PRESENT consumer with one port gets its second where both
OFFERs carry the twin mark and format, slot count and role agree. The port then has its frame layout, all 48 inputs are
marked stale on its lane, and a flush is attempted. Any other bind to a PRESENT consumer is refused, DUPLICATE or
TWIN_MISMATCH, and the port goes from BOUND to FAULT. A CONFIRM that does not match latches MISMATCH and enters FAULT. That
lane P is told of the entry to BOUND before the events that the bind raises is the model's inference
(notes/assumptions/14.md). -/
def Obligations.ConfirmBindsOrFaults : Prop :=
  ∀ (p : Port) (tag : Byte) (fields : List Byte) (c : PartnerConfirm) (pg : Page) (r : Resolved) (s : State),
    s.takesAtOnce (.split p) → (s.ports.get p).state = .confirm → parseConfirm fields = some c →
    (s.ports.get p).page = some pg → (s.ports.get p).resolved = some r →
    let matches_ := (s.ports.get p).nonce = some c.nonce ∧ c.format = r.format.code ∧ c.slots.toNat = r.slots
    let entered : State :=
      { s with
        rx := (s.answered (.split p) []).rx
        ports := s.ports.set p { s.ports.get p with state := .bound, timer := none
                                                    history := (s.ports.get p).history.set 4 true }
        comm := s.comm.tells [([.panel], .link p .bound .confirm noFlags)] }
    let framed (map : List Input) (u : State) : State := State.flush (.split p)
      { u with
        streams := u.streams.set p
          { layout := some { format := r.format, slots := r.slots, rate := s.rate }, map := map.take r.slots
            frame := none }
        comm := { u.comm with stale := u.comm.stale.set p (Tab.const 48 true) } }
    let fresh (k : Seat) (u : State) : State :=
      { u with
        entries := u.entries.set k (some
          { identity := pg.identity, name := pg.name, role := r.role, presence := .present, ports := [p],
            format := r.format, slots := r.slots, map := (List.finRange 48).take r.slots })
        pairs := { u.pairs with seats := u.pairs.seats.set k (some (Tab.ofFn fun i =>
          Pair.fresh s.rate.fade (s.moves.get i).status (s.phantoms.get i).seq)) } }
    let binds (t : State) : Prop := exec (.confirm (.split p) tag fields) s = .next t
    let faults (u : State) (why : Reason) (t : State) : Prop :=
      t = { u with
        ports := u.ports.set p
          { u.ports.get p with
            state := .fault
            timer := some (.rebindInhibit, s.clock)
            nonce := none
            page := none
            resolved := none
            history := (u.ports.get p).history.set 5 true
            flags := (u.ports.get p).flags.set why.flag.bit true }
        streams := t.streams
        comm := t.comm }
    (matches_ → ∀ k, (∀ k' x, s.entries.get k' = some x → p ∈ x.ports → k' = k) →
      ((∀ k' x, s.entries.get k' = some x → x.identity ≠ pg.identity) →
        (s.entries.get k = none → (∀ k', k' < k → s.entries.get k' ≠ none) →
          binds (framed (List.finRange 48) (fresh k entered))) ∧
        (∀ x since n, s.entries.get k = some x → x.presence = .keeping since n → (∀ k', s.entries.get k' ≠ none) →
          (∀ k' x' since' n', s.entries.get k' = some x' → x'.presence = .keeping since' n' →
            n < n' ∨ (n = n' ∧ k ≤ k')) →
          ∀ e, exec (.keepExpiry k) entered = .next e → binds (framed (List.finRange 48) (fresh k e)))) ∧
      (∀ x, seatNamed s.entries pg.identity = some k → s.entries.get k = some x →
        (x.presence.isKeeping = true →
          (x.role = r.role → binds (framed x.map
            { entered with
              entries := s.entries.set k (some
                { x with presence := .present, ports := [p], name := pg.name, format := r.format, slots := r.slots }) })) ∧
          (x.role ≠ r.role →
            ∀ e, exec (.keepExpiry k) entered = .next e → binds (framed (List.finRange 48) (fresh k e)))) ∧
        (x.presence.isKeeping = false → p ∉ x.ports →
          let refused (why : Reason) : Prop := ∃ t, binds t ∧ faults entered why t ∧
            t.streams = s.streams.set p { layout := none, map := [], frame := none } ∧
            t.comm = ({ entered.comm.queueFrame (.split p) (refuseBody tag why pg.nonce) with
              stale := entered.comm.stale.set p (Tab.const 48 false) }).tells
                [([.panel], .link p .fault .bound (oneFlag why.flag))]
          (∀ first pf, x.ports = [first] → (s.ports.get first).page = some pf →
            ((pg.twin && pf.twin) = false → refused .duplicate) ∧
            ((pg.twin && pf.twin) = true →
              (r.format = x.format ∧ r.slots = x.slots ∧ r.role = x.role → binds (framed x.map
                { entered with
                  entries := s.entries.set k (some { x with ports := [first, p], name := pg.name }) })) ∧
              (¬(r.format = x.format ∧ r.slots = x.slots ∧ r.role = x.role) → refused .twinMismatch))) ∧
          (2 ≤ x.ports.length → refused .duplicate)))) ∧
    (¬matches_ → ∃ t, exec (.confirm (.split p) tag fields) s = .next t ∧
      faults { s with rx := (s.answered (.split p) []).rx } .mismatch t ∧ t.streams = s.streams ∧
      t.comm = (s.comm.queueFrame (.split p) (refuseBody tag .mismatch pg.nonce)).tells
        [([.panel], .link p .fault .confirm (oneFlag .mismatch))])

/-! ## Requests -/

/-- The order of checks, steps 1 to 7, for every request kind on every lane that reaches it: the first that fails gives the
reply, and nothing but the lane's framer and transmit queue changes. The tables that the checks go by: the kind codes, the
body lengths, the kinds that only the panel may send, the kinds that touch an input, on whose behalf a lane's requests come,
and the bytes of a reply with the result codes. That a port which two entries name speaks for the lower of them is the
model's (notes/assumptions/15.md); no run reaches such a state (EveryStepKeepsOwnersAndTable). -/
def Obligations.RequestChecksInOrder : Prop :=
  (∀ (k : RequestKind) (n : Nat),
    (k.fits n = true ↔ match k with
      | .level => n + 2 = 5
      | .mute => n + 2 = 4
      | .map => 3 ≤ n + 2 ∧ n + 2 ≤ 200
      | .take => n + 2 = 3
      | .release => n + 2 = 3
      | .pad => n + 2 = 4
      | .phantom => n + 2 = 4
      | .queryInput => n + 2 = 3
      | .queryLink => n + 2 = 4
      | .queryLane => n + 2 = 4
      | .queryConsumer => n + 2 = 3
      | .lock => n + 2 = 4
      | .force => n + 2 = 3
      | .setRate => n + 2 = 3
      | .setAlign => n + 2 = 4
      | .resetPort => n + 2 = 3
      | .restart => n + 2 = 2) ∧
    (k.panelOnly = true ↔
      k ∈ [RequestKind.lock, .force, .setRate, .setAlign, .resetPort, .restart, .queryConsumer]) ∧
    (k.touchesInput = true ↔
      k ∈ [RequestKind.level, .mute, .map, .take, .release, .pad, .phantom, .queryInput, .lock, .force])) ∧
  [RequestKind.level, .mute, .map, .take, .release, .pad, .phantom, .queryInput, .queryLink, .queryLane, .queryConsumer,
      .lock, .force, .setRate, .setAlign, .resetPort, .restart].map RequestKind.code =
    [0x10#8, 0x11#8, 0x12#8, 0x13#8, 0x14#8, 0x15#8, 0x16#8, 0x20#8, 0x21#8, 0x22#8, 0x23#8, 0x30#8, 0x31#8, 0x32#8,
      0x33#8, 0x34#8, 0x35#8] ∧
  (∀ (tag kind : Byte) (r : ResultCode) (payload : List Byte), replyBody tag kind r payload =
    [0x40#8, tag, kind, match r with
      | .ok => 0#8
      | .clamped => 1#8
      | .queued => 2#8
      | .deferred => 3#8
      | .unknown => 16#8
      | .badLength => 17#8
      | .panelOnly => 18#8
      | .notBound => 19#8
      | .notReady => 20#8
      | .badInput => 21#8
      | .badValue => 22#8
      | .notOwner => 23#8
      | .locked => 24#8
      | .role => 25#8
      | .faulted => 26#8
      | .busy => 27#8] ++ payload) ∧
  (∀ (s : State) (p : Port) (who : Party), s.boundRequester .panel = some .panel ∧
    (s.boundRequester (.split p) = some who ↔ (s.ports.get p).state = .bound ∧
      ∃ k c, who = .consumer k ∧ s.entries.get k = some c ∧ p ∈ c.ports ∧
        ∀ k' < k, ∀ c', s.entries.get k' = some c' → p ∉ c'.ports)) ∧
  ∀ (k : RequestKind) (l : LaneId) (tag : Byte) (fields : List Byte) (s : State), s.takesAtOnce l →
    s.reachesChecks l k.code →
    let refused (r : ResultCode) := exec (k.request l tag fields) s = .next (s.answered l (replyBody tag k.code r []))
    (k.fits fields.length = false → refused .badLength) ∧
    (k.fits fields.length = true →
      (k.panelOnly = true → l ≠ .panel → refused .panelOnly) ∧
      ((k.panelOnly = false ∨ l = .panel) →
        (∀ p, l = .split p → (s.ports.get p).state ≠ .bound → refused .notBound) ∧
        (∀ who, s.boundRequester l = some who →
          (k.touchesInput = true → s.bus.pass = .starting → refused .notReady) ∧
          (k.touchesInput = true → s.bus.pass = .ready →
            (∀ b rest, fields = b :: rest → (b = 0#8 ∨ 48 < b.toNat) → refused .badInput) ∧
            (k = .map → (∃ b ∈ fields, b = 0#8 ∨ 48 < b.toNat) → refused .badInput)) ∧
          ((k.touchesInput = true → s.bus.pass = .ready) →
            (∀ i v, (k = .mute ∨ k = .pad ∨ k = .phantom ∨ k = .lock) → fields = [inputByte i, v] → v ≠ 0#8 → v ≠ 1#8 →
              refused .badValue) ∧
            (∀ b v, (k = .queryLink ∧ (b = 0#8 ∨ 6 < b.toNat)) ∨ (k = .queryLane ∧ 6 < b.toNat) ∨
                ((k = .queryLink ∨ k = .queryLane) ∧ v ≠ 0#8 ∧ v ≠ 1#8) → fields = [b, v] → refused .badValue) ∧
            (∀ b, (k = .queryConsumer ∧ 6 < b.toNat) ∨ (k = .setRate ∧ b ≠ 48#8 ∧ b ≠ 96#8) ∨
                (k = .resetPort ∧ (b = 0#8 ∨ 6 < b.toNat)) → fields = [b] → refused .badValue)))))

/-- UNKNOWN_KIND: a record whose kind names no request on its lane is answered UNKNOWN with its kind echoed, as OFFER and
CONFIRM are on lane P. A split lane whose port is in DOWN, HOLD or FAULT discards any record and counts it IGNORED, as one in
OFFER or BOUND does a CONFIRM; and an OFFER or CONFIRM of a wrong length is answered BAD_LENGTH. A DOWN port's lane stores
no record at all while the pass that follows a RESTART is under way (R174, as notes/assumptions/26.md reads it). -/
def Obligations.UnknownKindsAreAnsweredOrIgnored : Prop :=
  (∀ (p : Port) (kind tag : Byte) (fields : List Byte) (k : RequestKind) (s : State),
    (s.ports.get p).state = .down → s.bus.pass = .starting → s.bus.adopting = true →
    s.deaf (.split p) = true ∧ exec (.unknownKind (.split p) kind tag fields) s = .next s ∧
      exec (.offer (.split p) tag fields) s = .next s ∧ exec (.confirm (.split p) tag fields) s = .next s ∧
      exec (k.request (.split p) tag fields) s = .next s) ∧
  (∀ (l : LaneId) (kind : Byte), kindUnknown l kind = true ↔
    (∀ k : RequestKind, kind ≠ k.code) ∧ (l ≠ .panel → kind ≠ 0x01#8 ∧ kind ≠ 0x02#8)) ∧
  ∀ (l : LaneId) (kind tag : Byte) (fields : List Byte) (s : State), s.takesAtOnce l →
    let ignored (p : Port) (c : Instr) := exec c s = .next
      { s with
        rx := s.rx.modify p.succ fun r =>
          { r with framer := .hunt, counters := { r.counters with ignored := min 65535 (r.counters.ignored + 1) } } }
    let answers (c : Instr) (kind : Byte) (r : ResultCode) := exec c s = .next (s.answered l (replyBody tag kind r []))
    (kindUnknown l kind = true → s.reachesChecks l kind → answers (.unknownKind l kind tag fields) kind .unknown) ∧
    (l = .panel → answers (.offer l tag fields) 0x01#8 .unknown ∧ answers (.confirm l tag fields) 0x02#8 .unknown) ∧
    ∀ p, l = .split p →
      (((s.ports.get p).state = .down ∨ (s.ports.get p).state = .hold ∨ (s.ports.get p).state = .fault) →
        ignored p (.unknownKind l kind tag fields) ∧ ignored p (.offer l tag fields) ∧
          ignored p (.confirm l tag fields) ∧ ∀ k : RequestKind, ignored p (k.request l tag fields)) ∧
      ((s.ports.get p).state = .offer ∨ (s.ports.get p).state = .bound → ignored p (.confirm l tag fields)) ∧
      ((s.ports.get p).state = .offer ∨ (s.ports.get p).state = .confirm ∨ (s.ports.get p).state = .bound →
        parseOffer fields = none → answers (.offer l tag fields) 0x01#8 .badLength) ∧
      ((s.ports.get p).state = .confirm → parseConfirm fields = none →
        answers (.confirm l tag fields) 0x02#8 .badLength)

/-- LEVEL from a party that does not own the input: its pair takes the clamped level, and its trim target follows at once
unless the input is UNCERTAIN, with its LIMIT event behind the reply; no other state changes. -/
def Obligations.LevelOfANonOwnerStaysInItsPair : Prop :=
  ∀ (l : LaneId) (tag : Byte) (who : Party) (i : Input) (hi lo : Byte) (q : Pair) (s : State),
    s.serves l .level who → (s.own.get i).owner ≠ some who → s.pair? who i = some q →
    let field : Option Int := if (hi ++ lo : BitVec 16).toInt = -32768 then none else some (hi ++ lo : BitVec 16).toInt
    let stored := field.map fun x => max (-600) (min 840 x)
    ∃ t q', exec (.level l tag [inputByte i, hi, lo]) s = .next t ∧
      s.repliedThen l (replyBody tag 0x10#8 (if stored = field then .ok else .clamped) (beLevel stored))
        (limitTold (s.lanesOf who) i (s.analog i) q q') t ∧
      t.pairs = s.pairs.modify who i (fun _ => q') ∧
      q' = { q with level := stored, target := q'.target, trimState := q'.trimState, phase := q'.phase,
                    stepped := q'.stepped } ∧
      ((s.moves.get i).status = .known →
        q'.target = (match stored with
          | none => 0
          | some x => max (-400) (min 240 (x - s.analog i))) ∧
        q'.trimState = q'.stateNow .known (s.analog i) ∧
        q'.phase = if q'.trimState = .ramping ∧ q.trimState ≠ .ramping then 0 else q.phase) ∧
      ((s.moves.get i).status = .uncertain → q'.target = q.target ∧ q'.trimState = .frozen ∧ q'.phase = q.phase) ∧
      t = { s with rx := t.rx, comm := t.comm, pairs := t.pairs }

/-- LEVEL from the owner: refused LOCKED from a consumer whose input is locked; otherwise its pair takes the clamped level,
which is handed on as the owner level, and the reply is DEFERRED on an UNCERTAIN input; the pair's LIMIT event stands behind
it. -/
def Obligations.LevelOfTheOwnerIsPursued : Prop :=
  ∀ (l : LaneId) (tag : Byte) (who : Party) (i : Input) (hi lo : Byte) (q : Pair) (s : State),
    s.serves l .level who → (s.own.get i).owner = some who → s.pair? who i = some q →
    let field : Option Int := if (hi ++ lo : BitVec 16).toInt = -32768 then none else some (hi ++ lo : BitVec 16).toInt
    let stored := field.map fun x => max (-600) (min 840 x)
    ((s.own.get i).lock = true → who ≠ .panel →
      exec (.level l tag [inputByte i, hi, lo]) s = .next (s.answered l (replyBody tag 0x10#8 .locked []))) ∧
    ((s.own.get i).lock = false ∨ who = .panel → ∃ t q', exec (.level l tag [inputByte i, hi, lo]) s = .next t ∧
      s.repliedThen l (replyBody tag 0x10#8
        (if (s.moves.get i).status = .uncertain then .deferred else if stored = field then .ok else .clamped)
        (beLevel stored)) (limitTold (s.lanesOf who) i (s.analog i) q q') t ∧
      t.pairs = s.pairs.modify who i (fun _ => q') ∧
      q' = { q with level := stored, target := q'.target, trimState := q'.trimState, phase := q'.phase,
                    stepped := q'.stepped } ∧
      ((s.moves.get i).status = .known →
        q'.target = (match stored with
          | none => 0
          | some x => max (-400) (min 240 (x - s.analog i))) ∧
        q'.trimState = q'.stateNow .known (s.analog i) ∧
        q'.phase = if q'.trimState = .ramping ∧ q.trimState ≠ .ramping then 0 else q.phase) ∧
      ((s.moves.get i).status = .uncertain → q'.target = q.target ∧ q'.trimState = .frozen ∧ q'.phase = q.phase) ∧
      (t.moves, t.bus) = s.pursue i stored (s.own.get i).padChoice ∧
      t = { s with rx := t.rx, comm := t.comm, pairs := t.pairs, moves := t.moves, bus := t.bus })

/-- MUTE: the requester's pair takes the mute, and its gate turns toward its requirement. -/
def Obligations.MuteTurnsTheGate : Prop :=
  ∀ (l : LaneId) (tag : Byte) (who : Party) (i : Input) (on : Bool) (s : State), s.serves l .mute who →
    exec (.mute l tag [inputByte i, if on then 1#8 else 0#8]) s = .next
      { s.answered l (replyBody tag 0x11#8 .ok []) with
        pairs := s.pairs.modify who i fun q =>
          Pair.turnGate s.rate.fade (s.phantoms.get i).seq { q with mute := on } }

/-- MAP: a list of inputs none of which stands twice is stored for a consumer, cut to its slot count; a list that names an
input twice is refused BAD_VALUE; and the panel is refused ROLE. -/
def Obligations.MapIsStoredOrRefused : Prop :=
  ∀ (l : LaneId) (tag : Byte) (who : Party) (list : List Input) (s : State), s.serves l .map who → list ≠ [] →
    list.length ≤ 198 →
    (¬list.Nodup → exec (.map l tag (list.map inputByte)) s =
      .next (s.answered l (replyBody tag 0x12#8 .badValue []))) ∧
    (list.Nodup →
      (who = .panel → exec (.map l tag (list.map inputByte)) s =
        .next (s.answered l (replyBody tag 0x12#8 .role []))) ∧
      (∀ k c, who = .consumer k → s.entries.get k = some c → exec (.map l tag (list.map inputByte)) s = .next
        { s.answered l (replyBody tag 0x12#8 (if c.slots < list.length then .clamped else .ok)
            [byteOf (min c.slots list.length)]) with
          entries := s.entries.set k (some { c with map := list.take c.slots }) }))

/-- TAKE, in R41's order: LOCKED, ROLE, OK from the owner, ownership of a free input with its OWNER event, the place of a
waiter, and the end of the waiting list. -/
def Obligations.TakeClaimsAnInput : Prop :=
  ∀ (l : LaneId) (tag : Byte) (who : Party) (i : Input) (s : State), s.serves l .take who →
    let o := s.own.get i
    let answers (r : ResultCode) (payload : List Byte) :=
      exec (.take l tag [inputByte i]) s = .next (s.answered l (replyBody tag 0x13#8 r payload))
    (o.lock = true → who ≠ .panel → answers .locked []) ∧
    (o.lock = false ∨ who = .panel →
      (s.roleOf who = .listener → answers .role []) ∧
      (s.roleOf who ≠ .listener →
        (o.owner = some who → answers .ok [0#8]) ∧
        (o.owner = none → ∃ t, exec (.take l tag [inputByte i]) s = .next t ∧
          s.ownerPassed l (replyBody tag 0x13#8 .ok [0#8]) i (some who) (o.waiting.filter (· != who)) t) ∧
        (o.owner ≠ some who → o.owner ≠ none → ∀ n, o.waiting[n]? = some who → who ∉ o.waiting.take n →
          answers .queued [byteOf (n + 1)]) ∧
        (o.owner ≠ some who → o.owner ≠ none → who ∉ o.waiting →
          exec (.take l tag [inputByte i]) s = .next
            { s.answered l (replyBody tag 0x13#8 .queued [byteOf (o.waiting.length + 1)]) with
              own := s.own.set i { o with waiting := o.waiting ++ [who] } })))

/-- RELEASE: from the owner, refused LOCKED to a consumer of a locked input, and otherwise passed to the oldest waiter or
to none, with its OWNER event; from a waiter, its place is given up, lock or no lock; from any other party, NOT_OWNER. The
premise on the arbiter's state is one that every step keeps. -/
def Obligations.ReleasePassesOwnershipOn : Prop :=
  ∀ (l : LaneId) (tag : Byte) (who : Party) (i : Input) (s : State), s.serves l .release who → (s.own.get i).ok →
    let o := s.own.get i
    (o.owner = some who → o.lock = true → who ≠ .panel →
      exec (.release l tag [inputByte i]) s = .next (s.answered l (replyBody tag 0x14#8 .locked []))) ∧
    (o.owner = some who → (o.lock = false ∨ who = .panel) → ∃ t, exec (.release l tag [inputByte i]) s = .next t ∧
      s.ownerPassed l (replyBody tag 0x14#8 .ok []) i o.waiting.head? o.waiting.tail t) ∧
    (o.owner ≠ some who → who ∈ o.waiting → exec (.release l tag [inputByte i]) s = .next
      { s.answered l (replyBody tag 0x14#8 .ok []) with
        own := s.own.set i { o with waiting := o.waiting.filter (· != who) } }) ∧
    (o.owner ≠ some who → who ∉ o.waiting →
      exec (.release l tag [inputByte i]) s = .next (s.answered l (replyBody tag 0x14#8 .notOwner [])))

/-- PAD: refused NOT_OWNER or LOCKED; from the owner the pad choice takes the value and the target it gives is handed over,
by R3 where the owner's level is present and by R4, from the latest of pending target, in-flight target and setting, where
it is absent. -/
def Obligations.PadChoosesAndPursues : Prop :=
  ∀ (l : LaneId) (tag : Byte) (who : Party) (i : Input) (on : Bool) (s : State), s.serves l .pad who →
    let o := s.own.get i
    let m := s.moves.get i
    let fields := [inputByte i, if on then 1#8 else 0#8]
    (o.owner ≠ some who → exec (.pad l tag fields) s = .next (s.answered l (replyBody tag 0x15#8 .notOwner []))) ∧
    (o.owner = some who → o.lock = true → who ≠ .panel →
      exec (.pad l tag fields) s = .next (s.answered l (replyBody tag 0x15#8 .locked []))) ∧
    (o.owner = some who → (o.lock = false ∨ who = .panel) →
      let p0 : Nat := match m.pending, m.move.inFlight with
        | some b, _ => b.p
        | none, some b => b.p
        | none, none => m.setting.p
      let target : Setting := match s.levelOf who i with
        | some g =>
          { pad := on, p := (max 0 (min (if on then 40 else 60) ((g - (if on then -200 else 0)) / 10))).toNat }
        | none => { pad := on, p := min p0 (if on then 40 else 60) }
      exec (.pad l tag fields) s = .next
        { s.answered l (replyBody tag 0x15#8 (if m.status = .uncertain then .deferred else .ok) []) with
          own := s.own.set i { o with padChoice := on }
          moves := (s.handTarget i target).moves
          bus := (s.handTarget i target).bus })

/-- PHANTOM: authority and the chip first; then, on an IDLE input, nothing, a held request or a new sequence; and during a
sequence what R89 to R91 give for its step. A sequence that starts enters FADE_OUT, turns every gate of the input and tells
STARTED; no other request tells of anything at once. -/
def Obligations.PhantomIsCheckedAndRun : Prop :=
  ∀ (l : LaneId) (tag : Byte) (who : Party) (i : Input) (on : Bool) (s : State), s.serves l .phantom who →
    let o := s.own.get i
    let ph := s.phantoms.get i
    let fields := [inputByte i, if on then 1#8 else 0#8]
    let value : PhantomState := if on then .on else .off
    let answers (r : ResultCode) := exec (.phantom l tag fields) s = .next (s.answered l (replyBody tag 0x16#8 r []))
    let becomes (q : PhantomCtl) := exec (.phantom l tag fields) s = .next
      { s.answered l (replyBody tag 0x16#8 .ok []) with phantoms := s.phantoms.set i q }
    let starts := ∃ t, exec (.phantom l tag fields) s = .next t ∧
      s.repliedThen l (replyBody tag 0x16#8 .ok []) [s.startTold i] t ∧
      t.phantoms = s.phantoms.set i
        { ph with origin := some ph.phantom, target := some on, outcome := none, seq := .fadeOut } ∧
      t.pairs = s.pairs.mapInput i (Pair.turnGate s.rate.fade .fadeOut) ∧
      t = { s with rx := t.rx, comm := t.comm, phantoms := t.phantoms, pairs := t.pairs }
    (who ≠ .panel → o.owner ≠ some who → answers .notOwner) ∧
    (who ≠ .panel → o.owner = some who → o.lock = true → answers .locked) ∧
    (who = .panel ∨ (o.owner = some who ∧ o.lock = false) →
      (s.bus.chips.get (chipOf i) ≠ .ok → answers .faulted) ∧
      (s.bus.chips.get (chipOf i) = .ok →
        (ph.seq = .idle →
          (ph.phantom = value → becomes { ph with held := none }) ∧
          (ph.phantom ≠ value → (s.moves.get i).move ≠ .idle → becomes { ph with held := some on }) ∧
          (ph.phantom ≠ value → (s.moves.get i).move = .idle → starts)) ∧
        (ph.seq = .fadeOut →
          (ph.target = some on → answers .ok) ∧
          (ph.target ≠ some on → ph.origin = some value → exec (.phantom l tag fields) s = .next
            { s.answered l (replyBody tag 0x16#8 .ok []) with
              phantoms := s.phantoms.set i { ph with outcome := some .cancelled, seq := .fadeIn, settle := none }
              pairs := s.pairs.mapInput i (Pair.turnGate s.rate.fade .fadeIn) }) ∧
          (ph.target ≠ some on → ph.origin ≠ some value → becomes { ph with target := some on })) ∧
        (ph.seq = .writing ∨ ph.seq = .settling →
          becomes { ph with reversal := if ph.target = some on then none else some on }) ∧
        (ph.seq = .fadeIn → (ph.phantom = value → answers .ok) ∧ (ph.phantom ≠ value → starts))))

/-- QUERY_INPUT: the reply carries the input and R168's 30-byte state block for the requester, and then the saturation
count of the requester's pair returns to 0; nothing else changes. A STATE notice carries the same block. The codings of the
fields of this and of every record are spelled out: numbers most significant byte first, levels with -32768 for absent, and
the codes of the states. That an owner without an entry, which no run reaches, is coded as none is the model's
(notes/assumptions/15.md). -/
def Obligations.QueryInputReportsAndClears : Prop :=
  (let two (x : BitVec 16) : List Byte := [x.extractLsb' 8 8, x.extractLsb' 0 8]
   (∀ (n : Nat) (x : Int) (y : Option Int) (v : BitVec 32) (i : Input) (p : Port),
      be16 n = two (BitVec.ofNat 16 n) ∧ beInt16 x = two (BitVec.ofInt 16 x) ∧
      beLevel y = two (BitVec.ofInt 16 (match y with
        | some x => x
        | none => -32768)) ∧
      be32 v = [v.extractLsb' 24 8, v.extractLsb' 16 8, v.extractLsb' 8 8, v.extractLsb' 0 8] ∧
      byteOf n = BitVec.ofNat 8 n ∧ inputByte i = BitVec.ofNat 8 (i.val + 1) ∧ portByte p = BitVec.ofNat 8 (p.val + 1) ∧
      laneByte .panel = 0#8 ∧ laneByte (.split p) = BitVec.ofNat 8 (p.val + 1)) ∧
   (∀ (a : Setting) (n : Nat),
      [Move.idle, .queued a, .onWire a, .landing a n].map Move.code = [0#8, 1#8, 2#8, 3#8]) ∧
   [AnalogStatus.known, .uncertain].map AnalogStatus.code = [0#8, 1#8] ∧
   [PhantomState.off, .on, .faulted].map PhantomState.code = [0#8, 1#8, 2#8] ∧
   [SeqState.idle, .fadeOut, .writing, .settling, .fadeIn].map SeqState.code = [0#8, 1#8, 2#8, 3#8, 4#8] ∧
   [TrimState.settled, .ramping, .limited, .frozen].map TrimState.code = [0#8, 1#8, 2#8, 3#8] ∧
   [GateDir.opened, .closing, .closed, .opening].map GateDir.code = [0#8, 1#8, 2#8, 3#8] ∧
   [Role.claimant, .listener, .box].map Role.code = [1#8, 2#8, 3#8] ∧
   [Format.p24, .w32m, .w32l, .x32m].map Format.code = [0#8, 1#8, 2#8, 3#8]) ∧
  (∀ (s : State) (k : Seat), s.ownerCode none = 0xFFFFFFFF#32 ∧ s.ownerCode (some .panel) = 0#32 ∧
    (∀ c, s.entries.get k = some c → s.ownerCode (some (.consumer k)) = c.identity) ∧
    (s.entries.get k = none → s.ownerCode (some (.consumer k)) = 0xFFFFFFFF#32)) ∧
  ∀ (who : Party) (i : Input) (q : Pair) (s : State), s.pair? who i = some q →
    let m := s.moves.get i
    let o := s.own.get i
    let place := (match o.waiting.findIdx? (· == who) with
      | none => 0
      | some n => n + 1)
    let block := beInt16 m.setting.value ++ [if m.setting.pad then 1#8 else 0#8, byteOf m.setting.p, m.status.code,
        m.move.code] ++ be32 (s.ownerCode o.owner) ++ [byteOf o.waiting.length, byteOf place,
        if o.lock then 1#8 else 0#8, (s.phantoms.get i).phantom.code, (s.phantoms.get i).seq.code] ++
      be16 (s.bus.clips.get i) ++ beLevel q.level ++ [if q.mute then 1#8 else 0#8] ++ beInt16 q.trim ++
      [q.trimState.code] ++ beLevel (q.level.map fun x => x - m.setting.value - q.trim) ++ be16 q.gate ++
      [q.dir.code] ++ be16 q.sat
    block.length = 30 ∧ s.stateBlock who i = block ∧
    ∀ (l : LaneId) (tag : Byte), s.serves l .queryInput who → exec (.queryInput l tag [inputByte i]) s = .next
      { s.answered l (replyBody tag 0x20#8 .ok (inputByte i :: block)) with
        pairs := s.pairs.modify who i fun q => { q with sat := 0 } }

/-- QUERY_LINK, QUERY_LANE and QUERY_CONSUMER: what each reply carries, and that the clear flag clears the sets or the
counters after the reply has been formed; a split lane may name only itself. The history set and the latched flags are
carried as the sums of the bits of their members. The keep time left is 10 s less the time since
the timer started, in units of 100 ms rounded up, counted on the model's time base of twelfths of a microsecond
(notes/assumptions/5.md). -/
def Obligations.QueriesReportAndClear : Prop :=
  (∀ (states : Tab 6 Bool) (flags : Tab 12 Bool),
    marksValue states = ((List.finRange 6).map fun k => if states.get k then 2 ^ k.val else 0).sum ∧
    marksValue flags = ((List.finRange 12).map fun k => if flags.get k then 2 ^ k.val else 0).sum) ∧
  [PortState.down, .hold, .offer, .confirm, .bound, .fault].map (fun st => st.bit.val) = [0, 1, 2, 3, 4, 5] ∧
  [LinkFlag.loop, .box, .identity, .rate, .format, .duplicate, .twinMismatch, .mismatch, .carrierLost, .breakSeen,
      .offerTimeout, .confirmTimeout].map (fun f => f.bit.val) = [0, 1, 2, 3, 4, 5, 6, 7, 8, 9, 10, 11] ∧
  (∀ (l : LaneId) (tag : Byte) (who : Party) (p : Port) (clear : Bool) (s : State), s.serves l .queryLink who →
    let q := s.ports.get p
    let fields := [portByte p, if clear then 1#8 else 0#8]
    (l ≠ .panel → l ≠ .split p → exec (.queryLink l tag fields) s =
      .next (s.answered l (replyBody tag 0x21#8 .panelOnly []))) ∧
    (l = .panel ∨ l = .split p → exec (.queryLink l tag fields) s = .next
      { s.answered l (replyBody tag 0x21#8 .ok
          ([portByte p, q.state.code, byteOf (marksValue q.history)] ++ be16 (marksValue q.flags) ++
            (match q.state, q.page, q.resolved with
             | .confirm, some pg, some r => be32 pg.identity ++ [r.format.code, byteOf r.slots, r.role.code]
             | .bound, some pg, some r => be32 pg.identity ++ [r.format.code, byteOf r.slots, r.role.code]
             | _, _, _ => be32 0xFFFFFFFF#32 ++ [0xFF#8, 0#8, 0#8]))) with
        ports := if clear then
            s.ports.set p { q with history := (Tab.const 6 false).set q.state.bit true, flags := Tab.const 12 false }
          else s.ports })) ∧
  (∀ (l : LaneId) (tag : Byte) (who : Party) (n : LaneId) (clear : Bool) (s : State), s.serves l .queryLane who →
    let c := (s.rx.get n.idx).counters
    let fields := [laneByte n, if clear then 1#8 else 0#8]
    (l ≠ .panel → l ≠ n → exec (.queryLane l tag fields) s =
      .next (s.answered l (replyBody tag 0x22#8 .panelOnly []))) ∧
    (l = .panel ∨ l = n → exec (.queryLane l tag fields) s = .next
      { s.answered l (replyBody tag 0x22#8 .ok ([laneByte n] ++ be16 c.gap ++ be16 c.marked ++ be16 c.length ++
          be16 c.check ++ be16 c.overrun ++ be16 c.ignored)) with
        rx := (s.answered l []).rx.modify n.idx fun r =>
          if clear then
            { r with counters := { gap := 0, marked := 0, length := 0, check := 0, overrun := 0, ignored := 0 } }
          else r })) ∧
  ∀ (tag : Byte) (s : State), s.takesAtOnce .panel →
    exec (.queryConsumer .panel tag [0#8]) s = .next (s.answered .panel (replyBody tag 0x23#8 .ok
      ([0#8] ++ be32 0#32 ++ [1#8, 1#8, 0#8, 0#8, 0#8, 0xFF#8, 0#8, 0#8, 5#8, 0x50#8, 0x41#8, 0x4E#8, 0x45#8, 0x4C#8]))) ∧
    ∀ k : Seat,
      (s.entries.get k = none → exec (.queryConsumer .panel tag [byteOf (k.val + 1)]) s =
        .next (s.answered .panel (replyBody tag 0x23#8 .ok
          ([byteOf (k.val + 1)] ++ be32 0xFFFFFFFF#32 ++
            [0#8, 0#8, 0#8, 0#8, 0#8, 0xFF#8, 0#8, 0#8, 0#8])))) ∧
      (∀ c, s.entries.get k = some c → exec (.queryConsumer .panel tag [byteOf (k.val + 1)]) s =
        .next (s.answered .panel (replyBody tag 0x23#8 .ok
          ([byteOf (k.val + 1)] ++ be32 c.identity ++
            [if c.presence.isKeeping then 2#8 else 1#8, c.role.code,
              (match c.ports[0]? with
               | some p => portByte p
               | none => 0#8),
              (match c.ports[1]? with
               | some p => portByte p
               | none => 0#8),
              (match c.presence with
               | .present => 0#8
               | .keeping since _ =>
                 BitVec.ofNat 8 (max 1 ((120000000 - (s.clock - since) + 1199999) / 1200000))),
              c.format.code, byteOf c.slots, byteOf c.map.length, byteOf c.name.length] ++
            c.name))))

/-- LOCK: the lock takes the value. FORCE: the panel becomes owner at once, off the waiting list, with the OWNER event,
unless it is already. -/
def Obligations.LockAndForce : Prop :=
  (∀ (tag : Byte) (i : Input) (on : Bool) (s : State), s.serves .panel .lock .panel →
    exec (.lock .panel tag [inputByte i, if on then 1#8 else 0#8]) s = .next
      { s.answered .panel (replyBody tag 0x30#8 .ok []) with
        own := s.own.set i { s.own.get i with lock := on } }) ∧
  ∀ (tag : Byte) (i : Input) (s : State), s.serves .panel .force .panel →
    ((s.own.get i).owner = some .panel →
      exec (.force .panel tag [inputByte i]) s = .next (s.answered .panel (replyBody tag 0x31#8 .ok []))) ∧
    ((s.own.get i).owner ≠ some .panel → ∃ t, exec (.force .panel tag [inputByte i]) s = .next t ∧
      s.ownerPassed .panel (replyBody tag 0x31#8 .ok []) i (some .panel)
        ((s.own.get i).waiting.filter (· != .panel)) t)

/-- SET_RATE: the rate in force changes nothing; a busy input refuses BUSY; otherwise the rate takes the value, every pair
is brought to rest by R20 with its LIMIT event, and then every port that is not DOWN is in HOLD with its values discarded,
its lane flushed and its LINK event told. Every consumer with a bound port is KEEPING, all with keep timers that started
together, and no consumer waits any more; the premises on the table and the waiting lists are ones that every step keeps. The
order of the inputs' and the ports' events is the model's (notes/assumptions/24.md), as are the stamps of the timers
(notes/assumptions/6.md). -/
def Obligations.SetRateRestsAndHolds : Prop :=
  ∀ (tag : Byte) (r : BoxRate) (s : State), s.serves .panel .setRate .panel →
    let b (x : BoxRate) : Byte := match x with
      | .khz48 => 48#8
      | .khz96 => 96#8
    let busy := ∃ i, (s.moves.get i).move ≠ .idle ∨ (s.phantoms.get i).seq ≠ .idle
    (r = s.rate → exec (.setRate .panel tag [b r]) s =
      .next (s.answered .panel (replyBody tag 0x32#8 .ok [b r]))) ∧
    (r ≠ s.rate → busy → exec (.setRate .panel tag [b r]) s =
      .next (s.answered .panel (replyBody tag 0x32#8 .busy [b s.rate]))) ∧
    (r ≠ s.rate → ¬busy → ∃ t, exec (.setRate .panel tag [b r]) s = .next t ∧
      t.rate = r ∧
      (∀ who i q, s.pair? who i = some q → ∃ q', t.pair? who i = some q' ∧ q'.level = q.level ∧ q'.mute = q.mute ∧
        q'.target = q.target ∧ q'.sat = q.sat ∧ q'.phase = 0 ∧
        q'.trim = (if q.trimState = .ramping then q.target else q.trim) ∧
        (q.trimState ≠ .ramping → q'.trimState = q.trimState) ∧
        (q.trimState = .ramping → q'.trimState = q'.stateNow (s.moves.get i).status (s.analog i)) ∧
        (q.dir = .closing ∨ q.dir = .closed → q'.gate = 0 ∧ q'.dir = .closed) ∧
        (q.dir = .opening ∨ q.dir = .opened → q'.gate = r.fade ∧ q'.dir = .opened)) ∧
      (∀ p, (s.ports.get p).state = .down → t.ports.get p = s.ports.get p ∧ t.streams.get p = s.streams.get p ∧
        t.rx.get p.succ = s.rx.get p.succ) ∧
      (∀ p, (s.ports.get p).state ≠ .down → t.ports.get p =
        { s.ports.get p with state := .hold, timer := some (.hold, s.clock), nonce := none, page := none,
                             resolved := none, history := (s.ports.get p).history.set 1 true } ∧
        t.rx.get p.succ = { s.rx.get p.succ with queue := [], overrunPending := false, gapRef := none, framer := .hunt }) ∧
      t.rx.get 0 = { s.rx.get 0 with framer := .hunt } ∧
      t.comm = (allPorts.filter fun p => decide ((s.ports.get p).state ≠ .down)).foldl
        (fun c p => (c.flushed p true).tells [([.panel], .link p .hold (s.ports.get p).state noFlags)])
        ((s.answered .panel (replyBody tag 0x32#8 .ok [b r])).comm.tells
          (allInputs.flatMap fun i => s.limitsTold t i)) ∧
      (∀ p, (s.ports.get p).state = .bound → t.streams.get p = { layout := none, map := [], frame := none }) ∧
      (∀ p, (s.ports.get p).state ≠ .bound → t.streams.get p = s.streams.get p) ∧
      (∀ i, (t.own.get i).owner = (s.own.get i).owner ∧ (t.own.get i).lock = (s.own.get i).lock ∧
        (t.own.get i).padChoice = (s.own.get i).padChoice) ∧
      (s.tableOk → s.partiesOk →
        (∃ stamp, s.laterStamp stamp ∧ ∀ k, t.entries.get k = (s.entries.get k).map fun c =>
          if c.ports = [] then c else { c with ports := [], presence := .keeping s.clock stamp }) ∧
        (∀ i, (t.own.get i).waiting = (s.own.get i).waiting.filter (· == .panel))) ∧
      t = { s with rate := t.rate, rx := t.rx, comm := t.comm, pairs := t.pairs, ports := t.ports, streams := t.streams,
                   entries := t.entries, own := t.own })

/-- RESET_PORT: while READY the port enters HOLD from any state with its counters at 0, its history HOLD alone and no flag,
and its LINK event behind the reply; while STARTING the lane is flushed and the same is cleared, and the port stays as it
is. The stamp of a keep timer that starts is the model's (notes/assumptions/6.md). -/
def Obligations.ResetPortHoldsAndClears : Prop :=
  ∀ (tag : Byte) (p : Port) (s : State), s.serves .panel .resetPort .panel →
    let cleared (st : PortState) (q : LinkPort) : LinkPort :=
      { q with history := (Tab.const 6 false).set st.bit true, flags := Tab.const 12 false }
    (s.bus.pass = .ready → ∃ t, exec (.resetPort .panel tag [portByte p]) s = .next t ∧
      t.ports = s.ports.set p (cleared .hold
        { s.ports.get p with state := .hold, timer := some (.hold, s.clock), nonce := none, page := none,
                             resolved := none }) ∧
      t.rx = (s.answered .panel []).rx.set p.succ
        { queue := [], overrunPending := false, gapRef := none, framer := .hunt, counters := Counters.zero } ∧
      t.comm = ((s.answered .panel (replyBody tag 0x34#8 .ok [])).comm.flushed p true).tells
        [([.panel], .link p .hold (s.ports.get p).state noFlags)] ∧
      s.portLeft p t ∧
      t = { s with rx := t.rx, comm := t.comm, ports := t.ports, streams := t.streams, entries := t.entries,
                   own := t.own }) ∧
    (s.bus.pass = .starting → exec (.resetPort .panel tag [portByte p]) s = .next
      { s with
        rx := (s.answered .panel []).rx.set p.succ
          { queue := [], overrunPending := false, gapRef := none, framer := .hunt, counters := Counters.zero }
        comm := { s.comm.queueFrame .panel (replyBody tag 0x34#8 .ok []) with
          tx := (s.comm.queueFrame .panel (replyBody tag 0x34#8 .ok [])).tx.set p.succ
            { s.comm.tx.get p.succ with queue := [] } }
        ports := s.ports.set p (cleared (s.ports.get p).state (s.ports.get p)) })

/-- SET_ALIGN: D takes the value, clamped to 255, and the reply carries it. RESTART: its reply is queued, and the restart is
pending until as many bytes have left lane P as now stand in its transmit queue, which is how the model counts the moment
that R172 names (notes/assumptions/12.md). -/
def Obligations.AlignAndRestartAreTaken : Prop :=
  (∀ (tag hi lo : Byte) (s : State), s.takesAtOnce .panel →
    let d := hi.toNat * 256 + lo.toNat
    exec (.setAlign .panel tag [hi, lo]) s = .next
      { s.answered .panel (replyBody tag 0x33#8 (if d ≤ 255 then .ok else .clamped) [byteOf (min d 255)]) with
        align := min d 255 }) ∧
  ∀ (tag : Byte) (s : State), s.takesAtOnce .panel →
    exec (.restart .panel tag []) s = .next
      { s.answered .panel (replyBody tag 0x35#8 .ok []) with
        restart := some ((s.comm.tx.get 0).queue.length + 8) }

/-! ## The preamp bus -/

/-- The channel word a command makes of the shadow, when a read counts as answered with a word, and the bytes the part
sends for each transaction. -/
def Obligations.WordsAndWireBytes : Prop :=
  (∀ (i : Input) (pad : Bool) (p : Nat) (w : Byte), p ≤ 60 →
    (Command.word (.gain i pad p) w).extractLsb' 0 6 = BitVec.ofNat 6 p ∧
      (Command.word (.gain i pad p) w).getLsbD 6 = pad ∧
      (Command.word (.gain i pad p) w).getLsbD 7 = w.getLsbD 7) ∧
  (∀ (i : Input) (on : Bool) (w : Byte),
    (Command.word (.phantom i on) w).extractLsb' 0 7 = w.extractLsb' 0 7 ∧
      (Command.word (.phantom i on) w).getLsbD 7 = on) ∧
  (∀ (r : ReadReply) (v : Byte), readValue r = some v ↔ r = .bytes 0x06#8 (some v)) ∧
  (∀ (r : ReadReply) (w : Byte), readWord r = some w ↔ r = .bytes 0x06#8 (some w) ∧
    (w.extractLsb' 0 6).toNat ≤ (if w.getLsbD 6 then 40 else 60)) ∧
  (∀ (c : Chip) (k : Channel) (cmd : Command) (old new : Byte), cmd.input = inputAt c k →
    (Txn.write cmd old new).wire = [BitVec.ofNat 8 (0x62 + 2 * c.val), BitVec.ofNat 8 k.val, new] ∧
    (Txn.verify cmd old new).wire = [BitVec.ofNat 8 (0x63 + 2 * c.val), BitVec.ofNat 8 k.val]) ∧
  ∀ (c : Chip) (k : Channel),
    (Txn.status (inputAt c k)).wire = [BitVec.ofNat 8 (0x63 + 2 * c.val), BitVec.ofNat 8 (8 + k.val)] ∧
    (Txn.identity c).wire = [BitVec.ofNat 8 (0x63 + 2 * c.val), 16#8] ∧
    (Txn.startIdentity c).wire = [BitVec.ofNat 8 (0x63 + 2 * c.val), 16#8] ∧
    (Txn.adoption c k).wire = [BitVec.ofNat 8 (0x63 + 2 * c.val), BitVec.ofNat 8 k.val] ∧
    (Txn.startAdoption c k).wire = [BitVec.ofNat 8 (0x63 + 2 * c.val), BitVec.ofNat 8 k.val] ∧
    (Txn.startVerify c k).wire = [BitVec.ofNat 8 (0x63 + 2 * c.val), BitVec.ofNat 8 k.val] ∧
    (Txn.startWrite c k).wire = [BitVec.ofNat 8 (0x62 + 2 * c.val), BitVec.ofNat 8 k.val, 0#8]

/-- What begins when a transaction has ended: the head of the queue, a write with its word built from the shadow of this
moment and its move now ON_WIRE; or, with the queue empty, once READY, the poll's read of the chip at the poll position.
While STARTING the start-up pass begins its own transactions: TheStartUpPassReadsItsChips says which. -/
def Obligations.TheHeadOfTheQueueBegins : Prop :=
  ∀ s : State,
    (∀ c rest, s.bus.queue = .write c :: rest →
      s.beginNext = { s with
        bus := { s.bus with
          queue := rest
          flight := some { txn := .write c (s.bus.shadow.get c.input) (c.word (s.bus.shadow.get c.input))
                           discard := false } }
        moves := match c with
          | .gain i _ _ => (match (s.moves.get i).move with
            | .queued a => s.moves.set i { s.moves.get i with move := .onWire a }
            | .idle => s.moves
            | .onWire _ => s.moves
            | .landing _ _ => s.moves)
          | .phantom _ _ => s.moves }) ∧
    (∀ c old new rest, s.bus.queue = .verify c old new :: rest → s.beginNext =
      { s with bus := { s.bus with queue := rest, flight := some { txn := .verify c old new, discard := false } } }) ∧
    (∀ c k rest, s.bus.queue = .adoption c k :: rest → s.beginNext =
      { s with bus := { s.bus with queue := rest, flight := some { txn := .adoption c k, discard := false } } }) ∧
    (s.bus.queue = [] → s.bus.pass = .ready →
      (s.bus.chips.get (chipOf s.bus.pollPos) = .ok → s.beginNext =
        { s with bus := { s.bus with flight := some { txn := .status s.bus.pollPos, discard := false } } }) ∧
      (s.bus.chips.get (chipOf s.bus.pollPos) = .faulted → s.beginNext =
        { s with bus := { s.bus with
            flight := some { txn := .identity (chipOf s.bus.pollPos), discard := false } } }))

/-- WRITE_DECIDED of a command's write: 0x06 takes it, so that the shadow holds the new word and the move is LANDING with a
count of D, or the phantom state is the target's and the settle begins; any other byte queues the verify read behind the
reads and ahead of the writes. -/
def Obligations.WriteReplyDecidesOrVerifies : Prop :=
  ∀ (old new : Byte) (s : State),
    (∀ i pad p a, s.bus.flight = some { txn := .write (.gain i pad p) old new, discard := false } →
      (s.moves.get i).move = .onWire a →
      exec (.writeDecided 0x06#8) s = .next (State.beginNext
        { s with
          bus := { s.bus with shadow := s.bus.shadow.set i new }
          moves := s.moves.set i { s.moves.get i with move := .landing a s.align } })) ∧
    (∀ i on b, s.bus.flight = some { txn := .write (.phantom i on) old new, discard := false } →
      (s.phantoms.get i).seq = .writing → (s.phantoms.get i).target = some b →
      exec (.writeDecided 0x06#8) s = .next (State.beginNext
        { s with
          bus := { s.bus with shadow := s.bus.shadow.set i new }
          phantoms := s.phantoms.set i
            { s.phantoms.get i with phantom := if b then .on else .off, outcome := some .switched, seq := .settling
                                    settle := some s.clock } })) ∧
    ∀ c reply reads writes, s.bus.flight = some { txn := .write c old new, discard := false } → reply ≠ 0x06#8 →
      s.bus.queue = reads ++ writes → (∀ e ∈ reads, e.isWrite = false) →
      (∀ e, writes.head? = some e → e.isWrite = true) →
      exec (.writeDecided reply) s = .next (State.beginNext
        { s with bus := { s.bus with queue := reads ++ .verify c old new :: writes } })

/-- VERIFY_READ: the new word takes the write; the old word, where it differs, fails the move or the sequence; any other
word, one outside the domain and no answer fault the chip, which withdraws its queued writes and abandons its inputs' moves
and sequences. A move that fails ends as one that lands does: its MOVED event, a held request's sequence with its STARTED
event, and a pending target handed over (TargetsAreDealtWithInOrder). Then the next transaction begins. The order in which
a chip fault's events are told of is the model's (notes/assumptions/14.md, notes/assumptions/24.md). -/
def Obligations.VerifyReadDecides : Prop :=
  ∀ (r : ReadReply) (old new : Byte) (s : State),
    (∀ i pad p a, s.bus.flight = some { txn := .verify (.gain i pad p) old new, discard := false } →
      (s.moves.get i).move = .onWire a →
      (readWord r = some new → exec (.verifyRead r) s = .next (State.beginNext
        { s with
          bus := { s.bus with shadow := s.bus.shadow.set i new }
          moves := s.moves.set i { s.moves.get i with move := .landing a s.align } })) ∧
      (old ≠ new → readWord r = some old → ∃ t, exec (.verifyRead r) s = .next (State.beginNext t) ∧
        let failed := s.moves.set i { s.moves.get i with failed := some a, move := .idle }
        ((s.moves.get i).pending = none → t.moves = failed ∧ t.bus = s.bus) ∧
        (∀ b, (s.moves.get i).pending = some b →
          let u := State.handTarget i b { s with moves := failed, phantoms := t.phantoms }
          t.moves = u.moves ∧ t.bus = u.bus) ∧
        ((s.phantoms.get i).held = none → t.phantoms = s.phantoms ∧ t.pairs = s.pairs) ∧
        (∀ on, (s.phantoms.get i).held = some on → t.phantoms = s.phantoms.set i
          { s.phantoms.get i with held := none, origin := some (s.phantoms.get i).phantom, target := some on,
                                  outcome := none, seq := .fadeOut } ∧
          t.pairs = s.pairs.mapInput i (Pair.turnGate s.rate.fade .fadeOut)) ∧
        t.comm = s.comm.tells ([(s.partyLanes, .moved i .failed (s.moves.get i).setting)] ++
          (if (s.phantoms.get i).held = none then [] else [s.startTold i])) ∧
        t = { s with moves := t.moves, bus := t.bus, phantoms := t.phantoms, pairs := t.pairs, comm := t.comm })) ∧
    (∀ i on b, s.bus.flight = some { txn := .verify (.phantom i on) old new, discard := false } →
      (s.phantoms.get i).seq = .writing → (s.phantoms.get i).target = some b →
      (readWord r = some new → exec (.verifyRead r) s = .next (State.beginNext
        { s with
          bus := { s.bus with shadow := s.bus.shadow.set i new }
          phantoms := s.phantoms.set i
            { s.phantoms.get i with phantom := if b then .on else .off, outcome := some .switched, seq := .settling
                                    settle := some s.clock } })) ∧
      (old ≠ new → readWord r = some old → exec (.verifyRead r) s = .next (State.beginNext
        { s with
          phantoms := s.phantoms.set i
            { s.phantoms.get i with reversal := none, outcome := some .failed, seq := .fadeIn, settle := none }
          pairs := s.pairs.mapInput i (Pair.turnGate s.rate.fade .fadeIn) }))) ∧
    ∀ c, s.bus.flight = some { txn := .verify c old new, discard := false } → readWord r ≠ some old →
      readWord r ≠ some new → ∃ t, exec (.verifyRead r) s = .next (State.beginNext t) ∧
        s.chipFaulted (chipOf c.input) t

/-- STATUS_READ: the poll moves on; no answer faults the chip; a set clip latch raises the clip count up to its top; a set
phantom fault bit clears the shadow's phantom bit and makes the phantom state FAULTED, and ends a settle toward ON early,
unless the input is FAULTED and IDLE already. CLIP and then PHANTOM_STATE are told of, the latter with the sequence state in
force when the report is taken (the model's choice, notes/assumptions/13.md, notes/assumptions/14.md). Then the next
transaction begins. The order in which a chip fault's events are told of is the model's (notes/assumptions/14.md,
notes/assumptions/24.md). -/
def Obligations.StatusReadReportsItsLatches : Prop :=
  ∀ (r : ReadReply) (i : Input) (s : State), s.bus.flight = some { txn := .status i, discard := false } →
    (readValue r = none → ∃ t, exec (.statusRead r) s = .next (State.beginNext t) ∧
      State.chipFaulted (chipOf i) { s with bus := { s.bus with pollPos := nextInput i } } t) ∧
    (nextInput i).val = (i.val + 1) % 48 ∧
    ∀ v, readValue r = some v → ∃ t, exec (.statusRead r) s = .next (State.beginNext t) ∧
      t.bus = { s.bus with
        pollPos := nextInput i
        clips := if v.getLsbD 0 = true ∧ s.bus.clips.get i < 65535 then s.bus.clips.set i (s.bus.clips.get i + 1)
          else s.bus.clips
        shadow := if v.getLsbD 1 then s.bus.shadow.set i (s.bus.shadow.get i &&& 0x7F#8) else s.bus.shadow } ∧
      ((v.getLsbD 1 = false ∨ ((s.phantoms.get i).phantom = .faulted ∧ (s.phantoms.get i).seq = .idle)) →
        t.phantoms = s.phantoms ∧ t.pairs = s.pairs) ∧
      (v.getLsbD 1 = true → (s.phantoms.get i).seq = .settling → (s.phantoms.get i).target = some true →
        t.phantoms = s.phantoms.set i
          { s.phantoms.get i with phantom := .faulted, reversal := none, outcome := some .failed, seq := .fadeIn
                                  settle := none } ∧
        t.pairs = s.pairs.mapInput i (Pair.turnGate s.rate.fade .fadeIn)) ∧
      (v.getLsbD 1 = true → ((s.phantoms.get i).seq ≠ .settling ∨ (s.phantoms.get i).target ≠ some true) →
        t.phantoms = s.phantoms.set i { s.phantoms.get i with phantom := .faulted } ∧ t.pairs = s.pairs) ∧
      t.comm = s.comm.tells
        ((if v.getLsbD 0 = true ∧ s.bus.clips.get i < 65535 then
            [(s.clipLanes i, .clip i (s.bus.clips.get i + 1))] else []) ++
          (if v.getLsbD 1 = true ∧ ¬((s.phantoms.get i).phantom = .faulted ∧ (s.phantoms.get i).seq = .idle) then
            [(s.partyLanes, .phantomState i .faulted (s.phantoms.get i).seq .fault)] else [])) ∧
      t = { s with bus := t.bus, phantoms := t.phantoms, pairs := t.pairs, comm := t.comm }

/-- IDENTITY_READ of the poll: the poll moves past the chip, and 0x5A makes it PROBING with eight adoption reads ahead of the
writes. ADOPTION_READ: a word is kept, a missing or invalid one fails the probe and takes its reads from the queue, and the
eighth adopts the chip's inputs, with their events and the CHIP event (their order where no rule gives it:
notes/assumptions/14.md, notes/assumptions/24.md). A pair that so enters RAMPING has no mark of a ramp step, which is the
model's own (notes/assumptions/4.md). -/
def Obligations.ProbesRecoverAChip : Prop :=
  (∀ (r : ReadReply) (c : Chip) (s : State), s.bus.flight = some { txn := .identity c, discard := false } →
    (afterChip c).val = (8 * c.val + 8) % 48 ∧
    (readValue r ≠ some 0x5A#8 → exec (.identityRead r) s = .next (State.beginNext
      { s with bus := { s.bus with pollPos := afterChip c } })) ∧
    (∀ reads writes, readValue r = some 0x5A#8 → s.bus.queue = reads ++ writes → (∀ e ∈ reads, e.isWrite = false) →
      (∀ e, writes.head? = some e → e.isWrite = true) → exec (.identityRead r) s = .next (State.beginNext
        { s with bus := { s.bus with
            pollPos := afterChip c
            chips := s.bus.chips.set c .probing
            probe := []
            queue := reads ++ ([0, 1, 2, 3, 4, 5, 6, 7].map fun k => QueueEntry.adoption c k) ++ writes } }))) ∧
  ∀ (r : ReadReply) (c : Chip) (k : Channel) (s : State),
    s.bus.flight = some { txn := .adoption c k, discard := false } →
    (readWord r = none → exec (.adoptionRead r) s = .next (State.beginNext
      { s with bus := { s.bus with
          chips := s.bus.chips.set c .faulted
          probe := []
          queue := s.bus.queue.filter fun e => !e.adopts c } })) ∧
    (∀ w, readWord r = some w → k ≠ 7 → exec (.adoptionRead r) s = .next (State.beginNext
      { s with bus := { s.bus with probe := s.bus.probe ++ [w] } })) ∧
    (∀ w, readWord r = some w → k = 7 → s.bus.probe.length = 7 →
      (∀ j, chipOf j = c → (s.moves.get j).move = .idle) →
      ∃ t, exec (.adoptionRead r) s = .next (State.beginNext t) ∧ s.chipAdopted false c (s.bus.probe ++ [w]) t)

/-- START_UP_IDENTITY_READ: 0x5A leads to the first write of 0, or to the first adoption read after a RESTART; anything else
leaves the chip FAULTED, with its CHIP event, and the pass goes on. START_UP_ADOPTION_READ: words are kept one after the
other, a missing or invalid one leaves the chip FAULTED, with its CHIP event, and the eighth adopts the chip's inputs; then
the pass goes on. The order in which the adoption's events are told of (notes/assumptions/14.md, notes/assumptions/24.md)
and the mark of a ramp step (notes/assumptions/4.md) are the model's. -/
def Obligations.TheStartUpPassReadsItsChips : Prop :=
  (∀ (r : ReadReply) (c : Chip) (s : State), s.bus.flight = some { txn := .startIdentity c, discard := false } →
    (readValue r = some 0x5A#8 → s.bus.adopting = false → exec (.startUpIdentityRead r) s = .next
      { s with bus := { s.bus with flight := some { txn := .startWrite c 0, discard := false } } }) ∧
    (readValue r = some 0x5A#8 → s.bus.adopting = true → exec (.startUpIdentityRead r) s = .next
      { s with bus := { s.bus with probe := [], flight := some { txn := .startAdoption c 0, discard := false } } }) ∧
    (readValue r ≠ some 0x5A#8 → ∃ t u, exec (.startUpIdentityRead r) s = .next t ∧ State.passedOn c u t ∧
      u = { s with bus := { s.bus with chips := s.bus.chips.set c .faulted, probe := [] }
                   comm := s.comm.tells [([.panel], .chip c .faulted)] })) ∧
  ∀ (r : ReadReply) (c : Chip) (k : Channel) (s : State),
    s.bus.flight = some { txn := .startAdoption c k, discard := false } →
    (readWord r = none → ∃ t u, exec (.startUpAdoptionRead r) s = .next t ∧ State.passedOn c u t ∧
      u = { s with bus := { s.bus with chips := s.bus.chips.set c .faulted, probe := [] }
                   comm := s.comm.tells [([.panel], .chip c .faulted)] }) ∧
    (∀ w, readWord r = some w → ∀ h : k.val + 1 < 8, exec (.startUpAdoptionRead r) s = .next
      { s with bus := { s.bus with
          probe := s.bus.probe ++ [w]
          flight := some { txn := .startAdoption c ⟨k.val + 1, h⟩, discard := false } } }) ∧
    (∀ w, readWord r = some w → k = 7 → s.bus.probe.length = 7 →
      (∀ j, chipOf j = c → (s.moves.get j).move = .idle) →
      ∃ t u, exec (.startUpAdoptionRead r) s = .next t ∧ State.passedOn c u t ∧
        s.chipAdopted true c (s.bus.probe ++ [w]) u)

/-- START_UP_WRITE: a write that is taken, at once or by its verify read of 0, makes the input KNOWN at pad off and p = 0
with phantom OFF and leads to the next write, or, after the eighth, makes the chip OK and the pass goes on; any other
verify read leaves the chip FAULTED with its inputs UNCERTAIN, and the pass goes on. The LIMIT events of the inputs and
then the CHIP event are told of (their order is the model's, notes/assumptions/14.md, notes/assumptions/24.md). A pair that
so enters RAMPING has no mark of a ramp step, which is the model's own (notes/assumptions/4.md). That WRITE_DECIDED ends
such a write alone, with its verify read to follow, is the model's choice (notes/assumptions/16.md). -/
def Obligations.StartUpWritesMakeInputsKnown : Prop :=
  ∀ (c : Chip) (k : Channel) (s : State), s.bus.flight = some { txn := .startWrite c k, discard := false } →
    let known (u : State) : Prop :=
      u.bus = { s.bus with shadow := s.bus.shadow.set (inputAt c k) 0#8, flight := u.bus.flight, chips := u.bus.chips } ∧
      u.moves = s.moves.set (inputAt c k)
        { s.moves.get (inputAt c k) with setting := { pad := false, p := 0 }, failed := none, status := .known } ∧
      u.phantoms = s.phantoms.set (inputAt c k) { s.phantoms.get (inputAt c k) with phantom := .off } ∧
      (∀ who q, s.pair? who (inputAt c k) = some q → ∃ q', u.pair? who (inputAt c k) = some q' ∧ q.retargeted 0 q') ∧
      (∀ who i, i ≠ inputAt c k → u.pair? who i = s.pair? who i) ∧
      u = { s with bus := u.bus, moves := u.moves, phantoms := u.phantoms, pairs := u.pairs, comm := u.comm }
    (∀ reply v, (reply = some 0x06#8 ∨ readWord v = some 0#8) →
      (∀ h : k.val + 1 < 8, ∃ t, exec (.startUpWrite reply v) s = .next t ∧ known t ∧ t.bus.chips = s.bus.chips ∧
        t.bus.flight = some { txn := .startWrite c ⟨k.val + 1, h⟩, discard := false } ∧
        t.comm = s.comm.tells (s.limitsTold t (inputAt c k))) ∧
      (k = 7 → ∃ t u, exec (.startUpWrite reply v) s = .next t ∧ State.passedOn c u t ∧ known u ∧
        u.bus.chips = s.bus.chips.set c .ok ∧
        u.comm = s.comm.tells (s.limitsTold u (inputAt c k) ++ [([.panel], .chip c .ok)]))) ∧
    (∀ reply v, reply ≠ some 0x06#8 → readWord v ≠ some 0#8 → ∃ t u, exec (.startUpWrite reply v) s = .next t ∧
      State.passedOn c u t ∧ u.bus = { s.bus with chips := s.bus.chips.set c .faulted, probe := [] } ∧
      (∀ i, chipOf i = c → u.moves.get i =
        { s.moves.get i with
          status := .uncertain, move := .idle
          pending := match (s.moves.get i).pending with
            | some x => some x
            | none => (s.moves.get i).move.inFlight }) ∧
      (∀ i, chipOf i ≠ c → u.moves.get i = s.moves.get i) ∧
      (∀ who i q, s.pair? who i = some q → u.pair? who i = some
        { q with trimState := if chipOf i = c then .frozen else q.trimState }) ∧
      u.comm = s.comm.tells ((chipInputs c).flatMap (fun i => s.limitsTold u i) ++ [([.panel], .chip c .faulted)]) ∧
      u = { s with bus := u.bus, moves := u.moves, pairs := u.pairs, comm := u.comm }) ∧
    exec (.writeDecided 0x06#8) s = exec (.startUpWrite (some 0x06#8) .silent) s ∧
    (∀ b, b ≠ 0x06#8 → exec (.writeDecided b) s = .next
      { s with bus := { s.bus with flight := some { txn := .startVerify c k, discard := false } } })

/-- REPLY_TIMEOUT: a write is verified, and a read ends as its own rule gives for a read without an answer; the start-up
pass's verify read ends its write, timed out or not, in place of START_UP_WRITE (the model's choice,
notes/assumptions/16.md). The result of any transaction that a RESTART left on the wire is discarded, by whatever event of
its kind it ends, and the pass begins. That nothing ends with no transaction in flight is the model's choice too
(notes/assumptions/2.md), and so is the order in which a chip fault's events are told of (notes/assumptions/14.md,
notes/assumptions/24.md). -/
def Obligations.TimeoutsEndByTheirOwnRule : Prop :=
  ∀ s : State,
    (s.bus.flight = none → exec .replyTimeout s = .next s) ∧
    (∀ t, s.bus.flight = some { txn := t, discard := true } →
      let passBegins (c : Instr) := exec c s = .next
        { s with bus := { s.bus with flight := some { txn := .startIdentity 0, discard := false } } }
      passBegins .replyTimeout ∧
      (∀ b, ((∃ c old new, t = .write c old new) ∨ ∃ c k, t = .startWrite c k) → passBegins (.writeDecided b)) ∧
      (∀ r, ((∃ c old new, t = .verify c old new) ∨ ∃ c k, t = .startVerify c k) → passBegins (.verifyRead r)) ∧
      (∀ r, (∃ i, t = .status i) → passBegins (.statusRead r)) ∧
      (∀ r, (∃ c, t = .identity c) → passBegins (.identityRead r)) ∧
      (∀ r, (∃ c k, t = .adoption c k) → passBegins (.adoptionRead r)) ∧
      (∀ r, (∃ c, t = .startIdentity c) → passBegins (.startUpIdentityRead r)) ∧
      (∀ b r, (∃ c k, t = .startWrite c k ∨ t = .startVerify c k) → passBegins (.startUpWrite b r)) ∧
      (∀ r, (∃ c k, t = .startAdoption c k) → passBegins (.startUpAdoptionRead r))) ∧
    (∀ c old new reads writes, s.bus.flight = some { txn := .write c old new, discard := false } →
      s.bus.queue = reads ++ writes → (∀ e ∈ reads, e.isWrite = false) →
      (∀ e, writes.head? = some e → e.isWrite = true) → exec .replyTimeout s = .next (State.beginNext
        { s with bus := { s.bus with queue := reads ++ .verify c old new :: writes } })) ∧
    (∀ c old new, s.bus.flight = some { txn := .verify c old new, discard := false } →
      ∃ t, exec .replyTimeout s = .next (State.beginNext t) ∧ s.chipFaulted (chipOf c.input) t) ∧
    (∀ i, s.bus.flight = some { txn := .status i, discard := false } →
      ∃ t, exec .replyTimeout s = .next (State.beginNext t) ∧
        State.chipFaulted (chipOf i) { s with bus := { s.bus with pollPos := nextInput i } } t) ∧
    (∀ c, s.bus.flight = some { txn := .identity c, discard := false } → exec .replyTimeout s = .next (State.beginNext
      { s with bus := { s.bus with pollPos := afterChip c } })) ∧
    (∀ c k, s.bus.flight = some { txn := .adoption c k, discard := false } →
      exec .replyTimeout s = .next (State.beginNext
        { s with bus := { s.bus with
            chips := s.bus.chips.set c .faulted
            probe := []
            queue := s.bus.queue.filter fun e => !e.adopts c } })) ∧
    (∀ c k, s.bus.flight = some { txn := .startWrite c k, discard := false } → exec .replyTimeout s = .next
      { s with bus := { s.bus with flight := some { txn := .startVerify c k, discard := false } } }) ∧
    (∀ c k, s.bus.flight = some { txn := .startVerify c k, discard := false } →
      exec .replyTimeout s = exec (.startUpWrite none .silent) s ∧
        ∀ r, exec (.verifyRead r) s = exec (.startUpWrite none r) s) ∧
    (∀ c k, (s.bus.flight = some { txn := .startIdentity c, discard := false } ∨
        s.bus.flight = some { txn := .startAdoption c k, discard := false }) →
      ∃ t u, exec .replyTimeout s = .next t ∧ State.passedOn c u t ∧
        u = { s with bus := { s.bus with chips := s.bus.chips.set c .faulted, probe := [] }
                     comm := s.comm.tells [([.panel], .chip c .faulted)] })

/-! ## What every step keeps -/

/-- Every step keeps the arbiter, the consumer table, the parties and the ports' timers in order. -/
def Obligations.EveryStepKeepsOwnersAndTable : Prop :=
  ∀ s t : State, s.ownersOk → s.tableOk → s.partiesOk → s.timersOk → step s = .next t →
    t.ownersOk ∧ t.tableOk ∧ t.partiesOk ∧ t.timersOk

/-- Every step keeps every gate in order and turned toward its requirement. -/
def Obligations.EveryStepKeepsGates : Prop := ∀ s t : State, s.gatesOk → step s = .next t → t.gatesOk

/-- Every step keeps within their bounds the levels, trims, targets, phases and saturation counts, D and the landing counts,
the clip counts, the receive and transmit queues (512 characters and 512 bytes) and counters, and the names. The premises on
the table and the timers are ones that every step keeps. -/
def Obligations.EveryStepKeepsNumbers : Prop :=
  ∀ s t : State, s.tableOk → s.timersOk → s.numbersOk → step s = .next t → t.numbersOk

/-- Every step keeps every setting and every channel word within the analog domain. -/
def Obligations.EveryStepKeepsWords : Prop := ∀ s t : State, s.wordsOk → step s = .next t → t.wordsOk

/-- What the steps keep holds right after reset. -/
def Obligations.ResetIsInOrder : Prop :=
  State.reset.ownersOk ∧ State.reset.tableOk ∧ State.reset.partiesOk ∧ State.reset.timersOk ∧ State.reset.gatesOk ∧
    State.reset.numbersOk ∧ State.reset.wordsOk
end

