-- ==== Sys2Proof/Laws/Tab.lean ====
section
/-! SUPPORT. The laws of `Tab`: what each operation leaves in each cell. -/

namespace Sys2Proof

variable {n : Nat} {α β : Type}

@[simp] theorem Tab.get_set_self (t : Tab n α) (i : Fin n) (x : α) : (t.set i x).get i = x := by
  simp [Tab.get, Tab.set]

theorem Tab.get_set_ne (t : Tab n α) {i j : Fin n} (h : j ≠ i) (x : α) : (t.set i x).get j = t.get j := by
  have hv : ¬ i.val = j.val := fun e => h (Fin.ext e.symm)
  simp [Tab.get, Tab.set, hv]

/-- What a replaced cell leaves at every index. -/
theorem Tab.get_set (t : Tab n α) (i j : Fin n) (x : α) : (t.set i x).get j = if j = i then x else t.get j := by
  split
  · subst_vars; simp
  · exact Tab.get_set_ne t ‹_› x

@[simp] theorem Tab.get_modify_self (t : Tab n α) (i : Fin n) (f : α → α) : (t.modify i f).get i = f (t.get i) := by
  simp [Tab.modify]

theorem Tab.get_modify_ne (t : Tab n α) {i j : Fin n} (h : j ≠ i) (f : α → α) : (t.modify i f).get j = t.get j := by
  simp [Tab.modify, Tab.get_set_ne _ h]

/-- What a changed cell leaves at every index. -/
theorem Tab.get_modify (t : Tab n α) (i j : Fin n) (f : α → α) :
    (t.modify i f).get j = if j = i then f (t.get j) else t.get j := by
  split
  · subst_vars; simp
  · exact Tab.get_modify_ne t ‹_› f

@[simp] theorem Tab.get_ofFn (f : Fin n → α) (i : Fin n) : (Tab.ofFn f).get i = f i := by
  simp [Tab.get, Tab.ofFn]

@[simp] theorem Tab.get_const (x : α) (i : Fin n) : (Tab.const n x).get i = x := by
  simp [Tab.get, Tab.const]

@[simp] theorem Tab.get_map (t : Tab n α) (f : α → β) (i : Fin n) : (t.map f).get i = f (t.get i) := by
  simp [Tab.get, Tab.map]

@[simp] theorem Tab.get_imap (t : Tab n α) (f : Fin n → α → β) (i : Fin n) : (t.imap f).get i = f i (t.get i) := by
  simp [Tab.imap]

/-- Tables with the same cells are the same table. -/
theorem Tab.ext_get {t u : Tab n α} (h : ∀ i, t.get i = u.get i) : t = u := by
  obtain ⟨a, ha⟩ := t
  obtain ⟨b, hb⟩ := u
  have : a = b := by
    apply List.ext_getElem (by rw [ha, hb])
    intro k h1 h2
    exact h ⟨k, by rw [← ha]; exact h1⟩
  subst this
  rfl

@[simp] theorem Tab.set_get_self (t : Tab n α) (i : Fin n) : t.set i (t.get i) = t :=
  Tab.ext_get fun j => by rw [Tab.get_set]; split <;> simp_all

@[simp] theorem Tab.set_set (t : Tab n α) (i : Fin n) (x y : α) : (t.set i x).set i y = t.set i y :=
  Tab.ext_get fun j => by simp only [Tab.get_set]; split <;> rfl

/-- Changing a cell twice is changing it once by both functions. -/
theorem Tab.modify_modify (t : Tab n α) (i : Fin n) (f g : α → α) :
    (t.modify i f).modify i g = t.modify i fun x => g (f x) :=
  Tab.ext_get fun j => by simp only [Tab.get_modify]; split <;> rfl

/-- A change that leaves the cell's value leaves the table. -/
theorem Tab.modify_id (t : Tab n α) (i : Fin n) {f : α → α} (h : f (t.get i) = t.get i) : t.modify i f = t := by
  simp [Tab.modify, h]

/-- A fold whose every turn keeps a quantity keeps it. -/
theorem foldl_keeps {σ α β : Type} (f : σ → α → σ) (g : σ → β) (h : ∀ s a, g (f s a) = g s) (l : List α) (s : σ) :
    g (l.foldl f s) = g s := by
  induction l generalizing s with
  | nil => rfl
  | cons a l ih => simp [ih, h]

/-- A fold whose every turn keeps a property keeps it. -/
theorem foldl_inv {σ α : Type} (f : σ → α → σ) (P : σ → Prop) (h : ∀ s a, P s → P (f s a)) (l : List α) (s : σ)
    (hs : P s) : P (l.foldl f s) := by
  induction l generalizing s with
  | nil => exact hs
  | cons a l ih => exact ih _ (h _ _ hs)

end Sys2Proof
end

