-- ==== Sys2Proof/Laws/State.lean ====
section
/-! SUPPORT. The fields that each update of one part of `State` leaves as they are, one lemma for each update and field,
true by definition. `State.o_f` says that the operation `o` leaves the field `f`. -/

namespace Sys2Proof.Machine

/-! `State.modOwn` -/

@[simp] theorem State.modOwn_pending (i : Input) (f : Ownership → Ownership) (s : State) :
    (s.modOwn i f).pending = s.pending := rfl
@[simp] theorem State.modOwn_rate (i : Input) (f : Ownership → Ownership) (s : State) : (s.modOwn i f).rate = s.rate := rfl
@[simp] theorem State.modOwn_align (i : Input) (f : Ownership → Ownership) (s : State) :
    (s.modOwn i f).align = s.align := rfl
@[simp] theorem State.modOwn_rx (i : Input) (f : Ownership → Ownership) (s : State) : (s.modOwn i f).rx = s.rx := rfl
@[simp] theorem State.modOwn_comm (i : Input) (f : Ownership → Ownership) (s : State) : (s.modOwn i f).comm = s.comm := rfl
@[simp] theorem State.modOwn_ports (i : Input) (f : Ownership → Ownership) (s : State) :
    (s.modOwn i f).ports = s.ports := rfl
@[simp] theorem State.modOwn_streams (i : Input) (f : Ownership → Ownership) (s : State) :
    (s.modOwn i f).streams = s.streams := rfl
@[simp] theorem State.modOwn_entries (i : Input) (f : Ownership → Ownership) (s : State) :
    (s.modOwn i f).entries = s.entries := rfl
@[simp] theorem State.modOwn_pairs (i : Input) (f : Ownership → Ownership) (s : State) :
    (s.modOwn i f).pairs = s.pairs := rfl
@[simp] theorem State.modOwn_moves (i : Input) (f : Ownership → Ownership) (s : State) :
    (s.modOwn i f).moves = s.moves := rfl
@[simp] theorem State.modOwn_phantoms (i : Input) (f : Ownership → Ownership) (s : State) :
    (s.modOwn i f).phantoms = s.phantoms := rfl
@[simp] theorem State.modOwn_bus (i : Input) (f : Ownership → Ownership) (s : State) : (s.modOwn i f).bus = s.bus := rfl
@[simp] theorem State.modOwn_restart (i : Input) (f : Ownership → Ownership) (s : State) :
    (s.modOwn i f).restart = s.restart := rfl
@[simp] theorem State.modOwn_clock (i : Input) (f : Ownership → Ownership) (s : State) :
    (s.modOwn i f).clock = s.clock := rfl
@[simp] theorem State.modOwn_draws (i : Input) (f : Ownership → Ownership) (s : State) :
    (s.modOwn i f).draws = s.draws := rfl

/-! `State.modMove` -/

@[simp] theorem State.modMove_pending (i : Input) (f : MoveCtl → MoveCtl) (s : State) :
    (s.modMove i f).pending = s.pending := rfl
@[simp] theorem State.modMove_rate (i : Input) (f : MoveCtl → MoveCtl) (s : State) : (s.modMove i f).rate = s.rate := rfl
@[simp] theorem State.modMove_align (i : Input) (f : MoveCtl → MoveCtl) (s : State) : (s.modMove i f).align = s.align := rfl
@[simp] theorem State.modMove_rx (i : Input) (f : MoveCtl → MoveCtl) (s : State) : (s.modMove i f).rx = s.rx := rfl
@[simp] theorem State.modMove_comm (i : Input) (f : MoveCtl → MoveCtl) (s : State) : (s.modMove i f).comm = s.comm := rfl
@[simp] theorem State.modMove_ports (i : Input) (f : MoveCtl → MoveCtl) (s : State) : (s.modMove i f).ports = s.ports := rfl
@[simp] theorem State.modMove_streams (i : Input) (f : MoveCtl → MoveCtl) (s : State) :
    (s.modMove i f).streams = s.streams := rfl
@[simp] theorem State.modMove_entries (i : Input) (f : MoveCtl → MoveCtl) (s : State) :
    (s.modMove i f).entries = s.entries := rfl
@[simp] theorem State.modMove_pairs (i : Input) (f : MoveCtl → MoveCtl) (s : State) : (s.modMove i f).pairs = s.pairs := rfl
@[simp] theorem State.modMove_own (i : Input) (f : MoveCtl → MoveCtl) (s : State) : (s.modMove i f).own = s.own := rfl
@[simp] theorem State.modMove_phantoms (i : Input) (f : MoveCtl → MoveCtl) (s : State) :
    (s.modMove i f).phantoms = s.phantoms := rfl
@[simp] theorem State.modMove_bus (i : Input) (f : MoveCtl → MoveCtl) (s : State) : (s.modMove i f).bus = s.bus := rfl
@[simp] theorem State.modMove_restart (i : Input) (f : MoveCtl → MoveCtl) (s : State) :
    (s.modMove i f).restart = s.restart := rfl
@[simp] theorem State.modMove_clock (i : Input) (f : MoveCtl → MoveCtl) (s : State) : (s.modMove i f).clock = s.clock := rfl
@[simp] theorem State.modMove_draws (i : Input) (f : MoveCtl → MoveCtl) (s : State) : (s.modMove i f).draws = s.draws := rfl

/-! `State.modPhantom` -/

@[simp] theorem State.modPhantom_pending (i : Input) (f : PhantomCtl → PhantomCtl) (s : State) :
    (s.modPhantom i f).pending = s.pending := rfl
@[simp] theorem State.modPhantom_rate (i : Input) (f : PhantomCtl → PhantomCtl) (s : State) :
    (s.modPhantom i f).rate = s.rate := rfl
@[simp] theorem State.modPhantom_align (i : Input) (f : PhantomCtl → PhantomCtl) (s : State) :
    (s.modPhantom i f).align = s.align := rfl
@[simp] theorem State.modPhantom_rx (i : Input) (f : PhantomCtl → PhantomCtl) (s : State) :
    (s.modPhantom i f).rx = s.rx := rfl
@[simp] theorem State.modPhantom_comm (i : Input) (f : PhantomCtl → PhantomCtl) (s : State) :
    (s.modPhantom i f).comm = s.comm := rfl
@[simp] theorem State.modPhantom_ports (i : Input) (f : PhantomCtl → PhantomCtl) (s : State) :
    (s.modPhantom i f).ports = s.ports := rfl
@[simp] theorem State.modPhantom_streams (i : Input) (f : PhantomCtl → PhantomCtl) (s : State) :
    (s.modPhantom i f).streams = s.streams := rfl
@[simp] theorem State.modPhantom_entries (i : Input) (f : PhantomCtl → PhantomCtl) (s : State) :
    (s.modPhantom i f).entries = s.entries := rfl
@[simp] theorem State.modPhantom_pairs (i : Input) (f : PhantomCtl → PhantomCtl) (s : State) :
    (s.modPhantom i f).pairs = s.pairs := rfl
@[simp] theorem State.modPhantom_own (i : Input) (f : PhantomCtl → PhantomCtl) (s : State) :
    (s.modPhantom i f).own = s.own := rfl
@[simp] theorem State.modPhantom_moves (i : Input) (f : PhantomCtl → PhantomCtl) (s : State) :
    (s.modPhantom i f).moves = s.moves := rfl
@[simp] theorem State.modPhantom_bus (i : Input) (f : PhantomCtl → PhantomCtl) (s : State) :
    (s.modPhantom i f).bus = s.bus := rfl
@[simp] theorem State.modPhantom_restart (i : Input) (f : PhantomCtl → PhantomCtl) (s : State) :
    (s.modPhantom i f).restart = s.restart := rfl
@[simp] theorem State.modPhantom_clock (i : Input) (f : PhantomCtl → PhantomCtl) (s : State) :
    (s.modPhantom i f).clock = s.clock := rfl
@[simp] theorem State.modPhantom_draws (i : Input) (f : PhantomCtl → PhantomCtl) (s : State) :
    (s.modPhantom i f).draws = s.draws := rfl

/-! `State.modPort` -/

@[simp] theorem State.modPort_pending (p : Port) (f : LinkPort → LinkPort) (s : State) :
    (s.modPort p f).pending = s.pending := rfl
@[simp] theorem State.modPort_rate (p : Port) (f : LinkPort → LinkPort) (s : State) : (s.modPort p f).rate = s.rate := rfl
@[simp] theorem State.modPort_align (p : Port) (f : LinkPort → LinkPort) (s : State) :
    (s.modPort p f).align = s.align := rfl
@[simp] theorem State.modPort_rx (p : Port) (f : LinkPort → LinkPort) (s : State) : (s.modPort p f).rx = s.rx := rfl
@[simp] theorem State.modPort_comm (p : Port) (f : LinkPort → LinkPort) (s : State) : (s.modPort p f).comm = s.comm := rfl
@[simp] theorem State.modPort_streams (p : Port) (f : LinkPort → LinkPort) (s : State) :
    (s.modPort p f).streams = s.streams := rfl
@[simp] theorem State.modPort_entries (p : Port) (f : LinkPort → LinkPort) (s : State) :
    (s.modPort p f).entries = s.entries := rfl
@[simp] theorem State.modPort_pairs (p : Port) (f : LinkPort → LinkPort) (s : State) :
    (s.modPort p f).pairs = s.pairs := rfl
@[simp] theorem State.modPort_own (p : Port) (f : LinkPort → LinkPort) (s : State) : (s.modPort p f).own = s.own := rfl
@[simp] theorem State.modPort_moves (p : Port) (f : LinkPort → LinkPort) (s : State) :
    (s.modPort p f).moves = s.moves := rfl
@[simp] theorem State.modPort_phantoms (p : Port) (f : LinkPort → LinkPort) (s : State) :
    (s.modPort p f).phantoms = s.phantoms := rfl
@[simp] theorem State.modPort_bus (p : Port) (f : LinkPort → LinkPort) (s : State) : (s.modPort p f).bus = s.bus := rfl
@[simp] theorem State.modPort_restart (p : Port) (f : LinkPort → LinkPort) (s : State) :
    (s.modPort p f).restart = s.restart := rfl
@[simp] theorem State.modPort_clock (p : Port) (f : LinkPort → LinkPort) (s : State) :
    (s.modPort p f).clock = s.clock := rfl
@[simp] theorem State.modPort_draws (p : Port) (f : LinkPort → LinkPort) (s : State) :
    (s.modPort p f).draws = s.draws := rfl

/-! `State.modRx` -/

@[simp] theorem State.modRx_pending (l : LaneId) (f : RxSide → RxSide) (s : State) :
    (s.modRx l f).pending = s.pending := rfl
@[simp] theorem State.modRx_rate (l : LaneId) (f : RxSide → RxSide) (s : State) : (s.modRx l f).rate = s.rate := rfl
@[simp] theorem State.modRx_align (l : LaneId) (f : RxSide → RxSide) (s : State) : (s.modRx l f).align = s.align := rfl
@[simp] theorem State.modRx_comm (l : LaneId) (f : RxSide → RxSide) (s : State) : (s.modRx l f).comm = s.comm := rfl
@[simp] theorem State.modRx_ports (l : LaneId) (f : RxSide → RxSide) (s : State) : (s.modRx l f).ports = s.ports := rfl
@[simp] theorem State.modRx_streams (l : LaneId) (f : RxSide → RxSide) (s : State) :
    (s.modRx l f).streams = s.streams := rfl
@[simp] theorem State.modRx_entries (l : LaneId) (f : RxSide → RxSide) (s : State) :
    (s.modRx l f).entries = s.entries := rfl
@[simp] theorem State.modRx_pairs (l : LaneId) (f : RxSide → RxSide) (s : State) : (s.modRx l f).pairs = s.pairs := rfl
@[simp] theorem State.modRx_own (l : LaneId) (f : RxSide → RxSide) (s : State) : (s.modRx l f).own = s.own := rfl
@[simp] theorem State.modRx_moves (l : LaneId) (f : RxSide → RxSide) (s : State) : (s.modRx l f).moves = s.moves := rfl
@[simp] theorem State.modRx_phantoms (l : LaneId) (f : RxSide → RxSide) (s : State) :
    (s.modRx l f).phantoms = s.phantoms := rfl
@[simp] theorem State.modRx_bus (l : LaneId) (f : RxSide → RxSide) (s : State) : (s.modRx l f).bus = s.bus := rfl
@[simp] theorem State.modRx_restart (l : LaneId) (f : RxSide → RxSide) (s : State) :
    (s.modRx l f).restart = s.restart := rfl
@[simp] theorem State.modRx_clock (l : LaneId) (f : RxSide → RxSide) (s : State) : (s.modRx l f).clock = s.clock := rfl
@[simp] theorem State.modRx_draws (l : LaneId) (f : RxSide → RxSide) (s : State) : (s.modRx l f).draws = s.draws := rfl

/-! `State.modTx` -/

@[simp] theorem State.modTx_pending (l : LaneId) (f : TxSide → TxSide) (s : State) :
    (s.modTx l f).pending = s.pending := rfl
@[simp] theorem State.modTx_rate (l : LaneId) (f : TxSide → TxSide) (s : State) : (s.modTx l f).rate = s.rate := rfl
@[simp] theorem State.modTx_align (l : LaneId) (f : TxSide → TxSide) (s : State) : (s.modTx l f).align = s.align := rfl
@[simp] theorem State.modTx_rx (l : LaneId) (f : TxSide → TxSide) (s : State) : (s.modTx l f).rx = s.rx := rfl
@[simp] theorem State.modTx_ports (l : LaneId) (f : TxSide → TxSide) (s : State) : (s.modTx l f).ports = s.ports := rfl
@[simp] theorem State.modTx_streams (l : LaneId) (f : TxSide → TxSide) (s : State) :
    (s.modTx l f).streams = s.streams := rfl
@[simp] theorem State.modTx_entries (l : LaneId) (f : TxSide → TxSide) (s : State) :
    (s.modTx l f).entries = s.entries := rfl
@[simp] theorem State.modTx_pairs (l : LaneId) (f : TxSide → TxSide) (s : State) : (s.modTx l f).pairs = s.pairs := rfl
@[simp] theorem State.modTx_own (l : LaneId) (f : TxSide → TxSide) (s : State) : (s.modTx l f).own = s.own := rfl
@[simp] theorem State.modTx_moves (l : LaneId) (f : TxSide → TxSide) (s : State) : (s.modTx l f).moves = s.moves := rfl
@[simp] theorem State.modTx_phantoms (l : LaneId) (f : TxSide → TxSide) (s : State) :
    (s.modTx l f).phantoms = s.phantoms := rfl
@[simp] theorem State.modTx_bus (l : LaneId) (f : TxSide → TxSide) (s : State) : (s.modTx l f).bus = s.bus := rfl
@[simp] theorem State.modTx_restart (l : LaneId) (f : TxSide → TxSide) (s : State) :
    (s.modTx l f).restart = s.restart := rfl
@[simp] theorem State.modTx_clock (l : LaneId) (f : TxSide → TxSide) (s : State) : (s.modTx l f).clock = s.clock := rfl
@[simp] theorem State.modTx_draws (l : LaneId) (f : TxSide → TxSide) (s : State) : (s.modTx l f).draws = s.draws := rfl

/-! `State.modBus` -/

@[simp] theorem State.modBus_pending (f : Bus → Bus) (s : State) : (s.modBus f).pending = s.pending := rfl
@[simp] theorem State.modBus_rate (f : Bus → Bus) (s : State) : (s.modBus f).rate = s.rate := rfl
@[simp] theorem State.modBus_align (f : Bus → Bus) (s : State) : (s.modBus f).align = s.align := rfl
@[simp] theorem State.modBus_rx (f : Bus → Bus) (s : State) : (s.modBus f).rx = s.rx := rfl
@[simp] theorem State.modBus_comm (f : Bus → Bus) (s : State) : (s.modBus f).comm = s.comm := rfl
@[simp] theorem State.modBus_ports (f : Bus → Bus) (s : State) : (s.modBus f).ports = s.ports := rfl
@[simp] theorem State.modBus_streams (f : Bus → Bus) (s : State) : (s.modBus f).streams = s.streams := rfl
@[simp] theorem State.modBus_entries (f : Bus → Bus) (s : State) : (s.modBus f).entries = s.entries := rfl
@[simp] theorem State.modBus_pairs (f : Bus → Bus) (s : State) : (s.modBus f).pairs = s.pairs := rfl
@[simp] theorem State.modBus_own (f : Bus → Bus) (s : State) : (s.modBus f).own = s.own := rfl
@[simp] theorem State.modBus_moves (f : Bus → Bus) (s : State) : (s.modBus f).moves = s.moves := rfl
@[simp] theorem State.modBus_phantoms (f : Bus → Bus) (s : State) : (s.modBus f).phantoms = s.phantoms := rfl
@[simp] theorem State.modBus_restart (f : Bus → Bus) (s : State) : (s.modBus f).restart = s.restart := rfl
@[simp] theorem State.modBus_clock (f : Bus → Bus) (s : State) : (s.modBus f).clock = s.clock := rfl
@[simp] theorem State.modBus_draws (f : Bus → Bus) (s : State) : (s.modBus f).draws = s.draws := rfl

/-! `State.raise` -/

@[simp] theorem State.raise_pending (lanes : List LaneId) (n : Notice) (s : State) :
    (s.raise lanes n).pending = s.pending := rfl
@[simp] theorem State.raise_rate (lanes : List LaneId) (n : Notice) (s : State) : (s.raise lanes n).rate = s.rate := rfl
@[simp] theorem State.raise_align (lanes : List LaneId) (n : Notice) (s : State) : (s.raise lanes n).align = s.align := rfl
@[simp] theorem State.raise_rx (lanes : List LaneId) (n : Notice) (s : State) : (s.raise lanes n).rx = s.rx := rfl
@[simp] theorem State.raise_ports (lanes : List LaneId) (n : Notice) (s : State) : (s.raise lanes n).ports = s.ports := rfl
@[simp] theorem State.raise_streams (lanes : List LaneId) (n : Notice) (s : State) :
    (s.raise lanes n).streams = s.streams := rfl
@[simp] theorem State.raise_entries (lanes : List LaneId) (n : Notice) (s : State) :
    (s.raise lanes n).entries = s.entries := rfl
@[simp] theorem State.raise_pairs (lanes : List LaneId) (n : Notice) (s : State) : (s.raise lanes n).pairs = s.pairs := rfl
@[simp] theorem State.raise_own (lanes : List LaneId) (n : Notice) (s : State) : (s.raise lanes n).own = s.own := rfl
@[simp] theorem State.raise_moves (lanes : List LaneId) (n : Notice) (s : State) : (s.raise lanes n).moves = s.moves := rfl
@[simp] theorem State.raise_phantoms (lanes : List LaneId) (n : Notice) (s : State) :
    (s.raise lanes n).phantoms = s.phantoms := rfl
@[simp] theorem State.raise_bus (lanes : List LaneId) (n : Notice) (s : State) : (s.raise lanes n).bus = s.bus := rfl
@[simp] theorem State.raise_restart (lanes : List LaneId) (n : Notice) (s : State) :
    (s.raise lanes n).restart = s.restart := rfl
@[simp] theorem State.raise_clock (lanes : List LaneId) (n : Notice) (s : State) : (s.raise lanes n).clock = s.clock := rfl
@[simp] theorem State.raise_draws (lanes : List LaneId) (n : Notice) (s : State) : (s.raise lanes n).draws = s.draws := rfl

/-! `State.broadcast` -/

@[simp] theorem State.broadcast_pending (n : Notice) (s : State) : (s.broadcast n).pending = s.pending := rfl
@[simp] theorem State.broadcast_rate (n : Notice) (s : State) : (s.broadcast n).rate = s.rate := rfl
@[simp] theorem State.broadcast_align (n : Notice) (s : State) : (s.broadcast n).align = s.align := rfl
@[simp] theorem State.broadcast_rx (n : Notice) (s : State) : (s.broadcast n).rx = s.rx := rfl
@[simp] theorem State.broadcast_ports (n : Notice) (s : State) : (s.broadcast n).ports = s.ports := rfl
@[simp] theorem State.broadcast_streams (n : Notice) (s : State) : (s.broadcast n).streams = s.streams := rfl
@[simp] theorem State.broadcast_entries (n : Notice) (s : State) : (s.broadcast n).entries = s.entries := rfl
@[simp] theorem State.broadcast_pairs (n : Notice) (s : State) : (s.broadcast n).pairs = s.pairs := rfl
@[simp] theorem State.broadcast_own (n : Notice) (s : State) : (s.broadcast n).own = s.own := rfl
@[simp] theorem State.broadcast_moves (n : Notice) (s : State) : (s.broadcast n).moves = s.moves := rfl
@[simp] theorem State.broadcast_phantoms (n : Notice) (s : State) : (s.broadcast n).phantoms = s.phantoms := rfl
@[simp] theorem State.broadcast_bus (n : Notice) (s : State) : (s.broadcast n).bus = s.bus := rfl
@[simp] theorem State.broadcast_restart (n : Notice) (s : State) : (s.broadcast n).restart = s.restart := rfl
@[simp] theorem State.broadcast_clock (n : Notice) (s : State) : (s.broadcast n).clock = s.clock := rfl
@[simp] theorem State.broadcast_draws (n : Notice) (s : State) : (s.broadcast n).draws = s.draws := rfl

/-! `State.send` -/

@[simp] theorem State.send_pending (l : LaneId) (body : List Byte) (s : State) : (s.send l body).pending = s.pending := rfl
@[simp] theorem State.send_rate (l : LaneId) (body : List Byte) (s : State) : (s.send l body).rate = s.rate := rfl
@[simp] theorem State.send_align (l : LaneId) (body : List Byte) (s : State) : (s.send l body).align = s.align := rfl
@[simp] theorem State.send_rx (l : LaneId) (body : List Byte) (s : State) : (s.send l body).rx = s.rx := rfl
@[simp] theorem State.send_ports (l : LaneId) (body : List Byte) (s : State) : (s.send l body).ports = s.ports := rfl
@[simp] theorem State.send_streams (l : LaneId) (body : List Byte) (s : State) : (s.send l body).streams = s.streams := rfl
@[simp] theorem State.send_entries (l : LaneId) (body : List Byte) (s : State) : (s.send l body).entries = s.entries := rfl
@[simp] theorem State.send_pairs (l : LaneId) (body : List Byte) (s : State) : (s.send l body).pairs = s.pairs := rfl
@[simp] theorem State.send_own (l : LaneId) (body : List Byte) (s : State) : (s.send l body).own = s.own := rfl
@[simp] theorem State.send_moves (l : LaneId) (body : List Byte) (s : State) : (s.send l body).moves = s.moves := rfl
@[simp] theorem State.send_phantoms (l : LaneId) (body : List Byte) (s : State) :
    (s.send l body).phantoms = s.phantoms := rfl
@[simp] theorem State.send_bus (l : LaneId) (body : List Byte) (s : State) : (s.send l body).bus = s.bus := rfl
@[simp] theorem State.send_restart (l : LaneId) (body : List Byte) (s : State) : (s.send l body).restart = s.restart := rfl
@[simp] theorem State.send_clock (l : LaneId) (body : List Byte) (s : State) : (s.send l body).clock = s.clock := rfl
@[simp] theorem State.send_draws (l : LaneId) (body : List Byte) (s : State) : (s.send l body).draws = s.draws := rfl

/-! `State.updatePair` -/

@[simp] theorem State.updatePair_pending (who : Party) (i : Input) (f : Pair → Pair) (s : State) :
    (s.updatePair who i f).pending = s.pending := rfl
@[simp] theorem State.updatePair_rate (who : Party) (i : Input) (f : Pair → Pair) (s : State) :
    (s.updatePair who i f).rate = s.rate := rfl
@[simp] theorem State.updatePair_align (who : Party) (i : Input) (f : Pair → Pair) (s : State) :
    (s.updatePair who i f).align = s.align := rfl
@[simp] theorem State.updatePair_rx (who : Party) (i : Input) (f : Pair → Pair) (s : State) :
    (s.updatePair who i f).rx = s.rx := rfl
@[simp] theorem State.updatePair_ports (who : Party) (i : Input) (f : Pair → Pair) (s : State) :
    (s.updatePair who i f).ports = s.ports := rfl
@[simp] theorem State.updatePair_streams (who : Party) (i : Input) (f : Pair → Pair) (s : State) :
    (s.updatePair who i f).streams = s.streams := rfl
@[simp] theorem State.updatePair_entries (who : Party) (i : Input) (f : Pair → Pair) (s : State) :
    (s.updatePair who i f).entries = s.entries := rfl
@[simp] theorem State.updatePair_own (who : Party) (i : Input) (f : Pair → Pair) (s : State) :
    (s.updatePair who i f).own = s.own := rfl
@[simp] theorem State.updatePair_moves (who : Party) (i : Input) (f : Pair → Pair) (s : State) :
    (s.updatePair who i f).moves = s.moves := rfl
@[simp] theorem State.updatePair_phantoms (who : Party) (i : Input) (f : Pair → Pair) (s : State) :
    (s.updatePair who i f).phantoms = s.phantoms := rfl
@[simp] theorem State.updatePair_bus (who : Party) (i : Input) (f : Pair → Pair) (s : State) :
    (s.updatePair who i f).bus = s.bus := rfl
@[simp] theorem State.updatePair_restart (who : Party) (i : Input) (f : Pair → Pair) (s : State) :
    (s.updatePair who i f).restart = s.restart := rfl
@[simp] theorem State.updatePair_clock (who : Party) (i : Input) (f : Pair → Pair) (s : State) :
    (s.updatePair who i f).clock = s.clock := rfl
@[simp] theorem State.updatePair_draws (who : Party) (i : Input) (f : Pair → Pair) (s : State) :
    (s.updatePair who i f).draws = s.draws := rfl

/-! `State.updatePairs` -/

@[simp] theorem State.updatePairs_pending (i : Input) (f : Pair → Pair) (s : State) :
    (s.updatePairs i f).pending = s.pending := rfl
@[simp] theorem State.updatePairs_rate (i : Input) (f : Pair → Pair) (s : State) : (s.updatePairs i f).rate = s.rate := rfl
@[simp] theorem State.updatePairs_align (i : Input) (f : Pair → Pair) (s : State) :
    (s.updatePairs i f).align = s.align := rfl
@[simp] theorem State.updatePairs_rx (i : Input) (f : Pair → Pair) (s : State) : (s.updatePairs i f).rx = s.rx := rfl
@[simp] theorem State.updatePairs_ports (i : Input) (f : Pair → Pair) (s : State) :
    (s.updatePairs i f).ports = s.ports := rfl
@[simp] theorem State.updatePairs_streams (i : Input) (f : Pair → Pair) (s : State) :
    (s.updatePairs i f).streams = s.streams := rfl
@[simp] theorem State.updatePairs_entries (i : Input) (f : Pair → Pair) (s : State) :
    (s.updatePairs i f).entries = s.entries := rfl
@[simp] theorem State.updatePairs_own (i : Input) (f : Pair → Pair) (s : State) : (s.updatePairs i f).own = s.own := rfl
@[simp] theorem State.updatePairs_moves (i : Input) (f : Pair → Pair) (s : State) :
    (s.updatePairs i f).moves = s.moves := rfl
@[simp] theorem State.updatePairs_phantoms (i : Input) (f : Pair → Pair) (s : State) :
    (s.updatePairs i f).phantoms = s.phantoms := rfl
@[simp] theorem State.updatePairs_bus (i : Input) (f : Pair → Pair) (s : State) : (s.updatePairs i f).bus = s.bus := rfl
@[simp] theorem State.updatePairs_restart (i : Input) (f : Pair → Pair) (s : State) :
    (s.updatePairs i f).restart = s.restart := rfl
@[simp] theorem State.updatePairs_clock (i : Input) (f : Pair → Pair) (s : State) :
    (s.updatePairs i f).clock = s.clock := rfl
@[simp] theorem State.updatePairs_draws (i : Input) (f : Pair → Pair) (s : State) :
    (s.updatePairs i f).draws = s.draws := rfl

/-! `State.updateAllPairs` -/

@[simp] theorem State.updateAllPairs_pending (f : Input → Pair → Pair) (s : State) :
    (s.updateAllPairs f).pending = s.pending := rfl
@[simp] theorem State.updateAllPairs_rate (f : Input → Pair → Pair) (s : State) : (s.updateAllPairs f).rate = s.rate := rfl
@[simp] theorem State.updateAllPairs_align (f : Input → Pair → Pair) (s : State) :
    (s.updateAllPairs f).align = s.align := rfl
@[simp] theorem State.updateAllPairs_rx (f : Input → Pair → Pair) (s : State) : (s.updateAllPairs f).rx = s.rx := rfl
@[simp] theorem State.updateAllPairs_ports (f : Input → Pair → Pair) (s : State) :
    (s.updateAllPairs f).ports = s.ports := rfl
@[simp] theorem State.updateAllPairs_streams (f : Input → Pair → Pair) (s : State) :
    (s.updateAllPairs f).streams = s.streams := rfl
@[simp] theorem State.updateAllPairs_entries (f : Input → Pair → Pair) (s : State) :
    (s.updateAllPairs f).entries = s.entries := rfl
@[simp] theorem State.updateAllPairs_own (f : Input → Pair → Pair) (s : State) : (s.updateAllPairs f).own = s.own := rfl
@[simp] theorem State.updateAllPairs_moves (f : Input → Pair → Pair) (s : State) :
    (s.updateAllPairs f).moves = s.moves := rfl
@[simp] theorem State.updateAllPairs_phantoms (f : Input → Pair → Pair) (s : State) :
    (s.updateAllPairs f).phantoms = s.phantoms := rfl
@[simp] theorem State.updateAllPairs_bus (f : Input → Pair → Pair) (s : State) : (s.updateAllPairs f).bus = s.bus := rfl
@[simp] theorem State.updateAllPairs_restart (f : Input → Pair → Pair) (s : State) :
    (s.updateAllPairs f).restart = s.restart := rfl
@[simp] theorem State.updateAllPairs_clock (f : Input → Pair → Pair) (s : State) :
    (s.updateAllPairs f).clock = s.clock := rfl
@[simp] theorem State.updateAllPairs_draws (f : Input → Pair → Pair) (s : State) :
    (s.updateAllPairs f).draws = s.draws := rfl

/-! `State.turnGates` -/

@[simp] theorem State.turnGates_pending (i : Input) (s : State) : (s.turnGates i).pending = s.pending := rfl
@[simp] theorem State.turnGates_rate (i : Input) (s : State) : (s.turnGates i).rate = s.rate := rfl
@[simp] theorem State.turnGates_align (i : Input) (s : State) : (s.turnGates i).align = s.align := rfl
@[simp] theorem State.turnGates_rx (i : Input) (s : State) : (s.turnGates i).rx = s.rx := rfl
@[simp] theorem State.turnGates_comm (i : Input) (s : State) : (s.turnGates i).comm = s.comm := rfl
@[simp] theorem State.turnGates_ports (i : Input) (s : State) : (s.turnGates i).ports = s.ports := rfl
@[simp] theorem State.turnGates_streams (i : Input) (s : State) : (s.turnGates i).streams = s.streams := rfl
@[simp] theorem State.turnGates_entries (i : Input) (s : State) : (s.turnGates i).entries = s.entries := rfl
@[simp] theorem State.turnGates_own (i : Input) (s : State) : (s.turnGates i).own = s.own := rfl
@[simp] theorem State.turnGates_moves (i : Input) (s : State) : (s.turnGates i).moves = s.moves := rfl
@[simp] theorem State.turnGates_phantoms (i : Input) (s : State) : (s.turnGates i).phantoms = s.phantoms := rfl
@[simp] theorem State.turnGates_bus (i : Input) (s : State) : (s.turnGates i).bus = s.bus := rfl
@[simp] theorem State.turnGates_restart (i : Input) (s : State) : (s.turnGates i).restart = s.restart := rfl
@[simp] theorem State.turnGates_clock (i : Input) (s : State) : (s.turnGates i).clock = s.clock := rfl
@[simp] theorem State.turnGates_draws (i : Input) (s : State) : (s.turnGates i).draws = s.draws := rfl

/-! `State.flush` -/

@[simp] theorem State.flush_pending (l : LaneId) (s : State) : (s.flush l).pending = s.pending := rfl
@[simp] theorem State.flush_rate (l : LaneId) (s : State) : (s.flush l).rate = s.rate := rfl
@[simp] theorem State.flush_align (l : LaneId) (s : State) : (s.flush l).align = s.align := rfl
@[simp] theorem State.flush_rx (l : LaneId) (s : State) : (s.flush l).rx = s.rx := rfl
@[simp] theorem State.flush_ports (l : LaneId) (s : State) : (s.flush l).ports = s.ports := rfl
@[simp] theorem State.flush_streams (l : LaneId) (s : State) : (s.flush l).streams = s.streams := rfl
@[simp] theorem State.flush_entries (l : LaneId) (s : State) : (s.flush l).entries = s.entries := rfl
@[simp] theorem State.flush_pairs (l : LaneId) (s : State) : (s.flush l).pairs = s.pairs := rfl
@[simp] theorem State.flush_own (l : LaneId) (s : State) : (s.flush l).own = s.own := rfl
@[simp] theorem State.flush_moves (l : LaneId) (s : State) : (s.flush l).moves = s.moves := rfl
@[simp] theorem State.flush_phantoms (l : LaneId) (s : State) : (s.flush l).phantoms = s.phantoms := rfl
@[simp] theorem State.flush_bus (l : LaneId) (s : State) : (s.flush l).bus = s.bus := rfl
@[simp] theorem State.flush_restart (l : LaneId) (s : State) : (s.flush l).restart = s.restart := rfl
@[simp] theorem State.flush_clock (l : LaneId) (s : State) : (s.flush l).clock = s.clock := rfl
@[simp] theorem State.flush_draws (l : LaneId) (s : State) : (s.flush l).draws = s.draws := rfl

/-! `State.tick` -/

@[simp] theorem State.tick_pending (s : State) : (s.tick).pending = s.pending := rfl
@[simp] theorem State.tick_rate (s : State) : (s.tick).rate = s.rate := rfl
@[simp] theorem State.tick_align (s : State) : (s.tick).align = s.align := rfl
@[simp] theorem State.tick_rx (s : State) : (s.tick).rx = s.rx := rfl
@[simp] theorem State.tick_comm (s : State) : (s.tick).comm = s.comm := rfl
@[simp] theorem State.tick_ports (s : State) : (s.tick).ports = s.ports := rfl
@[simp] theorem State.tick_streams (s : State) : (s.tick).streams = s.streams := rfl
@[simp] theorem State.tick_entries (s : State) : (s.tick).entries = s.entries := rfl
@[simp] theorem State.tick_pairs (s : State) : (s.tick).pairs = s.pairs := rfl
@[simp] theorem State.tick_own (s : State) : (s.tick).own = s.own := rfl
@[simp] theorem State.tick_moves (s : State) : (s.tick).moves = s.moves := rfl
@[simp] theorem State.tick_phantoms (s : State) : (s.tick).phantoms = s.phantoms := rfl
@[simp] theorem State.tick_bus (s : State) : (s.tick).bus = s.bus := rfl
@[simp] theorem State.tick_restart (s : State) : (s.tick).restart = s.restart := rfl
@[simp] theorem State.tick_draws (s : State) : (s.tick).draws = s.draws := rfl

end Sys2Proof.Machine
end

