-- ==== Sys2Proof/Laws/Frames.lean ====
section
/-! SUPPORT. The fields that each shared operation leaves as they are, one lemma for each operation and field: together
they say everything an operation can touch. `State.o_f` says that the operation `o` leaves the field `f`. -/

set_option linter.unusedSimpArgs false

namespace Sys2Proof.Machine

/-! `State.beginNext` -/

@[simp] theorem State.beginNext_pending (s : State) : (s.beginNext).pending = s.pending := rfl
@[simp] theorem State.beginNext_rate (s : State) : (s.beginNext).rate = s.rate := rfl
@[simp] theorem State.beginNext_align (s : State) : (s.beginNext).align = s.align := rfl
@[simp] theorem State.beginNext_rx (s : State) : (s.beginNext).rx = s.rx := rfl
@[simp] theorem State.beginNext_comm (s : State) : (s.beginNext).comm = s.comm := rfl
@[simp] theorem State.beginNext_ports (s : State) : (s.beginNext).ports = s.ports := rfl
@[simp] theorem State.beginNext_streams (s : State) : (s.beginNext).streams = s.streams := rfl
@[simp] theorem State.beginNext_entries (s : State) : (s.beginNext).entries = s.entries := rfl
@[simp] theorem State.beginNext_pairs (s : State) : (s.beginNext).pairs = s.pairs := rfl
@[simp] theorem State.beginNext_own (s : State) : (s.beginNext).own = s.own := rfl
@[simp] theorem State.beginNext_phantoms (s : State) : (s.beginNext).phantoms = s.phantoms := rfl
@[simp] theorem State.beginNext_restart (s : State) : (s.beginNext).restart = s.restart := rfl
@[simp] theorem State.beginNext_clock (s : State) : (s.beginNext).clock = s.clock := rfl
@[simp] theorem State.beginNext_draws (s : State) : (s.beginNext).draws = s.draws := rfl

/-! `State.handTarget` -/

@[simp] theorem State.handTarget_pending (i : Input) (t : Setting) (s : State) :
    (s.handTarget i t).pending = s.pending := rfl
@[simp] theorem State.handTarget_rate (i : Input) (t : Setting) (s : State) : (s.handTarget i t).rate = s.rate := rfl
@[simp] theorem State.handTarget_align (i : Input) (t : Setting) (s : State) : (s.handTarget i t).align = s.align := rfl
@[simp] theorem State.handTarget_rx (i : Input) (t : Setting) (s : State) : (s.handTarget i t).rx = s.rx := rfl
@[simp] theorem State.handTarget_comm (i : Input) (t : Setting) (s : State) : (s.handTarget i t).comm = s.comm := rfl
@[simp] theorem State.handTarget_ports (i : Input) (t : Setting) (s : State) : (s.handTarget i t).ports = s.ports := rfl
@[simp] theorem State.handTarget_streams (i : Input) (t : Setting) (s : State) :
    (s.handTarget i t).streams = s.streams := rfl
@[simp] theorem State.handTarget_entries (i : Input) (t : Setting) (s : State) :
    (s.handTarget i t).entries = s.entries := rfl
@[simp] theorem State.handTarget_pairs (i : Input) (t : Setting) (s : State) : (s.handTarget i t).pairs = s.pairs := rfl
@[simp] theorem State.handTarget_own (i : Input) (t : Setting) (s : State) : (s.handTarget i t).own = s.own := rfl
@[simp] theorem State.handTarget_phantoms (i : Input) (t : Setting) (s : State) :
    (s.handTarget i t).phantoms = s.phantoms := rfl
@[simp] theorem State.handTarget_restart (i : Input) (t : Setting) (s : State) :
    (s.handTarget i t).restart = s.restart := rfl
@[simp] theorem State.handTarget_clock (i : Input) (t : Setting) (s : State) : (s.handTarget i t).clock = s.clock := rfl
@[simp] theorem State.handTarget_draws (i : Input) (t : Setting) (s : State) : (s.handTarget i t).draws = s.draws := rfl

/-! `State.dealPending` -/

@[simp] theorem State.dealPending_pending (i : Input) (s : State) : (s.dealPending i).pending = s.pending := by
  unfold State.dealPending
  split <;> simp
@[simp] theorem State.dealPending_rate (i : Input) (s : State) : (s.dealPending i).rate = s.rate := by
  unfold State.dealPending
  split <;> simp
@[simp] theorem State.dealPending_align (i : Input) (s : State) : (s.dealPending i).align = s.align := by
  unfold State.dealPending
  split <;> simp
@[simp] theorem State.dealPending_rx (i : Input) (s : State) : (s.dealPending i).rx = s.rx := by
  unfold State.dealPending
  split <;> simp
@[simp] theorem State.dealPending_comm (i : Input) (s : State) : (s.dealPending i).comm = s.comm := by
  unfold State.dealPending
  split <;> simp
@[simp] theorem State.dealPending_ports (i : Input) (s : State) : (s.dealPending i).ports = s.ports := by
  unfold State.dealPending
  split <;> simp
@[simp] theorem State.dealPending_streams (i : Input) (s : State) : (s.dealPending i).streams = s.streams := by
  unfold State.dealPending
  split <;> simp
@[simp] theorem State.dealPending_entries (i : Input) (s : State) : (s.dealPending i).entries = s.entries := by
  unfold State.dealPending
  split <;> simp
@[simp] theorem State.dealPending_pairs (i : Input) (s : State) : (s.dealPending i).pairs = s.pairs := by
  unfold State.dealPending
  split <;> simp
@[simp] theorem State.dealPending_own (i : Input) (s : State) : (s.dealPending i).own = s.own := by
  unfold State.dealPending
  split <;> simp
@[simp] theorem State.dealPending_phantoms (i : Input) (s : State) : (s.dealPending i).phantoms = s.phantoms := by
  unfold State.dealPending
  split <;> simp
@[simp] theorem State.dealPending_restart (i : Input) (s : State) : (s.dealPending i).restart = s.restart := by
  unfold State.dealPending
  split <;> simp
@[simp] theorem State.dealPending_clock (i : Input) (s : State) : (s.dealPending i).clock = s.clock := by
  unfold State.dealPending
  split <;> simp
@[simp] theorem State.dealPending_draws (i : Input) (s : State) : (s.dealPending i).draws = s.draws := by
  unfold State.dealPending
  split <;> simp

/-! `State.raisePhantom` -/

@[simp] theorem State.raisePhantom_pending (i : Input) (o : PhantomOutcome) (s : State) :
    (s.raisePhantom i o).pending = s.pending := rfl
@[simp] theorem State.raisePhantom_rate (i : Input) (o : PhantomOutcome) (s : State) :
    (s.raisePhantom i o).rate = s.rate := rfl
@[simp] theorem State.raisePhantom_align (i : Input) (o : PhantomOutcome) (s : State) :
    (s.raisePhantom i o).align = s.align := rfl
@[simp] theorem State.raisePhantom_rx (i : Input) (o : PhantomOutcome) (s : State) : (s.raisePhantom i o).rx = s.rx := rfl
@[simp] theorem State.raisePhantom_ports (i : Input) (o : PhantomOutcome) (s : State) :
    (s.raisePhantom i o).ports = s.ports := rfl
@[simp] theorem State.raisePhantom_streams (i : Input) (o : PhantomOutcome) (s : State) :
    (s.raisePhantom i o).streams = s.streams := rfl
@[simp] theorem State.raisePhantom_entries (i : Input) (o : PhantomOutcome) (s : State) :
    (s.raisePhantom i o).entries = s.entries := rfl
@[simp] theorem State.raisePhantom_pairs (i : Input) (o : PhantomOutcome) (s : State) :
    (s.raisePhantom i o).pairs = s.pairs := rfl
@[simp] theorem State.raisePhantom_own (i : Input) (o : PhantomOutcome) (s : State) :
    (s.raisePhantom i o).own = s.own := rfl
@[simp] theorem State.raisePhantom_moves (i : Input) (o : PhantomOutcome) (s : State) :
    (s.raisePhantom i o).moves = s.moves := rfl
@[simp] theorem State.raisePhantom_phantoms (i : Input) (o : PhantomOutcome) (s : State) :
    (s.raisePhantom i o).phantoms = s.phantoms := rfl
@[simp] theorem State.raisePhantom_bus (i : Input) (o : PhantomOutcome) (s : State) :
    (s.raisePhantom i o).bus = s.bus := rfl
@[simp] theorem State.raisePhantom_restart (i : Input) (o : PhantomOutcome) (s : State) :
    (s.raisePhantom i o).restart = s.restart := rfl
@[simp] theorem State.raisePhantom_clock (i : Input) (o : PhantomOutcome) (s : State) :
    (s.raisePhantom i o).clock = s.clock := rfl
@[simp] theorem State.raisePhantom_draws (i : Input) (o : PhantomOutcome) (s : State) :
    (s.raisePhantom i o).draws = s.draws := rfl

/-! `State.startSequence` -/

@[simp] theorem State.startSequence_pending (i : Input) (on : Bool) (s : State) :
    (s.startSequence i on).pending = s.pending := rfl
@[simp] theorem State.startSequence_rate (i : Input) (on : Bool) (s : State) : (s.startSequence i on).rate = s.rate := rfl
@[simp] theorem State.startSequence_align (i : Input) (on : Bool) (s : State) :
    (s.startSequence i on).align = s.align := rfl
@[simp] theorem State.startSequence_rx (i : Input) (on : Bool) (s : State) : (s.startSequence i on).rx = s.rx := rfl
@[simp] theorem State.startSequence_ports (i : Input) (on : Bool) (s : State) :
    (s.startSequence i on).ports = s.ports := rfl
@[simp] theorem State.startSequence_streams (i : Input) (on : Bool) (s : State) :
    (s.startSequence i on).streams = s.streams := rfl
@[simp] theorem State.startSequence_entries (i : Input) (on : Bool) (s : State) :
    (s.startSequence i on).entries = s.entries := rfl
@[simp] theorem State.startSequence_own (i : Input) (on : Bool) (s : State) : (s.startSequence i on).own = s.own := rfl
@[simp] theorem State.startSequence_moves (i : Input) (on : Bool) (s : State) :
    (s.startSequence i on).moves = s.moves := rfl
@[simp] theorem State.startSequence_bus (i : Input) (on : Bool) (s : State) : (s.startSequence i on).bus = s.bus := rfl
@[simp] theorem State.startSequence_restart (i : Input) (on : Bool) (s : State) :
    (s.startSequence i on).restart = s.restart := rfl
@[simp] theorem State.startSequence_clock (i : Input) (on : Bool) (s : State) :
    (s.startSequence i on).clock = s.clock := rfl
@[simp] theorem State.startSequence_draws (i : Input) (on : Bool) (s : State) :
    (s.startSequence i on).draws = s.draws := rfl

/-! `State.enterWriting` -/

@[simp] theorem State.enterWriting_pending (i : Input) (s : State) : (s.enterWriting i).pending = s.pending := rfl
@[simp] theorem State.enterWriting_rate (i : Input) (s : State) : (s.enterWriting i).rate = s.rate := rfl
@[simp] theorem State.enterWriting_align (i : Input) (s : State) : (s.enterWriting i).align = s.align := rfl
@[simp] theorem State.enterWriting_rx (i : Input) (s : State) : (s.enterWriting i).rx = s.rx := rfl
@[simp] theorem State.enterWriting_comm (i : Input) (s : State) : (s.enterWriting i).comm = s.comm := rfl
@[simp] theorem State.enterWriting_ports (i : Input) (s : State) : (s.enterWriting i).ports = s.ports := rfl
@[simp] theorem State.enterWriting_streams (i : Input) (s : State) : (s.enterWriting i).streams = s.streams := rfl
@[simp] theorem State.enterWriting_entries (i : Input) (s : State) : (s.enterWriting i).entries = s.entries := rfl
@[simp] theorem State.enterWriting_pairs (i : Input) (s : State) : (s.enterWriting i).pairs = s.pairs := rfl
@[simp] theorem State.enterWriting_own (i : Input) (s : State) : (s.enterWriting i).own = s.own := rfl
@[simp] theorem State.enterWriting_moves (i : Input) (s : State) : (s.enterWriting i).moves = s.moves := rfl
@[simp] theorem State.enterWriting_restart (i : Input) (s : State) : (s.enterWriting i).restart = s.restart := rfl
@[simp] theorem State.enterWriting_clock (i : Input) (s : State) : (s.enterWriting i).clock = s.clock := rfl
@[simp] theorem State.enterWriting_draws (i : Input) (s : State) : (s.enterWriting i).draws = s.draws := rfl

/-! `State.enterSettling` -/

@[simp] theorem State.enterSettling_pending (i : Input) (s : State) : (s.enterSettling i).pending = s.pending := rfl
@[simp] theorem State.enterSettling_rate (i : Input) (s : State) : (s.enterSettling i).rate = s.rate := rfl
@[simp] theorem State.enterSettling_align (i : Input) (s : State) : (s.enterSettling i).align = s.align := rfl
@[simp] theorem State.enterSettling_rx (i : Input) (s : State) : (s.enterSettling i).rx = s.rx := rfl
@[simp] theorem State.enterSettling_comm (i : Input) (s : State) : (s.enterSettling i).comm = s.comm := rfl
@[simp] theorem State.enterSettling_ports (i : Input) (s : State) : (s.enterSettling i).ports = s.ports := rfl
@[simp] theorem State.enterSettling_streams (i : Input) (s : State) : (s.enterSettling i).streams = s.streams := rfl
@[simp] theorem State.enterSettling_entries (i : Input) (s : State) : (s.enterSettling i).entries = s.entries := rfl
@[simp] theorem State.enterSettling_pairs (i : Input) (s : State) : (s.enterSettling i).pairs = s.pairs := rfl
@[simp] theorem State.enterSettling_own (i : Input) (s : State) : (s.enterSettling i).own = s.own := rfl
@[simp] theorem State.enterSettling_moves (i : Input) (s : State) : (s.enterSettling i).moves = s.moves := rfl
@[simp] theorem State.enterSettling_bus (i : Input) (s : State) : (s.enterSettling i).bus = s.bus := rfl
@[simp] theorem State.enterSettling_restart (i : Input) (s : State) : (s.enterSettling i).restart = s.restart := rfl
@[simp] theorem State.enterSettling_clock (i : Input) (s : State) : (s.enterSettling i).clock = s.clock := rfl
@[simp] theorem State.enterSettling_draws (i : Input) (s : State) : (s.enterSettling i).draws = s.draws := rfl

/-! `State.enterFadeIn` -/

@[simp] theorem State.enterFadeIn_pending (i : Input) (s : State) : (s.enterFadeIn i).pending = s.pending := rfl
@[simp] theorem State.enterFadeIn_rate (i : Input) (s : State) : (s.enterFadeIn i).rate = s.rate := rfl
@[simp] theorem State.enterFadeIn_align (i : Input) (s : State) : (s.enterFadeIn i).align = s.align := rfl
@[simp] theorem State.enterFadeIn_rx (i : Input) (s : State) : (s.enterFadeIn i).rx = s.rx := rfl
@[simp] theorem State.enterFadeIn_comm (i : Input) (s : State) : (s.enterFadeIn i).comm = s.comm := rfl
@[simp] theorem State.enterFadeIn_ports (i : Input) (s : State) : (s.enterFadeIn i).ports = s.ports := rfl
@[simp] theorem State.enterFadeIn_streams (i : Input) (s : State) : (s.enterFadeIn i).streams = s.streams := rfl
@[simp] theorem State.enterFadeIn_entries (i : Input) (s : State) : (s.enterFadeIn i).entries = s.entries := rfl
@[simp] theorem State.enterFadeIn_own (i : Input) (s : State) : (s.enterFadeIn i).own = s.own := rfl
@[simp] theorem State.enterFadeIn_moves (i : Input) (s : State) : (s.enterFadeIn i).moves = s.moves := rfl
@[simp] theorem State.enterFadeIn_bus (i : Input) (s : State) : (s.enterFadeIn i).bus = s.bus := rfl
@[simp] theorem State.enterFadeIn_restart (i : Input) (s : State) : (s.enterFadeIn i).restart = s.restart := rfl
@[simp] theorem State.enterFadeIn_clock (i : Input) (s : State) : (s.enterFadeIn i).clock = s.clock := rfl
@[simp] theorem State.enterFadeIn_draws (i : Input) (s : State) : (s.enterFadeIn i).draws = s.draws := rfl

/-! `State.raiseEnd` -/

@[simp] theorem State.raiseEnd_pending (i : Input) (o : Option SeqOutcome) (s : State) :
    (s.raiseEnd i o).pending = s.pending := by
  unfold State.raiseEnd
  split <;> simp
@[simp] theorem State.raiseEnd_rate (i : Input) (o : Option SeqOutcome) (s : State) : (s.raiseEnd i o).rate = s.rate := by
  unfold State.raiseEnd
  split <;> simp
@[simp] theorem State.raiseEnd_align (i : Input) (o : Option SeqOutcome) (s : State) :
    (s.raiseEnd i o).align = s.align := by
  unfold State.raiseEnd
  split <;> simp
@[simp] theorem State.raiseEnd_rx (i : Input) (o : Option SeqOutcome) (s : State) : (s.raiseEnd i o).rx = s.rx := by
  unfold State.raiseEnd
  split <;> simp
@[simp] theorem State.raiseEnd_ports (i : Input) (o : Option SeqOutcome) (s : State) :
    (s.raiseEnd i o).ports = s.ports := by
  unfold State.raiseEnd
  split <;> simp
@[simp] theorem State.raiseEnd_streams (i : Input) (o : Option SeqOutcome) (s : State) :
    (s.raiseEnd i o).streams = s.streams := by
  unfold State.raiseEnd
  split <;> simp
@[simp] theorem State.raiseEnd_entries (i : Input) (o : Option SeqOutcome) (s : State) :
    (s.raiseEnd i o).entries = s.entries := by
  unfold State.raiseEnd
  split <;> simp
@[simp] theorem State.raiseEnd_pairs (i : Input) (o : Option SeqOutcome) (s : State) :
    (s.raiseEnd i o).pairs = s.pairs := by
  unfold State.raiseEnd
  split <;> simp
@[simp] theorem State.raiseEnd_own (i : Input) (o : Option SeqOutcome) (s : State) : (s.raiseEnd i o).own = s.own := by
  unfold State.raiseEnd
  split <;> simp
@[simp] theorem State.raiseEnd_moves (i : Input) (o : Option SeqOutcome) (s : State) :
    (s.raiseEnd i o).moves = s.moves := by
  unfold State.raiseEnd
  split <;> simp
@[simp] theorem State.raiseEnd_phantoms (i : Input) (o : Option SeqOutcome) (s : State) :
    (s.raiseEnd i o).phantoms = s.phantoms := by
  unfold State.raiseEnd
  split <;> simp
@[simp] theorem State.raiseEnd_bus (i : Input) (o : Option SeqOutcome) (s : State) : (s.raiseEnd i o).bus = s.bus := by
  unfold State.raiseEnd
  split <;> simp
@[simp] theorem State.raiseEnd_restart (i : Input) (o : Option SeqOutcome) (s : State) :
    (s.raiseEnd i o).restart = s.restart := by
  unfold State.raiseEnd
  split <;> simp
@[simp] theorem State.raiseEnd_clock (i : Input) (o : Option SeqOutcome) (s : State) :
    (s.raiseEnd i o).clock = s.clock := by
  unfold State.raiseEnd
  split <;> simp
@[simp] theorem State.raiseEnd_draws (i : Input) (o : Option SeqOutcome) (s : State) :
    (s.raiseEnd i o).draws = s.draws := by
  unfold State.raiseEnd
  split <;> simp

/-! `State.endSequence` -/

@[simp] theorem State.endSequence_pending (i : Input) (s : State) : (s.endSequence i).pending = s.pending := by
  simp [State.endSequence]
@[simp] theorem State.endSequence_rate (i : Input) (s : State) : (s.endSequence i).rate = s.rate := by
  simp [State.endSequence]
@[simp] theorem State.endSequence_align (i : Input) (s : State) : (s.endSequence i).align = s.align := by
  simp [State.endSequence]
@[simp] theorem State.endSequence_rx (i : Input) (s : State) : (s.endSequence i).rx = s.rx := by
  simp [State.endSequence]
@[simp] theorem State.endSequence_ports (i : Input) (s : State) : (s.endSequence i).ports = s.ports := by
  simp [State.endSequence]
@[simp] theorem State.endSequence_streams (i : Input) (s : State) : (s.endSequence i).streams = s.streams := by
  simp [State.endSequence]
@[simp] theorem State.endSequence_entries (i : Input) (s : State) : (s.endSequence i).entries = s.entries := by
  simp [State.endSequence]
@[simp] theorem State.endSequence_pairs (i : Input) (s : State) : (s.endSequence i).pairs = s.pairs := by
  simp [State.endSequence]
@[simp] theorem State.endSequence_own (i : Input) (s : State) : (s.endSequence i).own = s.own := by
  simp [State.endSequence]
@[simp] theorem State.endSequence_restart (i : Input) (s : State) : (s.endSequence i).restart = s.restart := by
  simp [State.endSequence]
@[simp] theorem State.endSequence_clock (i : Input) (s : State) : (s.endSequence i).clock = s.clock := by
  simp [State.endSequence]
@[simp] theorem State.endSequence_draws (i : Input) (s : State) : (s.endSequence i).draws = s.draws := by
  simp [State.endSequence]

/-! `State.endFadeOut` -/

@[simp] theorem State.endFadeOut_pending (i : Input) (s : State) : (s.endFadeOut i).pending = s.pending := by
  unfold State.endFadeOut
  split <;> simp
@[simp] theorem State.endFadeOut_rate (i : Input) (s : State) : (s.endFadeOut i).rate = s.rate := by
  unfold State.endFadeOut
  split <;> simp
@[simp] theorem State.endFadeOut_align (i : Input) (s : State) : (s.endFadeOut i).align = s.align := by
  unfold State.endFadeOut
  split <;> simp
@[simp] theorem State.endFadeOut_rx (i : Input) (s : State) : (s.endFadeOut i).rx = s.rx := by
  unfold State.endFadeOut
  split <;> simp
@[simp] theorem State.endFadeOut_comm (i : Input) (s : State) : (s.endFadeOut i).comm = s.comm := by
  unfold State.endFadeOut
  split <;> simp
@[simp] theorem State.endFadeOut_ports (i : Input) (s : State) : (s.endFadeOut i).ports = s.ports := by
  unfold State.endFadeOut
  split <;> simp
@[simp] theorem State.endFadeOut_streams (i : Input) (s : State) : (s.endFadeOut i).streams = s.streams := by
  unfold State.endFadeOut
  split <;> simp
@[simp] theorem State.endFadeOut_entries (i : Input) (s : State) : (s.endFadeOut i).entries = s.entries := by
  unfold State.endFadeOut
  split <;> simp
@[simp] theorem State.endFadeOut_pairs (i : Input) (s : State) : (s.endFadeOut i).pairs = s.pairs := by
  unfold State.endFadeOut
  split <;> simp
@[simp] theorem State.endFadeOut_own (i : Input) (s : State) : (s.endFadeOut i).own = s.own := by
  unfold State.endFadeOut
  split <;> simp
@[simp] theorem State.endFadeOut_moves (i : Input) (s : State) : (s.endFadeOut i).moves = s.moves := by
  unfold State.endFadeOut
  split <;> simp
@[simp] theorem State.endFadeOut_restart (i : Input) (s : State) : (s.endFadeOut i).restart = s.restart := by
  unfold State.endFadeOut
  split <;> simp
@[simp] theorem State.endFadeOut_clock (i : Input) (s : State) : (s.endFadeOut i).clock = s.clock := by
  unfold State.endFadeOut
  split <;> simp
@[simp] theorem State.endFadeOut_draws (i : Input) (s : State) : (s.endFadeOut i).draws = s.draws := by
  unfold State.endFadeOut
  split <;> simp

/-! `State.endFadeIn` -/

@[simp] theorem State.endFadeIn_pending (i : Input) (s : State) : (s.endFadeIn i).pending = s.pending := by
  unfold State.endFadeIn
  split <;> simp
@[simp] theorem State.endFadeIn_rate (i : Input) (s : State) : (s.endFadeIn i).rate = s.rate := by
  unfold State.endFadeIn
  split <;> simp
@[simp] theorem State.endFadeIn_align (i : Input) (s : State) : (s.endFadeIn i).align = s.align := by
  unfold State.endFadeIn
  split <;> simp
@[simp] theorem State.endFadeIn_rx (i : Input) (s : State) : (s.endFadeIn i).rx = s.rx := by
  unfold State.endFadeIn
  split <;> simp
@[simp] theorem State.endFadeIn_ports (i : Input) (s : State) : (s.endFadeIn i).ports = s.ports := by
  unfold State.endFadeIn
  split <;> simp
@[simp] theorem State.endFadeIn_streams (i : Input) (s : State) : (s.endFadeIn i).streams = s.streams := by
  unfold State.endFadeIn
  split <;> simp
@[simp] theorem State.endFadeIn_entries (i : Input) (s : State) : (s.endFadeIn i).entries = s.entries := by
  unfold State.endFadeIn
  split <;> simp
@[simp] theorem State.endFadeIn_pairs (i : Input) (s : State) : (s.endFadeIn i).pairs = s.pairs := by
  unfold State.endFadeIn
  split <;> simp
@[simp] theorem State.endFadeIn_own (i : Input) (s : State) : (s.endFadeIn i).own = s.own := by
  unfold State.endFadeIn
  split <;> simp
@[simp] theorem State.endFadeIn_restart (i : Input) (s : State) : (s.endFadeIn i).restart = s.restart := by
  unfold State.endFadeIn
  split <;> simp
@[simp] theorem State.endFadeIn_clock (i : Input) (s : State) : (s.endFadeIn i).clock = s.clock := by
  unfold State.endFadeIn
  split <;> simp
@[simp] theorem State.endFadeIn_draws (i : Input) (s : State) : (s.endFadeIn i).draws = s.draws := by
  unfold State.endFadeIn
  split <;> simp

/-! `State.settleExpired` -/

@[simp] theorem State.settleExpired_pending (i : Input) (s : State) : (s.settleExpired i).pending = s.pending := by
  unfold State.settleExpired
  split <;> (try split) <;> simp
@[simp] theorem State.settleExpired_rate (i : Input) (s : State) : (s.settleExpired i).rate = s.rate := by
  unfold State.settleExpired
  split <;> (try split) <;> simp
@[simp] theorem State.settleExpired_align (i : Input) (s : State) : (s.settleExpired i).align = s.align := by
  unfold State.settleExpired
  split <;> (try split) <;> simp
@[simp] theorem State.settleExpired_rx (i : Input) (s : State) : (s.settleExpired i).rx = s.rx := by
  unfold State.settleExpired
  split <;> (try split) <;> simp
@[simp] theorem State.settleExpired_comm (i : Input) (s : State) : (s.settleExpired i).comm = s.comm := by
  unfold State.settleExpired
  split <;> (try split) <;> simp
@[simp] theorem State.settleExpired_ports (i : Input) (s : State) : (s.settleExpired i).ports = s.ports := by
  unfold State.settleExpired
  split <;> (try split) <;> simp
@[simp] theorem State.settleExpired_streams (i : Input) (s : State) : (s.settleExpired i).streams = s.streams := by
  unfold State.settleExpired
  split <;> (try split) <;> simp
@[simp] theorem State.settleExpired_entries (i : Input) (s : State) : (s.settleExpired i).entries = s.entries := by
  unfold State.settleExpired
  split <;> (try split) <;> simp
@[simp] theorem State.settleExpired_own (i : Input) (s : State) : (s.settleExpired i).own = s.own := by
  unfold State.settleExpired
  split <;> (try split) <;> simp
@[simp] theorem State.settleExpired_moves (i : Input) (s : State) : (s.settleExpired i).moves = s.moves := by
  unfold State.settleExpired
  split <;> (try split) <;> simp
@[simp] theorem State.settleExpired_restart (i : Input) (s : State) : (s.settleExpired i).restart = s.restart := by
  unfold State.settleExpired
  split <;> (try split) <;> simp
@[simp] theorem State.settleExpired_clock (i : Input) (s : State) : (s.settleExpired i).clock = s.clock := by
  unfold State.settleExpired
  split <;> (try split) <;> simp
@[simp] theorem State.settleExpired_draws (i : Input) (s : State) : (s.settleExpired i).draws = s.draws := by
  unfold State.settleExpired
  split <;> (try split) <;> simp

/-! `State.phantomTaken` -/

@[simp] theorem State.phantomTaken_pending (i : Input) (s : State) : (s.phantomTaken i).pending = s.pending := by
  unfold State.phantomTaken
  split <;> simp
@[simp] theorem State.phantomTaken_rate (i : Input) (s : State) : (s.phantomTaken i).rate = s.rate := by
  unfold State.phantomTaken
  split <;> simp
@[simp] theorem State.phantomTaken_align (i : Input) (s : State) : (s.phantomTaken i).align = s.align := by
  unfold State.phantomTaken
  split <;> simp
@[simp] theorem State.phantomTaken_rx (i : Input) (s : State) : (s.phantomTaken i).rx = s.rx := by
  unfold State.phantomTaken
  split <;> simp
@[simp] theorem State.phantomTaken_comm (i : Input) (s : State) : (s.phantomTaken i).comm = s.comm := by
  unfold State.phantomTaken
  split <;> simp
@[simp] theorem State.phantomTaken_ports (i : Input) (s : State) : (s.phantomTaken i).ports = s.ports := by
  unfold State.phantomTaken
  split <;> simp
@[simp] theorem State.phantomTaken_streams (i : Input) (s : State) : (s.phantomTaken i).streams = s.streams := by
  unfold State.phantomTaken
  split <;> simp
@[simp] theorem State.phantomTaken_entries (i : Input) (s : State) : (s.phantomTaken i).entries = s.entries := by
  unfold State.phantomTaken
  split <;> simp
@[simp] theorem State.phantomTaken_pairs (i : Input) (s : State) : (s.phantomTaken i).pairs = s.pairs := by
  unfold State.phantomTaken
  split <;> simp
@[simp] theorem State.phantomTaken_own (i : Input) (s : State) : (s.phantomTaken i).own = s.own := by
  unfold State.phantomTaken
  split <;> simp
@[simp] theorem State.phantomTaken_moves (i : Input) (s : State) : (s.phantomTaken i).moves = s.moves := by
  unfold State.phantomTaken
  split <;> simp
@[simp] theorem State.phantomTaken_bus (i : Input) (s : State) : (s.phantomTaken i).bus = s.bus := by
  unfold State.phantomTaken
  split <;> simp
@[simp] theorem State.phantomTaken_restart (i : Input) (s : State) : (s.phantomTaken i).restart = s.restart := by
  unfold State.phantomTaken
  split <;> simp
@[simp] theorem State.phantomTaken_clock (i : Input) (s : State) : (s.phantomTaken i).clock = s.clock := by
  unfold State.phantomTaken
  split <;> simp
@[simp] theorem State.phantomTaken_draws (i : Input) (s : State) : (s.phantomTaken i).draws = s.draws := by
  unfold State.phantomTaken
  split <;> simp

/-! `State.phantomNotTaken` -/

@[simp] theorem State.phantomNotTaken_pending (i : Input) (s : State) : (s.phantomNotTaken i).pending = s.pending := by
  unfold State.phantomNotTaken
  split <;> simp
@[simp] theorem State.phantomNotTaken_rate (i : Input) (s : State) : (s.phantomNotTaken i).rate = s.rate := by
  unfold State.phantomNotTaken
  split <;> simp
@[simp] theorem State.phantomNotTaken_align (i : Input) (s : State) : (s.phantomNotTaken i).align = s.align := by
  unfold State.phantomNotTaken
  split <;> simp
@[simp] theorem State.phantomNotTaken_rx (i : Input) (s : State) : (s.phantomNotTaken i).rx = s.rx := by
  unfold State.phantomNotTaken
  split <;> simp
@[simp] theorem State.phantomNotTaken_comm (i : Input) (s : State) : (s.phantomNotTaken i).comm = s.comm := by
  unfold State.phantomNotTaken
  split <;> simp
@[simp] theorem State.phantomNotTaken_ports (i : Input) (s : State) : (s.phantomNotTaken i).ports = s.ports := by
  unfold State.phantomNotTaken
  split <;> simp
@[simp] theorem State.phantomNotTaken_streams (i : Input) (s : State) : (s.phantomNotTaken i).streams = s.streams := by
  unfold State.phantomNotTaken
  split <;> simp
@[simp] theorem State.phantomNotTaken_entries (i : Input) (s : State) : (s.phantomNotTaken i).entries = s.entries := by
  unfold State.phantomNotTaken
  split <;> simp
@[simp] theorem State.phantomNotTaken_own (i : Input) (s : State) : (s.phantomNotTaken i).own = s.own := by
  unfold State.phantomNotTaken
  split <;> simp
@[simp] theorem State.phantomNotTaken_moves (i : Input) (s : State) : (s.phantomNotTaken i).moves = s.moves := by
  unfold State.phantomNotTaken
  split <;> simp
@[simp] theorem State.phantomNotTaken_bus (i : Input) (s : State) : (s.phantomNotTaken i).bus = s.bus := by
  unfold State.phantomNotTaken
  split <;> simp
@[simp] theorem State.phantomNotTaken_restart (i : Input) (s : State) : (s.phantomNotTaken i).restart = s.restart := by
  unfold State.phantomNotTaken
  split <;> simp
@[simp] theorem State.phantomNotTaken_clock (i : Input) (s : State) : (s.phantomNotTaken i).clock = s.clock := by
  unfold State.phantomNotTaken
  split <;> simp
@[simp] theorem State.phantomNotTaken_draws (i : Input) (s : State) : (s.phantomNotTaken i).draws = s.draws := by
  unfold State.phantomNotTaken
  split <;> simp

/-! `State.phantomInFadeOut` -/

@[simp] theorem State.phantomInFadeOut_pending (i : Input) (on : Bool) (s : State) :
    (s.phantomInFadeOut i on).pending = s.pending := by
  unfold State.phantomInFadeOut
  split <;> (try split) <;> simp
@[simp] theorem State.phantomInFadeOut_rate (i : Input) (on : Bool) (s : State) :
    (s.phantomInFadeOut i on).rate = s.rate := by
  unfold State.phantomInFadeOut
  split <;> (try split) <;> simp
@[simp] theorem State.phantomInFadeOut_align (i : Input) (on : Bool) (s : State) :
    (s.phantomInFadeOut i on).align = s.align := by
  unfold State.phantomInFadeOut
  split <;> (try split) <;> simp
@[simp] theorem State.phantomInFadeOut_rx (i : Input) (on : Bool) (s : State) : (s.phantomInFadeOut i on).rx = s.rx := by
  unfold State.phantomInFadeOut
  split <;> (try split) <;> simp
@[simp] theorem State.phantomInFadeOut_comm (i : Input) (on : Bool) (s : State) :
    (s.phantomInFadeOut i on).comm = s.comm := by
  unfold State.phantomInFadeOut
  split <;> (try split) <;> simp
@[simp] theorem State.phantomInFadeOut_ports (i : Input) (on : Bool) (s : State) :
    (s.phantomInFadeOut i on).ports = s.ports := by
  unfold State.phantomInFadeOut
  split <;> (try split) <;> simp
@[simp] theorem State.phantomInFadeOut_streams (i : Input) (on : Bool) (s : State) :
    (s.phantomInFadeOut i on).streams = s.streams := by
  unfold State.phantomInFadeOut
  split <;> (try split) <;> simp
@[simp] theorem State.phantomInFadeOut_entries (i : Input) (on : Bool) (s : State) :
    (s.phantomInFadeOut i on).entries = s.entries := by
  unfold State.phantomInFadeOut
  split <;> (try split) <;> simp
@[simp] theorem State.phantomInFadeOut_own (i : Input) (on : Bool) (s : State) :
    (s.phantomInFadeOut i on).own = s.own := by
  unfold State.phantomInFadeOut
  split <;> (try split) <;> simp
@[simp] theorem State.phantomInFadeOut_moves (i : Input) (on : Bool) (s : State) :
    (s.phantomInFadeOut i on).moves = s.moves := by
  unfold State.phantomInFadeOut
  split <;> (try split) <;> simp
@[simp] theorem State.phantomInFadeOut_bus (i : Input) (on : Bool) (s : State) :
    (s.phantomInFadeOut i on).bus = s.bus := by
  unfold State.phantomInFadeOut
  split <;> (try split) <;> simp
@[simp] theorem State.phantomInFadeOut_restart (i : Input) (on : Bool) (s : State) :
    (s.phantomInFadeOut i on).restart = s.restart := by
  unfold State.phantomInFadeOut
  split <;> (try split) <;> simp
@[simp] theorem State.phantomInFadeOut_clock (i : Input) (on : Bool) (s : State) :
    (s.phantomInFadeOut i on).clock = s.clock := by
  unfold State.phantomInFadeOut
  split <;> (try split) <;> simp
@[simp] theorem State.phantomInFadeOut_draws (i : Input) (on : Bool) (s : State) :
    (s.phantomInFadeOut i on).draws = s.draws := by
  unfold State.phantomInFadeOut
  split <;> (try split) <;> simp

/-! `State.phantomReversal` -/

@[simp] theorem State.phantomReversal_pending (i : Input) (on : Bool) (s : State) :
    (s.phantomReversal i on).pending = s.pending := rfl
@[simp] theorem State.phantomReversal_rate (i : Input) (on : Bool) (s : State) :
    (s.phantomReversal i on).rate = s.rate := rfl
@[simp] theorem State.phantomReversal_align (i : Input) (on : Bool) (s : State) :
    (s.phantomReversal i on).align = s.align := rfl
@[simp] theorem State.phantomReversal_rx (i : Input) (on : Bool) (s : State) : (s.phantomReversal i on).rx = s.rx := rfl
@[simp] theorem State.phantomReversal_comm (i : Input) (on : Bool) (s : State) :
    (s.phantomReversal i on).comm = s.comm := rfl
@[simp] theorem State.phantomReversal_ports (i : Input) (on : Bool) (s : State) :
    (s.phantomReversal i on).ports = s.ports := rfl
@[simp] theorem State.phantomReversal_streams (i : Input) (on : Bool) (s : State) :
    (s.phantomReversal i on).streams = s.streams := rfl
@[simp] theorem State.phantomReversal_entries (i : Input) (on : Bool) (s : State) :
    (s.phantomReversal i on).entries = s.entries := rfl
@[simp] theorem State.phantomReversal_pairs (i : Input) (on : Bool) (s : State) :
    (s.phantomReversal i on).pairs = s.pairs := rfl
@[simp] theorem State.phantomReversal_own (i : Input) (on : Bool) (s : State) : (s.phantomReversal i on).own = s.own := rfl
@[simp] theorem State.phantomReversal_moves (i : Input) (on : Bool) (s : State) :
    (s.phantomReversal i on).moves = s.moves := rfl
@[simp] theorem State.phantomReversal_bus (i : Input) (on : Bool) (s : State) : (s.phantomReversal i on).bus = s.bus := rfl
@[simp] theorem State.phantomReversal_restart (i : Input) (on : Bool) (s : State) :
    (s.phantomReversal i on).restart = s.restart := rfl
@[simp] theorem State.phantomReversal_clock (i : Input) (on : Bool) (s : State) :
    (s.phantomReversal i on).clock = s.clock := rfl
@[simp] theorem State.phantomReversal_draws (i : Input) (on : Bool) (s : State) :
    (s.phantomReversal i on).draws = s.draws := rfl

/-! `State.phantomRequest` -/

@[simp] theorem State.phantomRequest_pending (i : Input) (on : Bool) (s : State) :
    (s.phantomRequest i on).pending = s.pending := by
  unfold State.phantomRequest
  (repeat' split) <;> simp
@[simp] theorem State.phantomRequest_rate (i : Input) (on : Bool) (s : State) : (s.phantomRequest i on).rate = s.rate := by
  unfold State.phantomRequest
  (repeat' split) <;> simp
@[simp] theorem State.phantomRequest_align (i : Input) (on : Bool) (s : State) :
    (s.phantomRequest i on).align = s.align := by
  unfold State.phantomRequest
  (repeat' split) <;> simp
@[simp] theorem State.phantomRequest_rx (i : Input) (on : Bool) (s : State) : (s.phantomRequest i on).rx = s.rx := by
  unfold State.phantomRequest
  (repeat' split) <;> simp
@[simp] theorem State.phantomRequest_ports (i : Input) (on : Bool) (s : State) :
    (s.phantomRequest i on).ports = s.ports := by
  unfold State.phantomRequest
  (repeat' split) <;> simp
@[simp] theorem State.phantomRequest_streams (i : Input) (on : Bool) (s : State) :
    (s.phantomRequest i on).streams = s.streams := by
  unfold State.phantomRequest
  (repeat' split) <;> simp
@[simp] theorem State.phantomRequest_entries (i : Input) (on : Bool) (s : State) :
    (s.phantomRequest i on).entries = s.entries := by
  unfold State.phantomRequest
  (repeat' split) <;> simp
@[simp] theorem State.phantomRequest_own (i : Input) (on : Bool) (s : State) : (s.phantomRequest i on).own = s.own := by
  unfold State.phantomRequest
  (repeat' split) <;> simp
@[simp] theorem State.phantomRequest_moves (i : Input) (on : Bool) (s : State) :
    (s.phantomRequest i on).moves = s.moves := by
  unfold State.phantomRequest
  (repeat' split) <;> simp
@[simp] theorem State.phantomRequest_bus (i : Input) (on : Bool) (s : State) : (s.phantomRequest i on).bus = s.bus := by
  unfold State.phantomRequest
  (repeat' split) <;> simp
@[simp] theorem State.phantomRequest_restart (i : Input) (on : Bool) (s : State) :
    (s.phantomRequest i on).restart = s.restart := by
  unfold State.phantomRequest
  (repeat' split) <;> simp
@[simp] theorem State.phantomRequest_clock (i : Input) (on : Bool) (s : State) :
    (s.phantomRequest i on).clock = s.clock := by
  unfold State.phantomRequest
  (repeat' split) <;> simp
@[simp] theorem State.phantomRequest_draws (i : Input) (on : Bool) (s : State) :
    (s.phantomRequest i on).draws = s.draws := by
  unfold State.phantomRequest
  (repeat' split) <;> simp

/-! `State.startHeld` -/

@[simp] theorem State.startHeld_pending (i : Input) (s : State) : (s.startHeld i).pending = s.pending := by
  unfold State.startHeld
  split <;> simp
@[simp] theorem State.startHeld_rate (i : Input) (s : State) : (s.startHeld i).rate = s.rate := by
  unfold State.startHeld
  split <;> simp
@[simp] theorem State.startHeld_align (i : Input) (s : State) : (s.startHeld i).align = s.align := by
  unfold State.startHeld
  split <;> simp
@[simp] theorem State.startHeld_rx (i : Input) (s : State) : (s.startHeld i).rx = s.rx := by
  unfold State.startHeld
  split <;> simp
@[simp] theorem State.startHeld_ports (i : Input) (s : State) : (s.startHeld i).ports = s.ports := by
  unfold State.startHeld
  split <;> simp
@[simp] theorem State.startHeld_streams (i : Input) (s : State) : (s.startHeld i).streams = s.streams := by
  unfold State.startHeld
  split <;> simp
@[simp] theorem State.startHeld_entries (i : Input) (s : State) : (s.startHeld i).entries = s.entries := by
  unfold State.startHeld
  split <;> simp
@[simp] theorem State.startHeld_own (i : Input) (s : State) : (s.startHeld i).own = s.own := by
  unfold State.startHeld
  split <;> simp
@[simp] theorem State.startHeld_moves (i : Input) (s : State) : (s.startHeld i).moves = s.moves := by
  unfold State.startHeld
  split <;> simp
@[simp] theorem State.startHeld_bus (i : Input) (s : State) : (s.startHeld i).bus = s.bus := by
  unfold State.startHeld
  split <;> simp
@[simp] theorem State.startHeld_restart (i : Input) (s : State) : (s.startHeld i).restart = s.restart := by
  unfold State.startHeld
  split <;> simp
@[simp] theorem State.startHeld_clock (i : Input) (s : State) : (s.startHeld i).clock = s.clock := by
  unfold State.startHeld
  split <;> simp
@[simp] theorem State.startHeld_draws (i : Input) (s : State) : (s.startHeld i).draws = s.draws := by
  unfold State.startHeld
  split <;> simp

/-! `State.dropHeld` -/

@[simp] theorem State.dropHeld_pending (i : Input) (s : State) : (s.dropHeld i).pending = s.pending := by
  unfold State.dropHeld
  split <;> simp
@[simp] theorem State.dropHeld_rate (i : Input) (s : State) : (s.dropHeld i).rate = s.rate := by
  unfold State.dropHeld
  split <;> simp
@[simp] theorem State.dropHeld_align (i : Input) (s : State) : (s.dropHeld i).align = s.align := by
  unfold State.dropHeld
  split <;> simp
@[simp] theorem State.dropHeld_rx (i : Input) (s : State) : (s.dropHeld i).rx = s.rx := by
  unfold State.dropHeld
  split <;> simp
@[simp] theorem State.dropHeld_ports (i : Input) (s : State) : (s.dropHeld i).ports = s.ports := by
  unfold State.dropHeld
  split <;> simp
@[simp] theorem State.dropHeld_streams (i : Input) (s : State) : (s.dropHeld i).streams = s.streams := by
  unfold State.dropHeld
  split <;> simp
@[simp] theorem State.dropHeld_entries (i : Input) (s : State) : (s.dropHeld i).entries = s.entries := by
  unfold State.dropHeld
  split <;> simp
@[simp] theorem State.dropHeld_pairs (i : Input) (s : State) : (s.dropHeld i).pairs = s.pairs := by
  unfold State.dropHeld
  split <;> simp
@[simp] theorem State.dropHeld_own (i : Input) (s : State) : (s.dropHeld i).own = s.own := by
  unfold State.dropHeld
  split <;> simp
@[simp] theorem State.dropHeld_moves (i : Input) (s : State) : (s.dropHeld i).moves = s.moves := by
  unfold State.dropHeld
  split <;> simp
@[simp] theorem State.dropHeld_bus (i : Input) (s : State) : (s.dropHeld i).bus = s.bus := by
  unfold State.dropHeld
  split <;> simp
@[simp] theorem State.dropHeld_restart (i : Input) (s : State) : (s.dropHeld i).restart = s.restart := by
  unfold State.dropHeld
  split <;> simp
@[simp] theorem State.dropHeld_clock (i : Input) (s : State) : (s.dropHeld i).clock = s.clock := by
  unfold State.dropHeld
  split <;> simp
@[simp] theorem State.dropHeld_draws (i : Input) (s : State) : (s.dropHeld i).draws = s.draws := by
  unfold State.dropHeld
  split <;> simp

/-! `State.failSequence` -/

@[simp] theorem State.failSequence_pending (i : Input) (s : State) : (s.failSequence i).pending = s.pending := rfl
@[simp] theorem State.failSequence_rate (i : Input) (s : State) : (s.failSequence i).rate = s.rate := rfl
@[simp] theorem State.failSequence_align (i : Input) (s : State) : (s.failSequence i).align = s.align := rfl
@[simp] theorem State.failSequence_rx (i : Input) (s : State) : (s.failSequence i).rx = s.rx := rfl
@[simp] theorem State.failSequence_comm (i : Input) (s : State) : (s.failSequence i).comm = s.comm := rfl
@[simp] theorem State.failSequence_ports (i : Input) (s : State) : (s.failSequence i).ports = s.ports := rfl
@[simp] theorem State.failSequence_streams (i : Input) (s : State) : (s.failSequence i).streams = s.streams := rfl
@[simp] theorem State.failSequence_entries (i : Input) (s : State) : (s.failSequence i).entries = s.entries := rfl
@[simp] theorem State.failSequence_own (i : Input) (s : State) : (s.failSequence i).own = s.own := rfl
@[simp] theorem State.failSequence_moves (i : Input) (s : State) : (s.failSequence i).moves = s.moves := rfl
@[simp] theorem State.failSequence_bus (i : Input) (s : State) : (s.failSequence i).bus = s.bus := rfl
@[simp] theorem State.failSequence_restart (i : Input) (s : State) : (s.failSequence i).restart = s.restart := rfl
@[simp] theorem State.failSequence_clock (i : Input) (s : State) : (s.failSequence i).clock = s.clock := rfl
@[simp] theorem State.failSequence_draws (i : Input) (s : State) : (s.failSequence i).draws = s.draws := rfl

/-! `State.faultPhantom` -/

@[simp] theorem State.faultPhantom_pending (i : Input) (s : State) : (s.faultPhantom i).pending = s.pending := by
  unfold State.faultPhantom
  split <;> simp
@[simp] theorem State.faultPhantom_rate (i : Input) (s : State) : (s.faultPhantom i).rate = s.rate := by
  unfold State.faultPhantom
  split <;> simp
@[simp] theorem State.faultPhantom_align (i : Input) (s : State) : (s.faultPhantom i).align = s.align := by
  unfold State.faultPhantom
  split <;> simp
@[simp] theorem State.faultPhantom_rx (i : Input) (s : State) : (s.faultPhantom i).rx = s.rx := by
  unfold State.faultPhantom
  split <;> simp
@[simp] theorem State.faultPhantom_ports (i : Input) (s : State) : (s.faultPhantom i).ports = s.ports := by
  unfold State.faultPhantom
  split <;> simp
@[simp] theorem State.faultPhantom_streams (i : Input) (s : State) : (s.faultPhantom i).streams = s.streams := by
  unfold State.faultPhantom
  split <;> simp
@[simp] theorem State.faultPhantom_entries (i : Input) (s : State) : (s.faultPhantom i).entries = s.entries := by
  unfold State.faultPhantom
  split <;> simp
@[simp] theorem State.faultPhantom_own (i : Input) (s : State) : (s.faultPhantom i).own = s.own := by
  unfold State.faultPhantom
  split <;> simp
@[simp] theorem State.faultPhantom_moves (i : Input) (s : State) : (s.faultPhantom i).moves = s.moves := by
  unfold State.faultPhantom
  split <;> simp
@[simp] theorem State.faultPhantom_bus (i : Input) (s : State) : (s.faultPhantom i).bus = s.bus := by
  unfold State.faultPhantom
  split <;> simp
@[simp] theorem State.faultPhantom_restart (i : Input) (s : State) : (s.faultPhantom i).restart = s.restart := by
  unfold State.faultPhantom
  split <;> simp
@[simp] theorem State.faultPhantom_clock (i : Input) (s : State) : (s.faultPhantom i).clock = s.clock := by
  unfold State.faultPhantom
  split <;> simp
@[simp] theorem State.faultPhantom_draws (i : Input) (s : State) : (s.faultPhantom i).draws = s.draws := by
  unfold State.faultPhantom
  split <;> simp

/-! `State.faultDuringSettle` -/

@[simp] theorem State.faultDuringSettle_pending (i : Input) (s : State) : (s.faultDuringSettle i).pending = s.pending := by
  unfold State.faultDuringSettle
  split <;> simp
@[simp] theorem State.faultDuringSettle_rate (i : Input) (s : State) : (s.faultDuringSettle i).rate = s.rate := by
  unfold State.faultDuringSettle
  split <;> simp
@[simp] theorem State.faultDuringSettle_align (i : Input) (s : State) : (s.faultDuringSettle i).align = s.align := by
  unfold State.faultDuringSettle
  split <;> simp
@[simp] theorem State.faultDuringSettle_rx (i : Input) (s : State) : (s.faultDuringSettle i).rx = s.rx := by
  unfold State.faultDuringSettle
  split <;> simp
@[simp] theorem State.faultDuringSettle_comm (i : Input) (s : State) : (s.faultDuringSettle i).comm = s.comm := by
  unfold State.faultDuringSettle
  split <;> simp
@[simp] theorem State.faultDuringSettle_ports (i : Input) (s : State) : (s.faultDuringSettle i).ports = s.ports := by
  unfold State.faultDuringSettle
  split <;> simp
@[simp] theorem State.faultDuringSettle_streams (i : Input) (s : State) : (s.faultDuringSettle i).streams = s.streams := by
  unfold State.faultDuringSettle
  split <;> simp
@[simp] theorem State.faultDuringSettle_entries (i : Input) (s : State) : (s.faultDuringSettle i).entries = s.entries := by
  unfold State.faultDuringSettle
  split <;> simp
@[simp] theorem State.faultDuringSettle_own (i : Input) (s : State) : (s.faultDuringSettle i).own = s.own := by
  unfold State.faultDuringSettle
  split <;> simp
@[simp] theorem State.faultDuringSettle_moves (i : Input) (s : State) : (s.faultDuringSettle i).moves = s.moves := by
  unfold State.faultDuringSettle
  split <;> simp
@[simp] theorem State.faultDuringSettle_bus (i : Input) (s : State) : (s.faultDuringSettle i).bus = s.bus := by
  unfold State.faultDuringSettle
  split <;> simp
@[simp] theorem State.faultDuringSettle_restart (i : Input) (s : State) : (s.faultDuringSettle i).restart = s.restart := by
  unfold State.faultDuringSettle
  split <;> simp
@[simp] theorem State.faultDuringSettle_clock (i : Input) (s : State) : (s.faultDuringSettle i).clock = s.clock := by
  unfold State.faultDuringSettle
  split <;> simp
@[simp] theorem State.faultDuringSettle_draws (i : Input) (s : State) : (s.faultDuringSettle i).draws = s.draws := by
  unfold State.faultDuringSettle
  split <;> simp

/-! `State.phantomFault` -/

@[simp] theorem State.phantomFault_pending (i : Input) (s : State) : (s.phantomFault i).pending = s.pending := by
  unfold State.phantomFault
  split <;> simp
@[simp] theorem State.phantomFault_rate (i : Input) (s : State) : (s.phantomFault i).rate = s.rate := by
  unfold State.phantomFault
  split <;> simp
@[simp] theorem State.phantomFault_align (i : Input) (s : State) : (s.phantomFault i).align = s.align := by
  unfold State.phantomFault
  split <;> simp
@[simp] theorem State.phantomFault_rx (i : Input) (s : State) : (s.phantomFault i).rx = s.rx := by
  unfold State.phantomFault
  split <;> simp
@[simp] theorem State.phantomFault_ports (i : Input) (s : State) : (s.phantomFault i).ports = s.ports := by
  unfold State.phantomFault
  split <;> simp
@[simp] theorem State.phantomFault_streams (i : Input) (s : State) : (s.phantomFault i).streams = s.streams := by
  unfold State.phantomFault
  split <;> simp
@[simp] theorem State.phantomFault_entries (i : Input) (s : State) : (s.phantomFault i).entries = s.entries := by
  unfold State.phantomFault
  split <;> simp
@[simp] theorem State.phantomFault_own (i : Input) (s : State) : (s.phantomFault i).own = s.own := by
  unfold State.phantomFault
  split <;> simp
@[simp] theorem State.phantomFault_moves (i : Input) (s : State) : (s.phantomFault i).moves = s.moves := by
  unfold State.phantomFault
  split <;> simp
@[simp] theorem State.phantomFault_bus (i : Input) (s : State) : (s.phantomFault i).bus = s.bus := by
  unfold State.phantomFault
  split <;> simp
@[simp] theorem State.phantomFault_restart (i : Input) (s : State) : (s.phantomFault i).restart = s.restart := by
  unfold State.phantomFault
  split <;> simp
@[simp] theorem State.phantomFault_clock (i : Input) (s : State) : (s.phantomFault i).clock = s.clock := by
  unfold State.phantomFault
  split <;> simp
@[simp] theorem State.phantomFault_draws (i : Input) (s : State) : (s.phantomFault i).draws = s.draws := by
  unfold State.phantomFault
  split <;> simp

/-! `State.handOwnerTarget` -/

@[simp] theorem State.handOwnerTarget_pending (i : Input) (s : State) : (s.handOwnerTarget i).pending = s.pending := by
  unfold State.handOwnerTarget
  split <;> simp
@[simp] theorem State.handOwnerTarget_rate (i : Input) (s : State) : (s.handOwnerTarget i).rate = s.rate := by
  unfold State.handOwnerTarget
  split <;> simp
@[simp] theorem State.handOwnerTarget_align (i : Input) (s : State) : (s.handOwnerTarget i).align = s.align := by
  unfold State.handOwnerTarget
  split <;> simp
@[simp] theorem State.handOwnerTarget_rx (i : Input) (s : State) : (s.handOwnerTarget i).rx = s.rx := by
  unfold State.handOwnerTarget
  split <;> simp
@[simp] theorem State.handOwnerTarget_comm (i : Input) (s : State) : (s.handOwnerTarget i).comm = s.comm := by
  unfold State.handOwnerTarget
  split <;> simp
@[simp] theorem State.handOwnerTarget_ports (i : Input) (s : State) : (s.handOwnerTarget i).ports = s.ports := by
  unfold State.handOwnerTarget
  split <;> simp
@[simp] theorem State.handOwnerTarget_streams (i : Input) (s : State) : (s.handOwnerTarget i).streams = s.streams := by
  unfold State.handOwnerTarget
  split <;> simp
@[simp] theorem State.handOwnerTarget_entries (i : Input) (s : State) : (s.handOwnerTarget i).entries = s.entries := by
  unfold State.handOwnerTarget
  split <;> simp
@[simp] theorem State.handOwnerTarget_pairs (i : Input) (s : State) : (s.handOwnerTarget i).pairs = s.pairs := by
  unfold State.handOwnerTarget
  split <;> simp
@[simp] theorem State.handOwnerTarget_own (i : Input) (s : State) : (s.handOwnerTarget i).own = s.own := by
  unfold State.handOwnerTarget
  split <;> simp
@[simp] theorem State.handOwnerTarget_phantoms (i : Input) (s : State) : (s.handOwnerTarget i).phantoms = s.phantoms := by
  unfold State.handOwnerTarget
  split <;> simp
@[simp] theorem State.handOwnerTarget_restart (i : Input) (s : State) : (s.handOwnerTarget i).restart = s.restart := by
  unfold State.handOwnerTarget
  split <;> simp
@[simp] theorem State.handOwnerTarget_clock (i : Input) (s : State) : (s.handOwnerTarget i).clock = s.clock := by
  unfold State.handOwnerTarget
  split <;> simp
@[simp] theorem State.handOwnerTarget_draws (i : Input) (s : State) : (s.handOwnerTarget i).draws = s.draws := by
  unfold State.handOwnerTarget
  split <;> simp

/-! `State.raiseOwner` -/

@[simp] theorem State.raiseOwner_pending (i : Input) (before : Option Party) (s : State) :
    (s.raiseOwner i before).pending = s.pending := rfl
@[simp] theorem State.raiseOwner_rate (i : Input) (before : Option Party) (s : State) :
    (s.raiseOwner i before).rate = s.rate := rfl
@[simp] theorem State.raiseOwner_align (i : Input) (before : Option Party) (s : State) :
    (s.raiseOwner i before).align = s.align := rfl
@[simp] theorem State.raiseOwner_rx (i : Input) (before : Option Party) (s : State) :
    (s.raiseOwner i before).rx = s.rx := rfl
@[simp] theorem State.raiseOwner_ports (i : Input) (before : Option Party) (s : State) :
    (s.raiseOwner i before).ports = s.ports := rfl
@[simp] theorem State.raiseOwner_streams (i : Input) (before : Option Party) (s : State) :
    (s.raiseOwner i before).streams = s.streams := rfl
@[simp] theorem State.raiseOwner_entries (i : Input) (before : Option Party) (s : State) :
    (s.raiseOwner i before).entries = s.entries := rfl
@[simp] theorem State.raiseOwner_pairs (i : Input) (before : Option Party) (s : State) :
    (s.raiseOwner i before).pairs = s.pairs := rfl
@[simp] theorem State.raiseOwner_own (i : Input) (before : Option Party) (s : State) :
    (s.raiseOwner i before).own = s.own := rfl
@[simp] theorem State.raiseOwner_moves (i : Input) (before : Option Party) (s : State) :
    (s.raiseOwner i before).moves = s.moves := rfl
@[simp] theorem State.raiseOwner_phantoms (i : Input) (before : Option Party) (s : State) :
    (s.raiseOwner i before).phantoms = s.phantoms := rfl
@[simp] theorem State.raiseOwner_bus (i : Input) (before : Option Party) (s : State) :
    (s.raiseOwner i before).bus = s.bus := rfl
@[simp] theorem State.raiseOwner_restart (i : Input) (before : Option Party) (s : State) :
    (s.raiseOwner i before).restart = s.restart := rfl
@[simp] theorem State.raiseOwner_clock (i : Input) (before : Option Party) (s : State) :
    (s.raiseOwner i before).clock = s.clock := rfl
@[simp] theorem State.raiseOwner_draws (i : Input) (before : Option Party) (s : State) :
    (s.raiseOwner i before).draws = s.draws := rfl

/-! `State.changeOwner` -/

@[simp] theorem State.changeOwner_pending (i : Input) (who : Option Party) (s : State) :
    (s.changeOwner i who).pending = s.pending := by
  simp [State.changeOwner]
@[simp] theorem State.changeOwner_rate (i : Input) (who : Option Party) (s : State) :
    (s.changeOwner i who).rate = s.rate := by
  simp [State.changeOwner]
@[simp] theorem State.changeOwner_align (i : Input) (who : Option Party) (s : State) :
    (s.changeOwner i who).align = s.align := by
  simp [State.changeOwner]
@[simp] theorem State.changeOwner_rx (i : Input) (who : Option Party) (s : State) : (s.changeOwner i who).rx = s.rx := by
  simp [State.changeOwner]
@[simp] theorem State.changeOwner_ports (i : Input) (who : Option Party) (s : State) :
    (s.changeOwner i who).ports = s.ports := by
  simp [State.changeOwner]
@[simp] theorem State.changeOwner_streams (i : Input) (who : Option Party) (s : State) :
    (s.changeOwner i who).streams = s.streams := by
  simp [State.changeOwner]
@[simp] theorem State.changeOwner_entries (i : Input) (who : Option Party) (s : State) :
    (s.changeOwner i who).entries = s.entries := by
  simp [State.changeOwner]
@[simp] theorem State.changeOwner_pairs (i : Input) (who : Option Party) (s : State) :
    (s.changeOwner i who).pairs = s.pairs := by
  simp [State.changeOwner]
@[simp] theorem State.changeOwner_phantoms (i : Input) (who : Option Party) (s : State) :
    (s.changeOwner i who).phantoms = s.phantoms := by
  simp [State.changeOwner]
@[simp] theorem State.changeOwner_restart (i : Input) (who : Option Party) (s : State) :
    (s.changeOwner i who).restart = s.restart := by
  simp [State.changeOwner]
@[simp] theorem State.changeOwner_clock (i : Input) (who : Option Party) (s : State) :
    (s.changeOwner i who).clock = s.clock := by
  simp [State.changeOwner]
@[simp] theorem State.changeOwner_draws (i : Input) (who : Option Party) (s : State) :
    (s.changeOwner i who).draws = s.draws := by
  simp [State.changeOwner]

/-! `State.passOn` -/

@[simp] theorem State.passOn_pending (i : Input) (s : State) : (s.passOn i).pending = s.pending := by
  simp [State.passOn]
@[simp] theorem State.passOn_rate (i : Input) (s : State) : (s.passOn i).rate = s.rate := by simp [State.passOn]
@[simp] theorem State.passOn_align (i : Input) (s : State) : (s.passOn i).align = s.align := by simp [State.passOn]
@[simp] theorem State.passOn_rx (i : Input) (s : State) : (s.passOn i).rx = s.rx := by simp [State.passOn]
@[simp] theorem State.passOn_ports (i : Input) (s : State) : (s.passOn i).ports = s.ports := by simp [State.passOn]
@[simp] theorem State.passOn_streams (i : Input) (s : State) : (s.passOn i).streams = s.streams := by
  simp [State.passOn]
@[simp] theorem State.passOn_entries (i : Input) (s : State) : (s.passOn i).entries = s.entries := by
  simp [State.passOn]
@[simp] theorem State.passOn_pairs (i : Input) (s : State) : (s.passOn i).pairs = s.pairs := by simp [State.passOn]
@[simp] theorem State.passOn_phantoms (i : Input) (s : State) : (s.passOn i).phantoms = s.phantoms := by
  simp [State.passOn]
@[simp] theorem State.passOn_restart (i : Input) (s : State) : (s.passOn i).restart = s.restart := by
  simp [State.passOn]
@[simp] theorem State.passOn_clock (i : Input) (s : State) : (s.passOn i).clock = s.clock := by simp [State.passOn]
@[simp] theorem State.passOn_draws (i : Input) (s : State) : (s.passOn i).draws = s.draws := by simp [State.passOn]

/-! `State.passToPanel` -/

@[simp] theorem State.passToPanel_pending (k : Seat) (i : Input) (s : State) :
    (s.passToPanel k i).pending = s.pending := by
  simp [State.passToPanel]
@[simp] theorem State.passToPanel_rate (k : Seat) (i : Input) (s : State) : (s.passToPanel k i).rate = s.rate := by
  simp [State.passToPanel]
@[simp] theorem State.passToPanel_align (k : Seat) (i : Input) (s : State) : (s.passToPanel k i).align = s.align := by
  simp [State.passToPanel]
@[simp] theorem State.passToPanel_rx (k : Seat) (i : Input) (s : State) : (s.passToPanel k i).rx = s.rx := by
  simp [State.passToPanel]
@[simp] theorem State.passToPanel_ports (k : Seat) (i : Input) (s : State) : (s.passToPanel k i).ports = s.ports := by
  simp [State.passToPanel]
@[simp] theorem State.passToPanel_streams (k : Seat) (i : Input) (s : State) :
    (s.passToPanel k i).streams = s.streams := by
  simp [State.passToPanel]
@[simp] theorem State.passToPanel_entries (k : Seat) (i : Input) (s : State) :
    (s.passToPanel k i).entries = s.entries := by
  simp [State.passToPanel]
@[simp] theorem State.passToPanel_phantoms (k : Seat) (i : Input) (s : State) :
    (s.passToPanel k i).phantoms = s.phantoms := by
  simp [State.passToPanel]
@[simp] theorem State.passToPanel_restart (k : Seat) (i : Input) (s : State) :
    (s.passToPanel k i).restart = s.restart := by
  simp [State.passToPanel]
@[simp] theorem State.passToPanel_clock (k : Seat) (i : Input) (s : State) : (s.passToPanel k i).clock = s.clock := by
  simp [State.passToPanel]
@[simp] theorem State.passToPanel_draws (k : Seat) (i : Input) (s : State) : (s.passToPanel k i).draws = s.draws := by
  simp [State.passToPanel]

/-! `State.handOn` -/

@[simp] theorem State.handOn_pending (k : Seat) (i : Input) (s : State) : (s.handOn k i).pending = s.pending := by
  unfold State.handOn
  split <;> (try split) <;> simp
@[simp] theorem State.handOn_rate (k : Seat) (i : Input) (s : State) : (s.handOn k i).rate = s.rate := by
  unfold State.handOn
  split <;> (try split) <;> simp
@[simp] theorem State.handOn_align (k : Seat) (i : Input) (s : State) : (s.handOn k i).align = s.align := by
  unfold State.handOn
  split <;> (try split) <;> simp
@[simp] theorem State.handOn_rx (k : Seat) (i : Input) (s : State) : (s.handOn k i).rx = s.rx := by
  unfold State.handOn
  split <;> (try split) <;> simp
@[simp] theorem State.handOn_ports (k : Seat) (i : Input) (s : State) : (s.handOn k i).ports = s.ports := by
  unfold State.handOn
  split <;> (try split) <;> simp
@[simp] theorem State.handOn_streams (k : Seat) (i : Input) (s : State) : (s.handOn k i).streams = s.streams := by
  unfold State.handOn
  split <;> (try split) <;> simp
@[simp] theorem State.handOn_entries (k : Seat) (i : Input) (s : State) : (s.handOn k i).entries = s.entries := by
  unfold State.handOn
  split <;> (try split) <;> simp
@[simp] theorem State.handOn_phantoms (k : Seat) (i : Input) (s : State) : (s.handOn k i).phantoms = s.phantoms := by
  unfold State.handOn
  split <;> (try split) <;> simp
@[simp] theorem State.handOn_restart (k : Seat) (i : Input) (s : State) : (s.handOn k i).restart = s.restart := by
  unfold State.handOn
  split <;> (try split) <;> simp
@[simp] theorem State.handOn_clock (k : Seat) (i : Input) (s : State) : (s.handOn k i).clock = s.clock := by
  unfold State.handOn
  split <;> (try split) <;> simp
@[simp] theorem State.handOn_draws (k : Seat) (i : Input) (s : State) : (s.handOn k i).draws = s.draws := by
  unfold State.handOn
  split <;> (try split) <;> simp

/-! `State.choosePad` -/

@[simp] theorem State.choosePad_pending (i : Input) (pad : Bool) (s : State) :
    (s.choosePad i pad).pending = s.pending := by
  unfold State.choosePad
  split <;> simp
@[simp] theorem State.choosePad_rate (i : Input) (pad : Bool) (s : State) : (s.choosePad i pad).rate = s.rate := by
  unfold State.choosePad
  split <;> simp
@[simp] theorem State.choosePad_align (i : Input) (pad : Bool) (s : State) : (s.choosePad i pad).align = s.align := by
  unfold State.choosePad
  split <;> simp
@[simp] theorem State.choosePad_rx (i : Input) (pad : Bool) (s : State) : (s.choosePad i pad).rx = s.rx := by
  unfold State.choosePad
  split <;> simp
@[simp] theorem State.choosePad_comm (i : Input) (pad : Bool) (s : State) : (s.choosePad i pad).comm = s.comm := by
  unfold State.choosePad
  split <;> simp
@[simp] theorem State.choosePad_ports (i : Input) (pad : Bool) (s : State) : (s.choosePad i pad).ports = s.ports := by
  unfold State.choosePad
  split <;> simp
@[simp] theorem State.choosePad_streams (i : Input) (pad : Bool) (s : State) :
    (s.choosePad i pad).streams = s.streams := by
  unfold State.choosePad
  split <;> simp
@[simp] theorem State.choosePad_entries (i : Input) (pad : Bool) (s : State) :
    (s.choosePad i pad).entries = s.entries := by
  unfold State.choosePad
  split <;> simp
@[simp] theorem State.choosePad_pairs (i : Input) (pad : Bool) (s : State) : (s.choosePad i pad).pairs = s.pairs := by
  unfold State.choosePad
  split <;> simp
@[simp] theorem State.choosePad_phantoms (i : Input) (pad : Bool) (s : State) :
    (s.choosePad i pad).phantoms = s.phantoms := by
  unfold State.choosePad
  split <;> simp
@[simp] theorem State.choosePad_restart (i : Input) (pad : Bool) (s : State) :
    (s.choosePad i pad).restart = s.restart := by
  unfold State.choosePad
  split <;> simp
@[simp] theorem State.choosePad_clock (i : Input) (pad : Bool) (s : State) : (s.choosePad i pad).clock = s.clock := by
  unfold State.choosePad
  split <;> simp
@[simp] theorem State.choosePad_draws (i : Input) (pad : Bool) (s : State) : (s.choosePad i pad).draws = s.draws := by
  unfold State.choosePad
  split <;> simp

/-! `State.arbiterAdopts` -/

@[simp] theorem State.arbiterAdopts_pending (i : Input) (s : State) : (s.arbiterAdopts i).pending = s.pending := by
  unfold State.arbiterAdopts
  split <;> simp
@[simp] theorem State.arbiterAdopts_rate (i : Input) (s : State) : (s.arbiterAdopts i).rate = s.rate := by
  unfold State.arbiterAdopts
  split <;> simp
@[simp] theorem State.arbiterAdopts_align (i : Input) (s : State) : (s.arbiterAdopts i).align = s.align := by
  unfold State.arbiterAdopts
  split <;> simp
@[simp] theorem State.arbiterAdopts_rx (i : Input) (s : State) : (s.arbiterAdopts i).rx = s.rx := by
  unfold State.arbiterAdopts
  split <;> simp
@[simp] theorem State.arbiterAdopts_comm (i : Input) (s : State) : (s.arbiterAdopts i).comm = s.comm := by
  unfold State.arbiterAdopts
  split <;> simp
@[simp] theorem State.arbiterAdopts_ports (i : Input) (s : State) : (s.arbiterAdopts i).ports = s.ports := by
  unfold State.arbiterAdopts
  split <;> simp
@[simp] theorem State.arbiterAdopts_streams (i : Input) (s : State) : (s.arbiterAdopts i).streams = s.streams := by
  unfold State.arbiterAdopts
  split <;> simp
@[simp] theorem State.arbiterAdopts_entries (i : Input) (s : State) : (s.arbiterAdopts i).entries = s.entries := by
  unfold State.arbiterAdopts
  split <;> simp
@[simp] theorem State.arbiterAdopts_pairs (i : Input) (s : State) : (s.arbiterAdopts i).pairs = s.pairs := by
  unfold State.arbiterAdopts
  split <;> simp
@[simp] theorem State.arbiterAdopts_phantoms (i : Input) (s : State) : (s.arbiterAdopts i).phantoms = s.phantoms := by
  unfold State.arbiterAdopts
  split <;> simp
@[simp] theorem State.arbiterAdopts_restart (i : Input) (s : State) : (s.arbiterAdopts i).restart = s.restart := by
  unfold State.arbiterAdopts
  split <;> simp
@[simp] theorem State.arbiterAdopts_clock (i : Input) (s : State) : (s.arbiterAdopts i).clock = s.clock := by
  unfold State.arbiterAdopts
  split <;> simp
@[simp] theorem State.arbiterAdopts_draws (i : Input) (s : State) : (s.arbiterAdopts i).draws = s.draws := by
  unfold State.arbiterAdopts
  split <;> simp

/-! `State.raiseMoved` -/

@[simp] theorem State.raiseMoved_pending (i : Input) (o : MovedOutcome) (s : State) :
    (s.raiseMoved i o).pending = s.pending := rfl
@[simp] theorem State.raiseMoved_rate (i : Input) (o : MovedOutcome) (s : State) : (s.raiseMoved i o).rate = s.rate := rfl
@[simp] theorem State.raiseMoved_align (i : Input) (o : MovedOutcome) (s : State) :
    (s.raiseMoved i o).align = s.align := rfl
@[simp] theorem State.raiseMoved_rx (i : Input) (o : MovedOutcome) (s : State) : (s.raiseMoved i o).rx = s.rx := rfl
@[simp] theorem State.raiseMoved_ports (i : Input) (o : MovedOutcome) (s : State) :
    (s.raiseMoved i o).ports = s.ports := rfl
@[simp] theorem State.raiseMoved_streams (i : Input) (o : MovedOutcome) (s : State) :
    (s.raiseMoved i o).streams = s.streams := rfl
@[simp] theorem State.raiseMoved_entries (i : Input) (o : MovedOutcome) (s : State) :
    (s.raiseMoved i o).entries = s.entries := rfl
@[simp] theorem State.raiseMoved_pairs (i : Input) (o : MovedOutcome) (s : State) :
    (s.raiseMoved i o).pairs = s.pairs := rfl
@[simp] theorem State.raiseMoved_own (i : Input) (o : MovedOutcome) (s : State) : (s.raiseMoved i o).own = s.own := rfl
@[simp] theorem State.raiseMoved_moves (i : Input) (o : MovedOutcome) (s : State) :
    (s.raiseMoved i o).moves = s.moves := rfl
@[simp] theorem State.raiseMoved_phantoms (i : Input) (o : MovedOutcome) (s : State) :
    (s.raiseMoved i o).phantoms = s.phantoms := rfl
@[simp] theorem State.raiseMoved_bus (i : Input) (o : MovedOutcome) (s : State) : (s.raiseMoved i o).bus = s.bus := rfl
@[simp] theorem State.raiseMoved_restart (i : Input) (o : MovedOutcome) (s : State) :
    (s.raiseMoved i o).restart = s.restart := rfl
@[simp] theorem State.raiseMoved_clock (i : Input) (o : MovedOutcome) (s : State) :
    (s.raiseMoved i o).clock = s.clock := rfl
@[simp] theorem State.raiseMoved_draws (i : Input) (o : MovedOutcome) (s : State) :
    (s.raiseMoved i o).draws = s.draws := rfl

/-! `State.endMove` -/

@[simp] theorem State.endMove_pending (i : Input) (o : MovedOutcome) (s : State) :
    (s.endMove i o).pending = s.pending := by
  simp [State.endMove]
@[simp] theorem State.endMove_rate (i : Input) (o : MovedOutcome) (s : State) : (s.endMove i o).rate = s.rate := by
  simp [State.endMove]
@[simp] theorem State.endMove_align (i : Input) (o : MovedOutcome) (s : State) : (s.endMove i o).align = s.align := by
  simp [State.endMove]
@[simp] theorem State.endMove_rx (i : Input) (o : MovedOutcome) (s : State) : (s.endMove i o).rx = s.rx := by
  simp [State.endMove]
@[simp] theorem State.endMove_ports (i : Input) (o : MovedOutcome) (s : State) : (s.endMove i o).ports = s.ports := by
  simp [State.endMove]
@[simp] theorem State.endMove_streams (i : Input) (o : MovedOutcome) (s : State) :
    (s.endMove i o).streams = s.streams := by
  simp [State.endMove]
@[simp] theorem State.endMove_entries (i : Input) (o : MovedOutcome) (s : State) :
    (s.endMove i o).entries = s.entries := by
  simp [State.endMove]
@[simp] theorem State.endMove_own (i : Input) (o : MovedOutcome) (s : State) : (s.endMove i o).own = s.own := by
  simp [State.endMove]
@[simp] theorem State.endMove_restart (i : Input) (o : MovedOutcome) (s : State) :
    (s.endMove i o).restart = s.restart := by
  simp [State.endMove]
@[simp] theorem State.endMove_clock (i : Input) (o : MovedOutcome) (s : State) : (s.endMove i o).clock = s.clock := by
  simp [State.endMove]
@[simp] theorem State.endMove_draws (i : Input) (o : MovedOutcome) (s : State) : (s.endMove i o).draws = s.draws := by
  simp [State.endMove]

/-! `State.land` -/

@[simp] theorem State.land_pending (i : Input) (t : Setting) (s : State) : (s.land i t).pending = s.pending := by
  simp [State.land]
@[simp] theorem State.land_rate (i : Input) (t : Setting) (s : State) : (s.land i t).rate = s.rate := by
  simp [State.land]
@[simp] theorem State.land_align (i : Input) (t : Setting) (s : State) : (s.land i t).align = s.align := by
  simp [State.land]
@[simp] theorem State.land_rx (i : Input) (t : Setting) (s : State) : (s.land i t).rx = s.rx := by simp [State.land]
@[simp] theorem State.land_ports (i : Input) (t : Setting) (s : State) : (s.land i t).ports = s.ports := by
  simp [State.land]
@[simp] theorem State.land_streams (i : Input) (t : Setting) (s : State) : (s.land i t).streams = s.streams := by
  simp [State.land]
@[simp] theorem State.land_entries (i : Input) (t : Setting) (s : State) : (s.land i t).entries = s.entries := by
  simp [State.land]
@[simp] theorem State.land_own (i : Input) (t : Setting) (s : State) : (s.land i t).own = s.own := by simp [State.land]
@[simp] theorem State.land_restart (i : Input) (t : Setting) (s : State) : (s.land i t).restart = s.restart := by
  simp [State.land]
@[simp] theorem State.land_clock (i : Input) (t : Setting) (s : State) : (s.land i t).clock = s.clock := by
  simp [State.land]
@[simp] theorem State.land_draws (i : Input) (t : Setting) (s : State) : (s.land i t).draws = s.draws := by
  simp [State.land]

/-! `State.landIfDue` -/

@[simp] theorem State.landIfDue_pending (i : Input) (s : State) : (s.landIfDue i).pending = s.pending := by
  unfold State.landIfDue
  split <;> simp
@[simp] theorem State.landIfDue_rate (i : Input) (s : State) : (s.landIfDue i).rate = s.rate := by
  unfold State.landIfDue
  split <;> simp
@[simp] theorem State.landIfDue_align (i : Input) (s : State) : (s.landIfDue i).align = s.align := by
  unfold State.landIfDue
  split <;> simp
@[simp] theorem State.landIfDue_rx (i : Input) (s : State) : (s.landIfDue i).rx = s.rx := by
  unfold State.landIfDue
  split <;> simp
@[simp] theorem State.landIfDue_ports (i : Input) (s : State) : (s.landIfDue i).ports = s.ports := by
  unfold State.landIfDue
  split <;> simp
@[simp] theorem State.landIfDue_streams (i : Input) (s : State) : (s.landIfDue i).streams = s.streams := by
  unfold State.landIfDue
  split <;> simp
@[simp] theorem State.landIfDue_entries (i : Input) (s : State) : (s.landIfDue i).entries = s.entries := by
  unfold State.landIfDue
  split <;> simp
@[simp] theorem State.landIfDue_own (i : Input) (s : State) : (s.landIfDue i).own = s.own := by
  unfold State.landIfDue
  split <;> simp
@[simp] theorem State.landIfDue_restart (i : Input) (s : State) : (s.landIfDue i).restart = s.restart := by
  unfold State.landIfDue
  split <;> simp
@[simp] theorem State.landIfDue_clock (i : Input) (s : State) : (s.landIfDue i).clock = s.clock := by
  unfold State.landIfDue
  split <;> simp
@[simp] theorem State.landIfDue_draws (i : Input) (s : State) : (s.landIfDue i).draws = s.draws := by
  unfold State.landIfDue
  split <;> simp

/-! `State.landingBoundary` -/

@[simp] theorem State.landingBoundary_pending (i : Input) (s : State) : (s.landingBoundary i).pending = s.pending := by
  unfold State.landingBoundary
  split <;> simp
@[simp] theorem State.landingBoundary_rate (i : Input) (s : State) : (s.landingBoundary i).rate = s.rate := by
  unfold State.landingBoundary
  split <;> simp
@[simp] theorem State.landingBoundary_align (i : Input) (s : State) : (s.landingBoundary i).align = s.align := by
  unfold State.landingBoundary
  split <;> simp
@[simp] theorem State.landingBoundary_rx (i : Input) (s : State) : (s.landingBoundary i).rx = s.rx := by
  unfold State.landingBoundary
  split <;> simp
@[simp] theorem State.landingBoundary_ports (i : Input) (s : State) : (s.landingBoundary i).ports = s.ports := by
  unfold State.landingBoundary
  split <;> simp
@[simp] theorem State.landingBoundary_streams (i : Input) (s : State) : (s.landingBoundary i).streams = s.streams := by
  unfold State.landingBoundary
  split <;> simp
@[simp] theorem State.landingBoundary_entries (i : Input) (s : State) : (s.landingBoundary i).entries = s.entries := by
  unfold State.landingBoundary
  split <;> simp
@[simp] theorem State.landingBoundary_own (i : Input) (s : State) : (s.landingBoundary i).own = s.own := by
  unfold State.landingBoundary
  split <;> simp
@[simp] theorem State.landingBoundary_restart (i : Input) (s : State) : (s.landingBoundary i).restart = s.restart := by
  unfold State.landingBoundary
  split <;> simp
@[simp] theorem State.landingBoundary_clock (i : Input) (s : State) : (s.landingBoundary i).clock = s.clock := by
  unfold State.landingBoundary
  split <;> simp
@[simp] theorem State.landingBoundary_draws (i : Input) (s : State) : (s.landingBoundary i).draws = s.draws := by
  unfold State.landingBoundary
  split <;> simp

/-! `State.moveTaken` -/

@[simp] theorem State.moveTaken_pending (i : Input) (s : State) : (s.moveTaken i).pending = s.pending := by
  unfold State.moveTaken
  split <;> simp
@[simp] theorem State.moveTaken_rate (i : Input) (s : State) : (s.moveTaken i).rate = s.rate := by
  unfold State.moveTaken
  split <;> simp
@[simp] theorem State.moveTaken_align (i : Input) (s : State) : (s.moveTaken i).align = s.align := by
  unfold State.moveTaken
  split <;> simp
@[simp] theorem State.moveTaken_rx (i : Input) (s : State) : (s.moveTaken i).rx = s.rx := by
  unfold State.moveTaken
  split <;> simp
@[simp] theorem State.moveTaken_comm (i : Input) (s : State) : (s.moveTaken i).comm = s.comm := by
  unfold State.moveTaken
  split <;> simp
@[simp] theorem State.moveTaken_ports (i : Input) (s : State) : (s.moveTaken i).ports = s.ports := by
  unfold State.moveTaken
  split <;> simp
@[simp] theorem State.moveTaken_streams (i : Input) (s : State) : (s.moveTaken i).streams = s.streams := by
  unfold State.moveTaken
  split <;> simp
@[simp] theorem State.moveTaken_entries (i : Input) (s : State) : (s.moveTaken i).entries = s.entries := by
  unfold State.moveTaken
  split <;> simp
@[simp] theorem State.moveTaken_pairs (i : Input) (s : State) : (s.moveTaken i).pairs = s.pairs := by
  unfold State.moveTaken
  split <;> simp
@[simp] theorem State.moveTaken_own (i : Input) (s : State) : (s.moveTaken i).own = s.own := by
  unfold State.moveTaken
  split <;> simp
@[simp] theorem State.moveTaken_phantoms (i : Input) (s : State) : (s.moveTaken i).phantoms = s.phantoms := by
  unfold State.moveTaken
  split <;> simp
@[simp] theorem State.moveTaken_bus (i : Input) (s : State) : (s.moveTaken i).bus = s.bus := by
  unfold State.moveTaken
  split <;> simp
@[simp] theorem State.moveTaken_restart (i : Input) (s : State) : (s.moveTaken i).restart = s.restart := by
  unfold State.moveTaken
  split <;> simp
@[simp] theorem State.moveTaken_clock (i : Input) (s : State) : (s.moveTaken i).clock = s.clock := by
  unfold State.moveTaken
  split <;> simp
@[simp] theorem State.moveTaken_draws (i : Input) (s : State) : (s.moveTaken i).draws = s.draws := by
  unfold State.moveTaken
  split <;> simp

/-! `State.moveNotTaken` -/

@[simp] theorem State.moveNotTaken_pending (i : Input) (s : State) : (s.moveNotTaken i).pending = s.pending := by
  unfold State.moveNotTaken
  split <;> simp
@[simp] theorem State.moveNotTaken_rate (i : Input) (s : State) : (s.moveNotTaken i).rate = s.rate := by
  unfold State.moveNotTaken
  split <;> simp
@[simp] theorem State.moveNotTaken_align (i : Input) (s : State) : (s.moveNotTaken i).align = s.align := by
  unfold State.moveNotTaken
  split <;> simp
@[simp] theorem State.moveNotTaken_rx (i : Input) (s : State) : (s.moveNotTaken i).rx = s.rx := by
  unfold State.moveNotTaken
  split <;> simp
@[simp] theorem State.moveNotTaken_ports (i : Input) (s : State) : (s.moveNotTaken i).ports = s.ports := by
  unfold State.moveNotTaken
  split <;> simp
@[simp] theorem State.moveNotTaken_streams (i : Input) (s : State) : (s.moveNotTaken i).streams = s.streams := by
  unfold State.moveNotTaken
  split <;> simp
@[simp] theorem State.moveNotTaken_entries (i : Input) (s : State) : (s.moveNotTaken i).entries = s.entries := by
  unfold State.moveNotTaken
  split <;> simp
@[simp] theorem State.moveNotTaken_own (i : Input) (s : State) : (s.moveNotTaken i).own = s.own := by
  unfold State.moveNotTaken
  split <;> simp
@[simp] theorem State.moveNotTaken_restart (i : Input) (s : State) : (s.moveNotTaken i).restart = s.restart := by
  unfold State.moveNotTaken
  split <;> simp
@[simp] theorem State.moveNotTaken_clock (i : Input) (s : State) : (s.moveNotTaken i).clock = s.clock := by
  unfold State.moveNotTaken
  split <;> simp
@[simp] theorem State.moveNotTaken_draws (i : Input) (s : State) : (s.moveNotTaken i).draws = s.draws := by
  unfold State.moveNotTaken
  split <;> simp

/-! `State.faultMove` -/

@[simp] theorem State.faultMove_pending (i : Input) (s : State) : (s.faultMove i).pending = s.pending := rfl
@[simp] theorem State.faultMove_rate (i : Input) (s : State) : (s.faultMove i).rate = s.rate := rfl
@[simp] theorem State.faultMove_align (i : Input) (s : State) : (s.faultMove i).align = s.align := rfl
@[simp] theorem State.faultMove_rx (i : Input) (s : State) : (s.faultMove i).rx = s.rx := rfl
@[simp] theorem State.faultMove_ports (i : Input) (s : State) : (s.faultMove i).ports = s.ports := rfl
@[simp] theorem State.faultMove_streams (i : Input) (s : State) : (s.faultMove i).streams = s.streams := rfl
@[simp] theorem State.faultMove_entries (i : Input) (s : State) : (s.faultMove i).entries = s.entries := rfl
@[simp] theorem State.faultMove_own (i : Input) (s : State) : (s.faultMove i).own = s.own := rfl
@[simp] theorem State.faultMove_phantoms (i : Input) (s : State) : (s.faultMove i).phantoms = s.phantoms := rfl
@[simp] theorem State.faultMove_bus (i : Input) (s : State) : (s.faultMove i).bus = s.bus := rfl
@[simp] theorem State.faultMove_restart (i : Input) (s : State) : (s.faultMove i).restart = s.restart := rfl
@[simp] theorem State.faultMove_clock (i : Input) (s : State) : (s.faultMove i).clock = s.clock := rfl
@[simp] theorem State.faultMove_draws (i : Input) (s : State) : (s.faultMove i).draws = s.draws := rfl

/-! `State.becomeKnown` -/

@[simp] theorem State.becomeKnown_pending (i : Input) (t : Setting) (s : State) :
    (s.becomeKnown i t).pending = s.pending := rfl
@[simp] theorem State.becomeKnown_rate (i : Input) (t : Setting) (s : State) : (s.becomeKnown i t).rate = s.rate := rfl
@[simp] theorem State.becomeKnown_align (i : Input) (t : Setting) (s : State) : (s.becomeKnown i t).align = s.align := rfl
@[simp] theorem State.becomeKnown_rx (i : Input) (t : Setting) (s : State) : (s.becomeKnown i t).rx = s.rx := rfl
@[simp] theorem State.becomeKnown_ports (i : Input) (t : Setting) (s : State) : (s.becomeKnown i t).ports = s.ports := rfl
@[simp] theorem State.becomeKnown_streams (i : Input) (t : Setting) (s : State) :
    (s.becomeKnown i t).streams = s.streams := rfl
@[simp] theorem State.becomeKnown_entries (i : Input) (t : Setting) (s : State) :
    (s.becomeKnown i t).entries = s.entries := rfl
@[simp] theorem State.becomeKnown_own (i : Input) (t : Setting) (s : State) : (s.becomeKnown i t).own = s.own := rfl
@[simp] theorem State.becomeKnown_phantoms (i : Input) (t : Setting) (s : State) :
    (s.becomeKnown i t).phantoms = s.phantoms := rfl
@[simp] theorem State.becomeKnown_bus (i : Input) (t : Setting) (s : State) : (s.becomeKnown i t).bus = s.bus := rfl
@[simp] theorem State.becomeKnown_restart (i : Input) (t : Setting) (s : State) :
    (s.becomeKnown i t).restart = s.restart := rfl
@[simp] theorem State.becomeKnown_clock (i : Input) (t : Setting) (s : State) : (s.becomeKnown i t).clock = s.clock := rfl
@[simp] theorem State.becomeKnown_draws (i : Input) (t : Setting) (s : State) : (s.becomeKnown i t).draws = s.draws := rfl

/-! `State.adopt` -/

@[simp] theorem State.adopt_pending (startUp : Bool) (i : Input) (w : Byte) (s : State) :
    (s.adopt startUp i w).pending = s.pending := by
  unfold State.adopt
  split <;> simp
@[simp] theorem State.adopt_rate (startUp : Bool) (i : Input) (w : Byte) (s : State) :
    (s.adopt startUp i w).rate = s.rate := by
  unfold State.adopt
  split <;> simp
@[simp] theorem State.adopt_align (startUp : Bool) (i : Input) (w : Byte) (s : State) :
    (s.adopt startUp i w).align = s.align := by
  unfold State.adopt
  split <;> simp
@[simp] theorem State.adopt_rx (startUp : Bool) (i : Input) (w : Byte) (s : State) : (s.adopt startUp i w).rx = s.rx := by
  unfold State.adopt
  split <;> simp
@[simp] theorem State.adopt_ports (startUp : Bool) (i : Input) (w : Byte) (s : State) :
    (s.adopt startUp i w).ports = s.ports := by
  unfold State.adopt
  split <;> simp
@[simp] theorem State.adopt_streams (startUp : Bool) (i : Input) (w : Byte) (s : State) :
    (s.adopt startUp i w).streams = s.streams := by
  unfold State.adopt
  split <;> simp
@[simp] theorem State.adopt_entries (startUp : Bool) (i : Input) (w : Byte) (s : State) :
    (s.adopt startUp i w).entries = s.entries := by
  unfold State.adopt
  split <;> simp
@[simp] theorem State.adopt_restart (startUp : Bool) (i : Input) (w : Byte) (s : State) :
    (s.adopt startUp i w).restart = s.restart := by
  unfold State.adopt
  split <;> simp
@[simp] theorem State.adopt_clock (startUp : Bool) (i : Input) (w : Byte) (s : State) :
    (s.adopt startUp i w).clock = s.clock := by
  unfold State.adopt
  split <;> simp
@[simp] theorem State.adopt_draws (startUp : Bool) (i : Input) (w : Byte) (s : State) :
    (s.adopt startUp i w).draws = s.draws := by
  unfold State.adopt
  split <;> simp

/-! `State.erase` -/

@[simp] theorem State.erase_pending (k : Seat) (s : State) : (s.erase k).pending = s.pending := by
  simp [State.erase, foldl_keeps (g := State.pending)]
@[simp] theorem State.erase_rate (k : Seat) (s : State) : (s.erase k).rate = s.rate := by
  simp [State.erase, foldl_keeps (g := State.rate)]
@[simp] theorem State.erase_align (k : Seat) (s : State) : (s.erase k).align = s.align := by
  simp [State.erase, foldl_keeps (g := State.align)]
@[simp] theorem State.erase_rx (k : Seat) (s : State) : (s.erase k).rx = s.rx := by
  simp [State.erase, foldl_keeps (g := State.rx)]
@[simp] theorem State.erase_ports (k : Seat) (s : State) : (s.erase k).ports = s.ports := by
  simp [State.erase, foldl_keeps (g := State.ports)]
@[simp] theorem State.erase_streams (k : Seat) (s : State) : (s.erase k).streams = s.streams := by
  simp [State.erase, foldl_keeps (g := State.streams)]
@[simp] theorem State.erase_phantoms (k : Seat) (s : State) : (s.erase k).phantoms = s.phantoms := by
  simp [State.erase, foldl_keeps (g := State.phantoms)]
@[simp] theorem State.erase_restart (k : Seat) (s : State) : (s.erase k).restart = s.restart := by
  simp [State.erase, foldl_keeps (g := State.restart)]
@[simp] theorem State.erase_clock (k : Seat) (s : State) : (s.erase k).clock = s.clock := by
  simp [State.erase, foldl_keeps (g := State.clock)]
@[simp] theorem State.erase_draws (k : Seat) (s : State) : (s.erase k).draws = s.draws := by
  simp [State.erase, foldl_keeps (g := State.draws)]

/-! `State.createConsumer` -/

@[simp] theorem State.createConsumer_pending (k : Seat) (r : BindReport) (s : State) :
    (s.createConsumer k r).pending = s.pending := rfl
@[simp] theorem State.createConsumer_rate (k : Seat) (r : BindReport) (s : State) :
    (s.createConsumer k r).rate = s.rate := rfl
@[simp] theorem State.createConsumer_align (k : Seat) (r : BindReport) (s : State) :
    (s.createConsumer k r).align = s.align := rfl
@[simp] theorem State.createConsumer_rx (k : Seat) (r : BindReport) (s : State) : (s.createConsumer k r).rx = s.rx := rfl
@[simp] theorem State.createConsumer_comm (k : Seat) (r : BindReport) (s : State) :
    (s.createConsumer k r).comm = s.comm := rfl
@[simp] theorem State.createConsumer_ports (k : Seat) (r : BindReport) (s : State) :
    (s.createConsumer k r).ports = s.ports := rfl
@[simp] theorem State.createConsumer_streams (k : Seat) (r : BindReport) (s : State) :
    (s.createConsumer k r).streams = s.streams := rfl
@[simp] theorem State.createConsumer_own (k : Seat) (r : BindReport) (s : State) : (s.createConsumer k r).own = s.own := rfl
@[simp] theorem State.createConsumer_moves (k : Seat) (r : BindReport) (s : State) :
    (s.createConsumer k r).moves = s.moves := rfl
@[simp] theorem State.createConsumer_phantoms (k : Seat) (r : BindReport) (s : State) :
    (s.createConsumer k r).phantoms = s.phantoms := rfl
@[simp] theorem State.createConsumer_bus (k : Seat) (r : BindReport) (s : State) : (s.createConsumer k r).bus = s.bus := rfl
@[simp] theorem State.createConsumer_restart (k : Seat) (r : BindReport) (s : State) :
    (s.createConsumer k r).restart = s.restart := rfl
@[simp] theorem State.createConsumer_clock (k : Seat) (r : BindReport) (s : State) :
    (s.createConsumer k r).clock = s.clock := rfl
@[simp] theorem State.createConsumer_draws (k : Seat) (r : BindReport) (s : State) :
    (s.createConsumer k r).draws = s.draws := rfl

/-! `State.rebind` -/

@[simp] theorem State.rebind_pending (k : Seat) (r : BindReport) (s : State) : (s.rebind k r).pending = s.pending := rfl
@[simp] theorem State.rebind_rate (k : Seat) (r : BindReport) (s : State) : (s.rebind k r).rate = s.rate := rfl
@[simp] theorem State.rebind_align (k : Seat) (r : BindReport) (s : State) : (s.rebind k r).align = s.align := rfl
@[simp] theorem State.rebind_rx (k : Seat) (r : BindReport) (s : State) : (s.rebind k r).rx = s.rx := rfl
@[simp] theorem State.rebind_comm (k : Seat) (r : BindReport) (s : State) : (s.rebind k r).comm = s.comm := rfl
@[simp] theorem State.rebind_ports (k : Seat) (r : BindReport) (s : State) : (s.rebind k r).ports = s.ports := rfl
@[simp] theorem State.rebind_streams (k : Seat) (r : BindReport) (s : State) : (s.rebind k r).streams = s.streams := rfl
@[simp] theorem State.rebind_pairs (k : Seat) (r : BindReport) (s : State) : (s.rebind k r).pairs = s.pairs := rfl
@[simp] theorem State.rebind_own (k : Seat) (r : BindReport) (s : State) : (s.rebind k r).own = s.own := rfl
@[simp] theorem State.rebind_moves (k : Seat) (r : BindReport) (s : State) : (s.rebind k r).moves = s.moves := rfl
@[simp] theorem State.rebind_phantoms (k : Seat) (r : BindReport) (s : State) : (s.rebind k r).phantoms = s.phantoms := rfl
@[simp] theorem State.rebind_bus (k : Seat) (r : BindReport) (s : State) : (s.rebind k r).bus = s.bus := rfl
@[simp] theorem State.rebind_restart (k : Seat) (r : BindReport) (s : State) : (s.rebind k r).restart = s.restart := rfl
@[simp] theorem State.rebind_clock (k : Seat) (r : BindReport) (s : State) : (s.rebind k r).clock = s.clock := rfl
@[simp] theorem State.rebind_draws (k : Seat) (r : BindReport) (s : State) : (s.rebind k r).draws = s.draws := rfl

/-! `State.joinTwin` -/

@[simp] theorem State.joinTwin_pending (k : Seat) (r : BindReport) (s : State) : (s.joinTwin k r).pending = s.pending := rfl
@[simp] theorem State.joinTwin_rate (k : Seat) (r : BindReport) (s : State) : (s.joinTwin k r).rate = s.rate := rfl
@[simp] theorem State.joinTwin_align (k : Seat) (r : BindReport) (s : State) : (s.joinTwin k r).align = s.align := rfl
@[simp] theorem State.joinTwin_rx (k : Seat) (r : BindReport) (s : State) : (s.joinTwin k r).rx = s.rx := rfl
@[simp] theorem State.joinTwin_comm (k : Seat) (r : BindReport) (s : State) : (s.joinTwin k r).comm = s.comm := rfl
@[simp] theorem State.joinTwin_ports (k : Seat) (r : BindReport) (s : State) : (s.joinTwin k r).ports = s.ports := rfl
@[simp] theorem State.joinTwin_streams (k : Seat) (r : BindReport) (s : State) : (s.joinTwin k r).streams = s.streams := rfl
@[simp] theorem State.joinTwin_pairs (k : Seat) (r : BindReport) (s : State) : (s.joinTwin k r).pairs = s.pairs := rfl
@[simp] theorem State.joinTwin_own (k : Seat) (r : BindReport) (s : State) : (s.joinTwin k r).own = s.own := rfl
@[simp] theorem State.joinTwin_moves (k : Seat) (r : BindReport) (s : State) : (s.joinTwin k r).moves = s.moves := rfl
@[simp] theorem State.joinTwin_phantoms (k : Seat) (r : BindReport) (s : State) :
    (s.joinTwin k r).phantoms = s.phantoms := rfl
@[simp] theorem State.joinTwin_bus (k : Seat) (r : BindReport) (s : State) : (s.joinTwin k r).bus = s.bus := rfl
@[simp] theorem State.joinTwin_restart (k : Seat) (r : BindReport) (s : State) : (s.joinTwin k r).restart = s.restart := rfl
@[simp] theorem State.joinTwin_clock (k : Seat) (r : BindReport) (s : State) : (s.joinTwin k r).clock = s.clock := rfl
@[simp] theorem State.joinTwin_draws (k : Seat) (r : BindReport) (s : State) : (s.joinTwin k r).draws = s.draws := rfl

/-! `State.unbind` -/

@[simp] theorem State.unbind_pending (p : Port) (stamp : Nat) (s : State) : (s.unbind p stamp).pending = s.pending := by
  unfold State.unbind
  split <;> simp
@[simp] theorem State.unbind_rate (p : Port) (stamp : Nat) (s : State) : (s.unbind p stamp).rate = s.rate := by
  unfold State.unbind
  split <;> simp
@[simp] theorem State.unbind_align (p : Port) (stamp : Nat) (s : State) : (s.unbind p stamp).align = s.align := by
  unfold State.unbind
  split <;> simp
@[simp] theorem State.unbind_rx (p : Port) (stamp : Nat) (s : State) : (s.unbind p stamp).rx = s.rx := by
  unfold State.unbind
  split <;> simp
@[simp] theorem State.unbind_comm (p : Port) (stamp : Nat) (s : State) : (s.unbind p stamp).comm = s.comm := by
  unfold State.unbind
  split <;> simp
@[simp] theorem State.unbind_ports (p : Port) (stamp : Nat) (s : State) : (s.unbind p stamp).ports = s.ports := by
  unfold State.unbind
  split <;> simp
@[simp] theorem State.unbind_streams (p : Port) (stamp : Nat) (s : State) : (s.unbind p stamp).streams = s.streams := by
  unfold State.unbind
  split <;> simp
@[simp] theorem State.unbind_pairs (p : Port) (stamp : Nat) (s : State) : (s.unbind p stamp).pairs = s.pairs := by
  unfold State.unbind
  split <;> simp
@[simp] theorem State.unbind_moves (p : Port) (stamp : Nat) (s : State) : (s.unbind p stamp).moves = s.moves := by
  unfold State.unbind
  split <;> simp
@[simp] theorem State.unbind_phantoms (p : Port) (stamp : Nat) (s : State) : (s.unbind p stamp).phantoms = s.phantoms := by
  unfold State.unbind
  split <;> simp
@[simp] theorem State.unbind_bus (p : Port) (stamp : Nat) (s : State) : (s.unbind p stamp).bus = s.bus := by
  unfold State.unbind
  split <;> simp
@[simp] theorem State.unbind_restart (p : Port) (stamp : Nat) (s : State) : (s.unbind p stamp).restart = s.restart := by
  unfold State.unbind
  split <;> simp
@[simp] theorem State.unbind_clock (p : Port) (stamp : Nat) (s : State) : (s.unbind p stamp).clock = s.clock := by
  unfold State.unbind
  split <;> simp
@[simp] theorem State.unbind_draws (p : Port) (stamp : Nat) (s : State) : (s.unbind p stamp).draws = s.draws := by
  unfold State.unbind
  split <;> simp

/-! `State.keepExpired` -/

@[simp] theorem State.keepExpired_pending (k : Seat) (s : State) : (s.keepExpired k).pending = s.pending := by
  unfold State.keepExpired
  split <;> simp
@[simp] theorem State.keepExpired_rate (k : Seat) (s : State) : (s.keepExpired k).rate = s.rate := by
  unfold State.keepExpired
  split <;> simp
@[simp] theorem State.keepExpired_align (k : Seat) (s : State) : (s.keepExpired k).align = s.align := by
  unfold State.keepExpired
  split <;> simp
@[simp] theorem State.keepExpired_rx (k : Seat) (s : State) : (s.keepExpired k).rx = s.rx := by
  unfold State.keepExpired
  split <;> simp
@[simp] theorem State.keepExpired_ports (k : Seat) (s : State) : (s.keepExpired k).ports = s.ports := by
  unfold State.keepExpired
  split <;> simp
@[simp] theorem State.keepExpired_streams (k : Seat) (s : State) : (s.keepExpired k).streams = s.streams := by
  unfold State.keepExpired
  split <;> simp
@[simp] theorem State.keepExpired_phantoms (k : Seat) (s : State) : (s.keepExpired k).phantoms = s.phantoms := by
  unfold State.keepExpired
  split <;> simp
@[simp] theorem State.keepExpired_restart (k : Seat) (s : State) : (s.keepExpired k).restart = s.restart := by
  unfold State.keepExpired
  split <;> simp
@[simp] theorem State.keepExpired_clock (k : Seat) (s : State) : (s.keepExpired k).clock = s.clock := by
  unfold State.keepExpired
  split <;> simp
@[simp] theorem State.keepExpired_draws (k : Seat) (s : State) : (s.keepExpired k).draws = s.draws := by
  unfold State.keepExpired
  split <;> simp

/-! `State.flushLane` -/

@[simp] theorem State.flushLane_pending (l : LaneId) (s : State) : (s.flushLane l).pending = s.pending := rfl
@[simp] theorem State.flushLane_rate (l : LaneId) (s : State) : (s.flushLane l).rate = s.rate := rfl
@[simp] theorem State.flushLane_align (l : LaneId) (s : State) : (s.flushLane l).align = s.align := rfl
@[simp] theorem State.flushLane_ports (l : LaneId) (s : State) : (s.flushLane l).ports = s.ports := rfl
@[simp] theorem State.flushLane_streams (l : LaneId) (s : State) : (s.flushLane l).streams = s.streams := rfl
@[simp] theorem State.flushLane_entries (l : LaneId) (s : State) : (s.flushLane l).entries = s.entries := rfl
@[simp] theorem State.flushLane_pairs (l : LaneId) (s : State) : (s.flushLane l).pairs = s.pairs := rfl
@[simp] theorem State.flushLane_own (l : LaneId) (s : State) : (s.flushLane l).own = s.own := rfl
@[simp] theorem State.flushLane_moves (l : LaneId) (s : State) : (s.flushLane l).moves = s.moves := rfl
@[simp] theorem State.flushLane_phantoms (l : LaneId) (s : State) : (s.flushLane l).phantoms = s.phantoms := rfl
@[simp] theorem State.flushLane_bus (l : LaneId) (s : State) : (s.flushLane l).bus = s.bus := rfl
@[simp] theorem State.flushLane_restart (l : LaneId) (s : State) : (s.flushLane l).restart = s.restart := rfl
@[simp] theorem State.flushLane_clock (l : LaneId) (s : State) : (s.flushLane l).clock = s.clock := rfl
@[simp] theorem State.flushLane_draws (l : LaneId) (s : State) : (s.flushLane l).draws = s.draws := rfl

/-! `State.driveBreak` -/

@[simp] theorem State.driveBreak_pending (l : LaneId) (b : Bool) (s : State) : (s.driveBreak l b).pending = s.pending := rfl
@[simp] theorem State.driveBreak_rate (l : LaneId) (b : Bool) (s : State) : (s.driveBreak l b).rate = s.rate := rfl
@[simp] theorem State.driveBreak_align (l : LaneId) (b : Bool) (s : State) : (s.driveBreak l b).align = s.align := rfl
@[simp] theorem State.driveBreak_rx (l : LaneId) (b : Bool) (s : State) : (s.driveBreak l b).rx = s.rx := rfl
@[simp] theorem State.driveBreak_ports (l : LaneId) (b : Bool) (s : State) : (s.driveBreak l b).ports = s.ports := rfl
@[simp] theorem State.driveBreak_streams (l : LaneId) (b : Bool) (s : State) : (s.driveBreak l b).streams = s.streams := rfl
@[simp] theorem State.driveBreak_entries (l : LaneId) (b : Bool) (s : State) : (s.driveBreak l b).entries = s.entries := rfl
@[simp] theorem State.driveBreak_pairs (l : LaneId) (b : Bool) (s : State) : (s.driveBreak l b).pairs = s.pairs := rfl
@[simp] theorem State.driveBreak_own (l : LaneId) (b : Bool) (s : State) : (s.driveBreak l b).own = s.own := rfl
@[simp] theorem State.driveBreak_moves (l : LaneId) (b : Bool) (s : State) : (s.driveBreak l b).moves = s.moves := rfl
@[simp] theorem State.driveBreak_phantoms (l : LaneId) (b : Bool) (s : State) :
    (s.driveBreak l b).phantoms = s.phantoms := rfl
@[simp] theorem State.driveBreak_bus (l : LaneId) (b : Bool) (s : State) : (s.driveBreak l b).bus = s.bus := rfl
@[simp] theorem State.driveBreak_restart (l : LaneId) (b : Bool) (s : State) : (s.driveBreak l b).restart = s.restart := rfl
@[simp] theorem State.driveBreak_clock (l : LaneId) (b : Bool) (s : State) : (s.driveBreak l b).clock = s.clock := rfl
@[simp] theorem State.driveBreak_draws (l : LaneId) (b : Bool) (s : State) : (s.driveBreak l b).draws = s.draws := rfl

/-! `State.clearStale` -/

@[simp] theorem State.clearStale_pending (p : Port) (s : State) : (s.clearStale p).pending = s.pending := rfl
@[simp] theorem State.clearStale_rate (p : Port) (s : State) : (s.clearStale p).rate = s.rate := rfl
@[simp] theorem State.clearStale_align (p : Port) (s : State) : (s.clearStale p).align = s.align := rfl
@[simp] theorem State.clearStale_rx (p : Port) (s : State) : (s.clearStale p).rx = s.rx := rfl
@[simp] theorem State.clearStale_ports (p : Port) (s : State) : (s.clearStale p).ports = s.ports := rfl
@[simp] theorem State.clearStale_streams (p : Port) (s : State) : (s.clearStale p).streams = s.streams := rfl
@[simp] theorem State.clearStale_entries (p : Port) (s : State) : (s.clearStale p).entries = s.entries := rfl
@[simp] theorem State.clearStale_pairs (p : Port) (s : State) : (s.clearStale p).pairs = s.pairs := rfl
@[simp] theorem State.clearStale_own (p : Port) (s : State) : (s.clearStale p).own = s.own := rfl
@[simp] theorem State.clearStale_moves (p : Port) (s : State) : (s.clearStale p).moves = s.moves := rfl
@[simp] theorem State.clearStale_phantoms (p : Port) (s : State) : (s.clearStale p).phantoms = s.phantoms := rfl
@[simp] theorem State.clearStale_bus (p : Port) (s : State) : (s.clearStale p).bus = s.bus := rfl
@[simp] theorem State.clearStale_restart (p : Port) (s : State) : (s.clearStale p).restart = s.restart := rfl
@[simp] theorem State.clearStale_clock (p : Port) (s : State) : (s.clearStale p).clock = s.clock := rfl
@[simp] theorem State.clearStale_draws (p : Port) (s : State) : (s.clearStale p).draws = s.draws := rfl

/-! `State.raiseLink` -/

@[simp] theorem State.raiseLink_pending (p : Port) (before : PortState) (flags : Tab 12 Bool) (s : State) :
    (s.raiseLink p before flags).pending = s.pending := rfl
@[simp] theorem State.raiseLink_rate (p : Port) (before : PortState) (flags : Tab 12 Bool) (s : State) :
    (s.raiseLink p before flags).rate = s.rate := rfl
@[simp] theorem State.raiseLink_align (p : Port) (before : PortState) (flags : Tab 12 Bool) (s : State) :
    (s.raiseLink p before flags).align = s.align := rfl
@[simp] theorem State.raiseLink_rx (p : Port) (before : PortState) (flags : Tab 12 Bool) (s : State) :
    (s.raiseLink p before flags).rx = s.rx := rfl
@[simp] theorem State.raiseLink_ports (p : Port) (before : PortState) (flags : Tab 12 Bool) (s : State) :
    (s.raiseLink p before flags).ports = s.ports := rfl
@[simp] theorem State.raiseLink_streams (p : Port) (before : PortState) (flags : Tab 12 Bool) (s : State) :
    (s.raiseLink p before flags).streams = s.streams := rfl
@[simp] theorem State.raiseLink_entries (p : Port) (before : PortState) (flags : Tab 12 Bool) (s : State) :
    (s.raiseLink p before flags).entries = s.entries := rfl
@[simp] theorem State.raiseLink_pairs (p : Port) (before : PortState) (flags : Tab 12 Bool) (s : State) :
    (s.raiseLink p before flags).pairs = s.pairs := rfl
@[simp] theorem State.raiseLink_own (p : Port) (before : PortState) (flags : Tab 12 Bool) (s : State) :
    (s.raiseLink p before flags).own = s.own := rfl
@[simp] theorem State.raiseLink_moves (p : Port) (before : PortState) (flags : Tab 12 Bool) (s : State) :
    (s.raiseLink p before flags).moves = s.moves := rfl
@[simp] theorem State.raiseLink_phantoms (p : Port) (before : PortState) (flags : Tab 12 Bool) (s : State) :
    (s.raiseLink p before flags).phantoms = s.phantoms := rfl
@[simp] theorem State.raiseLink_bus (p : Port) (before : PortState) (flags : Tab 12 Bool) (s : State) :
    (s.raiseLink p before flags).bus = s.bus := rfl
@[simp] theorem State.raiseLink_restart (p : Port) (before : PortState) (flags : Tab 12 Bool) (s : State) :
    (s.raiseLink p before flags).restart = s.restart := rfl
@[simp] theorem State.raiseLink_clock (p : Port) (before : PortState) (flags : Tab 12 Bool) (s : State) :
    (s.raiseLink p before flags).clock = s.clock := rfl
@[simp] theorem State.raiseLink_draws (p : Port) (before : PortState) (flags : Tab 12 Bool) (s : State) :
    (s.raiseLink p before flags).draws = s.draws := rfl

/-! `State.leaveBound` -/

@[simp] theorem State.leaveBound_pending (p : Port) (stamp : Nat) (s : State) :
    (s.leaveBound p stamp).pending = s.pending := by
  simp [State.leaveBound]
@[simp] theorem State.leaveBound_rate (p : Port) (stamp : Nat) (s : State) : (s.leaveBound p stamp).rate = s.rate := by
  simp [State.leaveBound]
@[simp] theorem State.leaveBound_align (p : Port) (stamp : Nat) (s : State) : (s.leaveBound p stamp).align = s.align := by
  simp [State.leaveBound]
@[simp] theorem State.leaveBound_rx (p : Port) (stamp : Nat) (s : State) : (s.leaveBound p stamp).rx = s.rx := by
  simp [State.leaveBound]
@[simp] theorem State.leaveBound_ports (p : Port) (stamp : Nat) (s : State) : (s.leaveBound p stamp).ports = s.ports := by
  simp [State.leaveBound]
@[simp] theorem State.leaveBound_pairs (p : Port) (stamp : Nat) (s : State) : (s.leaveBound p stamp).pairs = s.pairs := by
  simp [State.leaveBound]
@[simp] theorem State.leaveBound_moves (p : Port) (stamp : Nat) (s : State) : (s.leaveBound p stamp).moves = s.moves := by
  simp [State.leaveBound]
@[simp] theorem State.leaveBound_phantoms (p : Port) (stamp : Nat) (s : State) :
    (s.leaveBound p stamp).phantoms = s.phantoms := by
  simp [State.leaveBound]
@[simp] theorem State.leaveBound_bus (p : Port) (stamp : Nat) (s : State) : (s.leaveBound p stamp).bus = s.bus := by
  simp [State.leaveBound]
@[simp] theorem State.leaveBound_restart (p : Port) (stamp : Nat) (s : State) :
    (s.leaveBound p stamp).restart = s.restart := by
  simp [State.leaveBound]
@[simp] theorem State.leaveBound_clock (p : Port) (stamp : Nat) (s : State) : (s.leaveBound p stamp).clock = s.clock := by
  simp [State.leaveBound]
@[simp] theorem State.leaveBound_draws (p : Port) (stamp : Nat) (s : State) : (s.leaveBound p stamp).draws = s.draws := by
  simp [State.leaveBound]

/-! `State.leaveIfBound` -/

@[simp] theorem State.leaveIfBound_pending (p : Port) (stamp : Nat) (s : State) :
    (s.leaveIfBound p stamp).pending = s.pending := by
  unfold State.leaveIfBound
  split <;> simp
@[simp] theorem State.leaveIfBound_rate (p : Port) (stamp : Nat) (s : State) : (s.leaveIfBound p stamp).rate = s.rate := by
  unfold State.leaveIfBound
  split <;> simp
@[simp] theorem State.leaveIfBound_align (p : Port) (stamp : Nat) (s : State) :
    (s.leaveIfBound p stamp).align = s.align := by
  unfold State.leaveIfBound
  split <;> simp
@[simp] theorem State.leaveIfBound_rx (p : Port) (stamp : Nat) (s : State) : (s.leaveIfBound p stamp).rx = s.rx := by
  unfold State.leaveIfBound
  split <;> simp
@[simp] theorem State.leaveIfBound_ports (p : Port) (stamp : Nat) (s : State) :
    (s.leaveIfBound p stamp).ports = s.ports := by
  unfold State.leaveIfBound
  split <;> simp
@[simp] theorem State.leaveIfBound_pairs (p : Port) (stamp : Nat) (s : State) :
    (s.leaveIfBound p stamp).pairs = s.pairs := by
  unfold State.leaveIfBound
  split <;> simp
@[simp] theorem State.leaveIfBound_moves (p : Port) (stamp : Nat) (s : State) :
    (s.leaveIfBound p stamp).moves = s.moves := by
  unfold State.leaveIfBound
  split <;> simp
@[simp] theorem State.leaveIfBound_phantoms (p : Port) (stamp : Nat) (s : State) :
    (s.leaveIfBound p stamp).phantoms = s.phantoms := by
  unfold State.leaveIfBound
  split <;> simp
@[simp] theorem State.leaveIfBound_bus (p : Port) (stamp : Nat) (s : State) : (s.leaveIfBound p stamp).bus = s.bus := by
  unfold State.leaveIfBound
  split <;> simp
@[simp] theorem State.leaveIfBound_restart (p : Port) (stamp : Nat) (s : State) :
    (s.leaveIfBound p stamp).restart = s.restart := by
  unfold State.leaveIfBound
  split <;> simp
@[simp] theorem State.leaveIfBound_clock (p : Port) (stamp : Nat) (s : State) :
    (s.leaveIfBound p stamp).clock = s.clock := by
  unfold State.leaveIfBound
  split <;> simp
@[simp] theorem State.leaveIfBound_draws (p : Port) (stamp : Nat) (s : State) :
    (s.leaveIfBound p stamp).draws = s.draws := by
  unfold State.leaveIfBound
  split <;> simp

/-! `State.enterHold` -/

@[simp] theorem State.enterHold_pending (p : Port) (flags : Tab 12 Bool) (stamp : Nat) (s : State) :
    (s.enterHold p flags stamp).pending = s.pending := by
  simp [State.enterHold]
@[simp] theorem State.enterHold_rate (p : Port) (flags : Tab 12 Bool) (stamp : Nat) (s : State) :
    (s.enterHold p flags stamp).rate = s.rate := by
  simp [State.enterHold]
@[simp] theorem State.enterHold_align (p : Port) (flags : Tab 12 Bool) (stamp : Nat) (s : State) :
    (s.enterHold p flags stamp).align = s.align := by
  simp [State.enterHold]
@[simp] theorem State.enterHold_pairs (p : Port) (flags : Tab 12 Bool) (stamp : Nat) (s : State) :
    (s.enterHold p flags stamp).pairs = s.pairs := by
  simp [State.enterHold]
@[simp] theorem State.enterHold_moves (p : Port) (flags : Tab 12 Bool) (stamp : Nat) (s : State) :
    (s.enterHold p flags stamp).moves = s.moves := by
  simp [State.enterHold]
@[simp] theorem State.enterHold_phantoms (p : Port) (flags : Tab 12 Bool) (stamp : Nat) (s : State) :
    (s.enterHold p flags stamp).phantoms = s.phantoms := by
  simp [State.enterHold]
@[simp] theorem State.enterHold_bus (p : Port) (flags : Tab 12 Bool) (stamp : Nat) (s : State) :
    (s.enterHold p flags stamp).bus = s.bus := by
  simp [State.enterHold]
@[simp] theorem State.enterHold_restart (p : Port) (flags : Tab 12 Bool) (stamp : Nat) (s : State) :
    (s.enterHold p flags stamp).restart = s.restart := by
  simp [State.enterHold]
@[simp] theorem State.enterHold_clock (p : Port) (flags : Tab 12 Bool) (stamp : Nat) (s : State) :
    (s.enterHold p flags stamp).clock = s.clock := by
  simp [State.enterHold]
@[simp] theorem State.enterHold_draws (p : Port) (flags : Tab 12 Bool) (stamp : Nat) (s : State) :
    (s.enterHold p flags stamp).draws = s.draws := by
  simp [State.enterHold]

/-! `State.enterDown` -/

@[simp] theorem State.enterDown_pending (p : Port) (flags : Tab 12 Bool) (stamp : Nat) (s : State) :
    (s.enterDown p flags stamp).pending = s.pending := by
  simp [State.enterDown]
@[simp] theorem State.enterDown_rate (p : Port) (flags : Tab 12 Bool) (stamp : Nat) (s : State) :
    (s.enterDown p flags stamp).rate = s.rate := by
  simp [State.enterDown]
@[simp] theorem State.enterDown_align (p : Port) (flags : Tab 12 Bool) (stamp : Nat) (s : State) :
    (s.enterDown p flags stamp).align = s.align := by
  simp [State.enterDown]
@[simp] theorem State.enterDown_pairs (p : Port) (flags : Tab 12 Bool) (stamp : Nat) (s : State) :
    (s.enterDown p flags stamp).pairs = s.pairs := by
  simp [State.enterDown]
@[simp] theorem State.enterDown_moves (p : Port) (flags : Tab 12 Bool) (stamp : Nat) (s : State) :
    (s.enterDown p flags stamp).moves = s.moves := by
  simp [State.enterDown]
@[simp] theorem State.enterDown_phantoms (p : Port) (flags : Tab 12 Bool) (stamp : Nat) (s : State) :
    (s.enterDown p flags stamp).phantoms = s.phantoms := by
  simp [State.enterDown]
@[simp] theorem State.enterDown_bus (p : Port) (flags : Tab 12 Bool) (stamp : Nat) (s : State) :
    (s.enterDown p flags stamp).bus = s.bus := by
  simp [State.enterDown]
@[simp] theorem State.enterDown_restart (p : Port) (flags : Tab 12 Bool) (stamp : Nat) (s : State) :
    (s.enterDown p flags stamp).restart = s.restart := by
  simp [State.enterDown]
@[simp] theorem State.enterDown_clock (p : Port) (flags : Tab 12 Bool) (stamp : Nat) (s : State) :
    (s.enterDown p flags stamp).clock = s.clock := by
  simp [State.enterDown]
@[simp] theorem State.enterDown_draws (p : Port) (flags : Tab 12 Bool) (stamp : Nat) (s : State) :
    (s.enterDown p flags stamp).draws = s.draws := by
  simp [State.enterDown]

/-! `State.enterOffer` -/

@[simp] theorem State.enterOffer_pending (p : Port) (s : State) : (s.enterOffer p).pending = s.pending := rfl
@[simp] theorem State.enterOffer_rate (p : Port) (s : State) : (s.enterOffer p).rate = s.rate := rfl
@[simp] theorem State.enterOffer_align (p : Port) (s : State) : (s.enterOffer p).align = s.align := rfl
@[simp] theorem State.enterOffer_rx (p : Port) (s : State) : (s.enterOffer p).rx = s.rx := rfl
@[simp] theorem State.enterOffer_streams (p : Port) (s : State) : (s.enterOffer p).streams = s.streams := rfl
@[simp] theorem State.enterOffer_entries (p : Port) (s : State) : (s.enterOffer p).entries = s.entries := rfl
@[simp] theorem State.enterOffer_pairs (p : Port) (s : State) : (s.enterOffer p).pairs = s.pairs := rfl
@[simp] theorem State.enterOffer_own (p : Port) (s : State) : (s.enterOffer p).own = s.own := rfl
@[simp] theorem State.enterOffer_moves (p : Port) (s : State) : (s.enterOffer p).moves = s.moves := rfl
@[simp] theorem State.enterOffer_phantoms (p : Port) (s : State) : (s.enterOffer p).phantoms = s.phantoms := rfl
@[simp] theorem State.enterOffer_bus (p : Port) (s : State) : (s.enterOffer p).bus = s.bus := rfl
@[simp] theorem State.enterOffer_restart (p : Port) (s : State) : (s.enterOffer p).restart = s.restart := rfl
@[simp] theorem State.enterOffer_clock (p : Port) (s : State) : (s.enterOffer p).clock = s.clock := rfl

/-! `State.enterFault` -/

@[simp] theorem State.enterFault_pending (p : Port) (why : Reason) (tag : Byte) (nonce : BitVec 32) (s : State) :
    (s.enterFault p why tag nonce).pending = s.pending := by
  simp [State.enterFault]
@[simp] theorem State.enterFault_rate (p : Port) (why : Reason) (tag : Byte) (nonce : BitVec 32) (s : State) :
    (s.enterFault p why tag nonce).rate = s.rate := by
  simp [State.enterFault]
@[simp] theorem State.enterFault_align (p : Port) (why : Reason) (tag : Byte) (nonce : BitVec 32) (s : State) :
    (s.enterFault p why tag nonce).align = s.align := by
  simp [State.enterFault]
@[simp] theorem State.enterFault_rx (p : Port) (why : Reason) (tag : Byte) (nonce : BitVec 32) (s : State) :
    (s.enterFault p why tag nonce).rx = s.rx := by
  simp [State.enterFault]
@[simp] theorem State.enterFault_pairs (p : Port) (why : Reason) (tag : Byte) (nonce : BitVec 32) (s : State) :
    (s.enterFault p why tag nonce).pairs = s.pairs := by
  simp [State.enterFault]
@[simp] theorem State.enterFault_moves (p : Port) (why : Reason) (tag : Byte) (nonce : BitVec 32) (s : State) :
    (s.enterFault p why tag nonce).moves = s.moves := by
  simp [State.enterFault]
@[simp] theorem State.enterFault_phantoms (p : Port) (why : Reason) (tag : Byte) (nonce : BitVec 32) (s : State) :
    (s.enterFault p why tag nonce).phantoms = s.phantoms := by
  simp [State.enterFault]
@[simp] theorem State.enterFault_bus (p : Port) (why : Reason) (tag : Byte) (nonce : BitVec 32) (s : State) :
    (s.enterFault p why tag nonce).bus = s.bus := by
  simp [State.enterFault]
@[simp] theorem State.enterFault_restart (p : Port) (why : Reason) (tag : Byte) (nonce : BitVec 32) (s : State) :
    (s.enterFault p why tag nonce).restart = s.restart := by
  simp [State.enterFault]
@[simp] theorem State.enterFault_clock (p : Port) (why : Reason) (tag : Byte) (nonce : BitVec 32) (s : State) :
    (s.enterFault p why tag nonce).clock = s.clock := by
  simp [State.enterFault]
@[simp] theorem State.enterFault_draws (p : Port) (why : Reason) (tag : Byte) (nonce : BitVec 32) (s : State) :
    (s.enterFault p why tag nonce).draws = s.draws := by
  simp [State.enterFault]

/-! `State.acceptOffer` -/

@[simp] theorem State.acceptOffer_pending (p : Port) (tag : Byte) (o : PartnerOffer) (r : Resolved) (s : State) :
    (s.acceptOffer p tag o r).pending = s.pending := by
  unfold State.acceptOffer
  split <;> simp
@[simp] theorem State.acceptOffer_rate (p : Port) (tag : Byte) (o : PartnerOffer) (r : Resolved) (s : State) :
    (s.acceptOffer p tag o r).rate = s.rate := by
  unfold State.acceptOffer
  split <;> simp
@[simp] theorem State.acceptOffer_align (p : Port) (tag : Byte) (o : PartnerOffer) (r : Resolved) (s : State) :
    (s.acceptOffer p tag o r).align = s.align := by
  unfold State.acceptOffer
  split <;> simp
@[simp] theorem State.acceptOffer_rx (p : Port) (tag : Byte) (o : PartnerOffer) (r : Resolved) (s : State) :
    (s.acceptOffer p tag o r).rx = s.rx := by
  unfold State.acceptOffer
  split <;> simp
@[simp] theorem State.acceptOffer_streams (p : Port) (tag : Byte) (o : PartnerOffer) (r : Resolved) (s : State) :
    (s.acceptOffer p tag o r).streams = s.streams := by
  unfold State.acceptOffer
  split <;> simp
@[simp] theorem State.acceptOffer_entries (p : Port) (tag : Byte) (o : PartnerOffer) (r : Resolved) (s : State) :
    (s.acceptOffer p tag o r).entries = s.entries := by
  unfold State.acceptOffer
  split <;> simp
@[simp] theorem State.acceptOffer_pairs (p : Port) (tag : Byte) (o : PartnerOffer) (r : Resolved) (s : State) :
    (s.acceptOffer p tag o r).pairs = s.pairs := by
  unfold State.acceptOffer
  split <;> simp
@[simp] theorem State.acceptOffer_own (p : Port) (tag : Byte) (o : PartnerOffer) (r : Resolved) (s : State) :
    (s.acceptOffer p tag o r).own = s.own := by
  unfold State.acceptOffer
  split <;> simp
@[simp] theorem State.acceptOffer_moves (p : Port) (tag : Byte) (o : PartnerOffer) (r : Resolved) (s : State) :
    (s.acceptOffer p tag o r).moves = s.moves := by
  unfold State.acceptOffer
  split <;> simp
@[simp] theorem State.acceptOffer_phantoms (p : Port) (tag : Byte) (o : PartnerOffer) (r : Resolved) (s : State) :
    (s.acceptOffer p tag o r).phantoms = s.phantoms := by
  unfold State.acceptOffer
  split <;> simp
@[simp] theorem State.acceptOffer_bus (p : Port) (tag : Byte) (o : PartnerOffer) (r : Resolved) (s : State) :
    (s.acceptOffer p tag o r).bus = s.bus := by
  unfold State.acceptOffer
  split <;> simp
@[simp] theorem State.acceptOffer_restart (p : Port) (tag : Byte) (o : PartnerOffer) (r : Resolved) (s : State) :
    (s.acceptOffer p tag o r).restart = s.restart := by
  unfold State.acceptOffer
  split <;> simp
@[simp] theorem State.acceptOffer_clock (p : Port) (tag : Byte) (o : PartnerOffer) (r : Resolved) (s : State) :
    (s.acceptOffer p tag o r).clock = s.clock := by
  unfold State.acceptOffer
  split <;> simp
@[simp] theorem State.acceptOffer_draws (p : Port) (tag : Byte) (o : PartnerOffer) (r : Resolved) (s : State) :
    (s.acceptOffer p tag o r).draws = s.draws := by
  unfold State.acceptOffer
  split <;> simp

/-! `State.resolveOffer` -/

@[simp] theorem State.resolveOffer_pending (p : Port) (tag : Byte) (o : PartnerOffer) (s : State) :
    (s.resolveOffer p tag o).pending = s.pending := by
  unfold State.resolveOffer
  split <;> simp
@[simp] theorem State.resolveOffer_rate (p : Port) (tag : Byte) (o : PartnerOffer) (s : State) :
    (s.resolveOffer p tag o).rate = s.rate := by
  unfold State.resolveOffer
  split <;> simp
@[simp] theorem State.resolveOffer_align (p : Port) (tag : Byte) (o : PartnerOffer) (s : State) :
    (s.resolveOffer p tag o).align = s.align := by
  unfold State.resolveOffer
  split <;> simp
@[simp] theorem State.resolveOffer_rx (p : Port) (tag : Byte) (o : PartnerOffer) (s : State) :
    (s.resolveOffer p tag o).rx = s.rx := by
  unfold State.resolveOffer
  split <;> simp
@[simp] theorem State.resolveOffer_pairs (p : Port) (tag : Byte) (o : PartnerOffer) (s : State) :
    (s.resolveOffer p tag o).pairs = s.pairs := by
  unfold State.resolveOffer
  split <;> simp
@[simp] theorem State.resolveOffer_moves (p : Port) (tag : Byte) (o : PartnerOffer) (s : State) :
    (s.resolveOffer p tag o).moves = s.moves := by
  unfold State.resolveOffer
  split <;> simp
@[simp] theorem State.resolveOffer_phantoms (p : Port) (tag : Byte) (o : PartnerOffer) (s : State) :
    (s.resolveOffer p tag o).phantoms = s.phantoms := by
  unfold State.resolveOffer
  split <;> simp
@[simp] theorem State.resolveOffer_bus (p : Port) (tag : Byte) (o : PartnerOffer) (s : State) :
    (s.resolveOffer p tag o).bus = s.bus := by
  unfold State.resolveOffer
  split <;> simp
@[simp] theorem State.resolveOffer_restart (p : Port) (tag : Byte) (o : PartnerOffer) (s : State) :
    (s.resolveOffer p tag o).restart = s.restart := by
  unfold State.resolveOffer
  split <;> simp
@[simp] theorem State.resolveOffer_clock (p : Port) (tag : Byte) (o : PartnerOffer) (s : State) :
    (s.resolveOffer p tag o).clock = s.clock := by
  unfold State.resolveOffer
  split <;> simp
@[simp] theorem State.resolveOffer_draws (p : Port) (tag : Byte) (o : PartnerOffer) (s : State) :
    (s.resolveOffer p tag o).draws = s.draws := by
  unfold State.resolveOffer
  split <;> simp

/-! `State.reoffer` -/

@[simp] theorem State.reoffer_pending (p : Port) (tag : Byte) (o : PartnerOffer) (s : State) :
    (s.reoffer p tag o).pending = s.pending := by
  simp [State.reoffer]
@[simp] theorem State.reoffer_rate (p : Port) (tag : Byte) (o : PartnerOffer) (s : State) :
    (s.reoffer p tag o).rate = s.rate := by
  simp [State.reoffer]
@[simp] theorem State.reoffer_align (p : Port) (tag : Byte) (o : PartnerOffer) (s : State) :
    (s.reoffer p tag o).align = s.align := by
  simp [State.reoffer]
@[simp] theorem State.reoffer_rx (p : Port) (tag : Byte) (o : PartnerOffer) (s : State) :
    (s.reoffer p tag o).rx = s.rx := by
  simp [State.reoffer]
@[simp] theorem State.reoffer_pairs (p : Port) (tag : Byte) (o : PartnerOffer) (s : State) :
    (s.reoffer p tag o).pairs = s.pairs := by
  simp [State.reoffer]
@[simp] theorem State.reoffer_moves (p : Port) (tag : Byte) (o : PartnerOffer) (s : State) :
    (s.reoffer p tag o).moves = s.moves := by
  simp [State.reoffer]
@[simp] theorem State.reoffer_phantoms (p : Port) (tag : Byte) (o : PartnerOffer) (s : State) :
    (s.reoffer p tag o).phantoms = s.phantoms := by
  simp [State.reoffer]
@[simp] theorem State.reoffer_bus (p : Port) (tag : Byte) (o : PartnerOffer) (s : State) :
    (s.reoffer p tag o).bus = s.bus := by
  simp [State.reoffer]
@[simp] theorem State.reoffer_restart (p : Port) (tag : Byte) (o : PartnerOffer) (s : State) :
    (s.reoffer p tag o).restart = s.restart := by
  simp [State.reoffer]
@[simp] theorem State.reoffer_clock (p : Port) (tag : Byte) (o : PartnerOffer) (s : State) :
    (s.reoffer p tag o).clock = s.clock := by
  simp [State.reoffer]
/-! `State.bind` -/

@[simp] theorem State.bind_pending (r : BindReport) (s : State) : (s.bind r).1.pending = s.pending := by
  unfold State.bind; (repeat' split) <;> simp
@[simp] theorem State.bind_rate (r : BindReport) (s : State) : (s.bind r).1.rate = s.rate := by
  unfold State.bind; (repeat' split) <;> simp
@[simp] theorem State.bind_align (r : BindReport) (s : State) : (s.bind r).1.align = s.align := by
  unfold State.bind; (repeat' split) <;> simp
@[simp] theorem State.bind_rx (r : BindReport) (s : State) : (s.bind r).1.rx = s.rx := by
  unfold State.bind; (repeat' split) <;> simp
@[simp] theorem State.bind_ports (r : BindReport) (s : State) : (s.bind r).1.ports = s.ports := by
  unfold State.bind; (repeat' split) <;> simp
@[simp] theorem State.bind_streams (r : BindReport) (s : State) : (s.bind r).1.streams = s.streams := by
  unfold State.bind; (repeat' split) <;> simp
@[simp] theorem State.bind_phantoms (r : BindReport) (s : State) : (s.bind r).1.phantoms = s.phantoms := by
  unfold State.bind; (repeat' split) <;> simp
@[simp] theorem State.bind_restart (r : BindReport) (s : State) : (s.bind r).1.restart = s.restart := by
  unfold State.bind; (repeat' split) <;> simp
@[simp] theorem State.bind_clock (r : BindReport) (s : State) : (s.bind r).1.clock = s.clock := by
  unfold State.bind; (repeat' split) <;> simp
@[simp] theorem State.bind_draws (r : BindReport) (s : State) : (s.bind r).1.draws = s.draws := by
  unfold State.bind; (repeat' split) <;> simp

/-! `State.bindAccepted` -/

@[simp] theorem State.bindAccepted_pending (p : Port) (r : Resolved) (s : State) :
    (s.bindAccepted p r).pending = s.pending := rfl
@[simp] theorem State.bindAccepted_rate (p : Port) (r : Resolved) (s : State) : (s.bindAccepted p r).rate = s.rate := rfl
@[simp] theorem State.bindAccepted_align (p : Port) (r : Resolved) (s : State) : (s.bindAccepted p r).align = s.align := rfl
@[simp] theorem State.bindAccepted_rx (p : Port) (r : Resolved) (s : State) : (s.bindAccepted p r).rx = s.rx := rfl
@[simp] theorem State.bindAccepted_ports (p : Port) (r : Resolved) (s : State) : (s.bindAccepted p r).ports = s.ports := rfl
@[simp] theorem State.bindAccepted_entries (p : Port) (r : Resolved) (s : State) :
    (s.bindAccepted p r).entries = s.entries := rfl
@[simp] theorem State.bindAccepted_pairs (p : Port) (r : Resolved) (s : State) : (s.bindAccepted p r).pairs = s.pairs := rfl
@[simp] theorem State.bindAccepted_own (p : Port) (r : Resolved) (s : State) : (s.bindAccepted p r).own = s.own := rfl
@[simp] theorem State.bindAccepted_moves (p : Port) (r : Resolved) (s : State) : (s.bindAccepted p r).moves = s.moves := rfl
@[simp] theorem State.bindAccepted_phantoms (p : Port) (r : Resolved) (s : State) :
    (s.bindAccepted p r).phantoms = s.phantoms := rfl
@[simp] theorem State.bindAccepted_bus (p : Port) (r : Resolved) (s : State) : (s.bindAccepted p r).bus = s.bus := rfl
@[simp] theorem State.bindAccepted_restart (p : Port) (r : Resolved) (s : State) :
    (s.bindAccepted p r).restart = s.restart := rfl
@[simp] theorem State.bindAccepted_clock (p : Port) (r : Resolved) (s : State) : (s.bindAccepted p r).clock = s.clock := rfl
@[simp] theorem State.bindAccepted_draws (p : Port) (r : Resolved) (s : State) : (s.bindAccepted p r).draws = s.draws := rfl

/-! `State.enterBound` -/

@[simp] theorem State.enterBound_pending (p : Port) (tag : Byte) (pg : Page) (r : Resolved) (s : State) :
    (s.enterBound p tag pg r).pending = s.pending := by
  simp only [State.enterBound]
  split <;> rename_i h <;> [rw [State.bindAccepted_pending]; rw [State.enterFault_pending]] <;> (have e := congrArg (fun z => State.pending z.1) h; simp at e; exact e.symm)
@[simp] theorem State.enterBound_rate (p : Port) (tag : Byte) (pg : Page) (r : Resolved) (s : State) :
    (s.enterBound p tag pg r).rate = s.rate := by
  simp only [State.enterBound]
  split <;> rename_i h <;> [rw [State.bindAccepted_rate]; rw [State.enterFault_rate]] <;> (have e := congrArg (fun z => State.rate z.1) h; simp at e; exact e.symm)
@[simp] theorem State.enterBound_align (p : Port) (tag : Byte) (pg : Page) (r : Resolved) (s : State) :
    (s.enterBound p tag pg r).align = s.align := by
  simp only [State.enterBound]
  split <;> rename_i h <;> [rw [State.bindAccepted_align]; rw [State.enterFault_align]] <;> (have e := congrArg (fun z => State.align z.1) h; simp at e; exact e.symm)
@[simp] theorem State.enterBound_rx (p : Port) (tag : Byte) (pg : Page) (r : Resolved) (s : State) :
    (s.enterBound p tag pg r).rx = s.rx := by
  simp only [State.enterBound]
  split <;> rename_i h <;> [rw [State.bindAccepted_rx]; rw [State.enterFault_rx]] <;> (have e := congrArg (fun z => State.rx z.1) h; simp at e; exact e.symm)
@[simp] theorem State.enterBound_phantoms (p : Port) (tag : Byte) (pg : Page) (r : Resolved) (s : State) :
    (s.enterBound p tag pg r).phantoms = s.phantoms := by
  simp only [State.enterBound]
  split <;> rename_i h <;> [rw [State.bindAccepted_phantoms]; rw [State.enterFault_phantoms]] <;> (have e := congrArg (fun z => State.phantoms z.1) h; simp at e; exact e.symm)
@[simp] theorem State.enterBound_restart (p : Port) (tag : Byte) (pg : Page) (r : Resolved) (s : State) :
    (s.enterBound p tag pg r).restart = s.restart := by
  simp only [State.enterBound]
  split <;> rename_i h <;> [rw [State.bindAccepted_restart]; rw [State.enterFault_restart]] <;> (have e := congrArg (fun z => State.restart z.1) h; simp at e; exact e.symm)
@[simp] theorem State.enterBound_clock (p : Port) (tag : Byte) (pg : Page) (r : Resolved) (s : State) :
    (s.enterBound p tag pg r).clock = s.clock := by
  simp only [State.enterBound]
  split <;> rename_i h <;> [rw [State.bindAccepted_clock]; rw [State.enterFault_clock]] <;> (have e := congrArg (fun z => State.clock z.1) h; simp at e; exact e.symm)
@[simp] theorem State.enterBound_draws (p : Port) (tag : Byte) (pg : Page) (r : Resolved) (s : State) :
    (s.enterBound p tag pg r).draws = s.draws := by
  simp only [State.enterBound]
  split <;> rename_i h <;> [rw [State.bindAccepted_draws]; rw [State.enterFault_draws]] <;> (have e := congrArg (fun z => State.draws z.1) h; simp at e; exact e.symm)

/-! `State.matchConfirm` -/

@[simp] theorem State.matchConfirm_pending (p : Port) (tag : Byte) (c : PartnerConfirm) (s : State) :
    (s.matchConfirm p tag c).pending = s.pending := by
  unfold State.matchConfirm
  split <;> (try split) <;> simp
@[simp] theorem State.matchConfirm_rate (p : Port) (tag : Byte) (c : PartnerConfirm) (s : State) :
    (s.matchConfirm p tag c).rate = s.rate := by
  unfold State.matchConfirm
  split <;> (try split) <;> simp
@[simp] theorem State.matchConfirm_align (p : Port) (tag : Byte) (c : PartnerConfirm) (s : State) :
    (s.matchConfirm p tag c).align = s.align := by
  unfold State.matchConfirm
  split <;> (try split) <;> simp
@[simp] theorem State.matchConfirm_rx (p : Port) (tag : Byte) (c : PartnerConfirm) (s : State) :
    (s.matchConfirm p tag c).rx = s.rx := by
  unfold State.matchConfirm
  split <;> (try split) <;> simp
@[simp] theorem State.matchConfirm_phantoms (p : Port) (tag : Byte) (c : PartnerConfirm) (s : State) :
    (s.matchConfirm p tag c).phantoms = s.phantoms := by
  unfold State.matchConfirm
  split <;> (try split) <;> simp
@[simp] theorem State.matchConfirm_restart (p : Port) (tag : Byte) (c : PartnerConfirm) (s : State) :
    (s.matchConfirm p tag c).restart = s.restart := by
  unfold State.matchConfirm
  split <;> (try split) <;> simp
@[simp] theorem State.matchConfirm_clock (p : Port) (tag : Byte) (c : PartnerConfirm) (s : State) :
    (s.matchConfirm p tag c).clock = s.clock := by
  unfold State.matchConfirm
  split <;> (try split) <;> simp
@[simp] theorem State.matchConfirm_draws (p : Port) (tag : Byte) (c : PartnerConfirm) (s : State) :
    (s.matchConfirm p tag c).draws = s.draws := by
  unfold State.matchConfirm
  split <;> (try split) <;> simp

/-! `State.breakReported` -/

@[simp] theorem State.breakReported_pending (p : Port) (s : State) : (s.breakReported p).pending = s.pending := by
  unfold State.breakReported
  split <;> simp
@[simp] theorem State.breakReported_rate (p : Port) (s : State) : (s.breakReported p).rate = s.rate := by
  unfold State.breakReported
  split <;> simp
@[simp] theorem State.breakReported_align (p : Port) (s : State) : (s.breakReported p).align = s.align := by
  unfold State.breakReported
  split <;> simp
@[simp] theorem State.breakReported_pairs (p : Port) (s : State) : (s.breakReported p).pairs = s.pairs := by
  unfold State.breakReported
  split <;> simp
@[simp] theorem State.breakReported_moves (p : Port) (s : State) : (s.breakReported p).moves = s.moves := by
  unfold State.breakReported
  split <;> simp
@[simp] theorem State.breakReported_phantoms (p : Port) (s : State) : (s.breakReported p).phantoms = s.phantoms := by
  unfold State.breakReported
  split <;> simp
@[simp] theorem State.breakReported_bus (p : Port) (s : State) : (s.breakReported p).bus = s.bus := by
  unfold State.breakReported
  split <;> simp
@[simp] theorem State.breakReported_restart (p : Port) (s : State) : (s.breakReported p).restart = s.restart := by
  unfold State.breakReported
  split <;> simp
@[simp] theorem State.breakReported_clock (p : Port) (s : State) : (s.breakReported p).clock = s.clock := by
  unfold State.breakReported
  split <;> simp
@[simp] theorem State.breakReported_draws (p : Port) (s : State) : (s.breakReported p).draws = s.draws := by
  unfold State.breakReported
  split <;> simp

/-! `State.breakOn` -/

@[simp] theorem State.breakOn_pending (l : LaneId) (s : State) : (s.breakOn l).pending = s.pending := by
  unfold State.breakOn
  split <;> simp
@[simp] theorem State.breakOn_rate (l : LaneId) (s : State) : (s.breakOn l).rate = s.rate := by
  unfold State.breakOn
  split <;> simp
@[simp] theorem State.breakOn_align (l : LaneId) (s : State) : (s.breakOn l).align = s.align := by
  unfold State.breakOn
  split <;> simp
@[simp] theorem State.breakOn_pairs (l : LaneId) (s : State) : (s.breakOn l).pairs = s.pairs := by
  unfold State.breakOn
  split <;> simp
@[simp] theorem State.breakOn_moves (l : LaneId) (s : State) : (s.breakOn l).moves = s.moves := by
  unfold State.breakOn
  split <;> simp
@[simp] theorem State.breakOn_phantoms (l : LaneId) (s : State) : (s.breakOn l).phantoms = s.phantoms := by
  unfold State.breakOn
  split <;> simp
@[simp] theorem State.breakOn_bus (l : LaneId) (s : State) : (s.breakOn l).bus = s.bus := by
  unfold State.breakOn
  split <;> simp
@[simp] theorem State.breakOn_restart (l : LaneId) (s : State) : (s.breakOn l).restart = s.restart := by
  unfold State.breakOn
  split <;> simp
@[simp] theorem State.breakOn_clock (l : LaneId) (s : State) : (s.breakOn l).clock = s.clock := by
  unfold State.breakOn
  split <;> simp
@[simp] theorem State.breakOn_draws (l : LaneId) (s : State) : (s.breakOn l).draws = s.draws := by
  unfold State.breakOn
  split <;> simp

/-! `State.carrierArrives` -/

@[simp] theorem State.carrierArrives_pending (p : Port) (s : State) : (s.carrierArrives p).pending = s.pending := by
  unfold State.carrierArrives
  split <;> simp
@[simp] theorem State.carrierArrives_rate (p : Port) (s : State) : (s.carrierArrives p).rate = s.rate := by
  unfold State.carrierArrives
  split <;> simp
@[simp] theorem State.carrierArrives_align (p : Port) (s : State) : (s.carrierArrives p).align = s.align := by
  unfold State.carrierArrives
  split <;> simp
@[simp] theorem State.carrierArrives_rx (p : Port) (s : State) : (s.carrierArrives p).rx = s.rx := by
  unfold State.carrierArrives
  split <;> simp
@[simp] theorem State.carrierArrives_streams (p : Port) (s : State) : (s.carrierArrives p).streams = s.streams := by
  unfold State.carrierArrives
  split <;> simp
@[simp] theorem State.carrierArrives_entries (p : Port) (s : State) : (s.carrierArrives p).entries = s.entries := by
  unfold State.carrierArrives
  split <;> simp
@[simp] theorem State.carrierArrives_pairs (p : Port) (s : State) : (s.carrierArrives p).pairs = s.pairs := by
  unfold State.carrierArrives
  split <;> simp
@[simp] theorem State.carrierArrives_own (p : Port) (s : State) : (s.carrierArrives p).own = s.own := by
  unfold State.carrierArrives
  split <;> simp
@[simp] theorem State.carrierArrives_moves (p : Port) (s : State) : (s.carrierArrives p).moves = s.moves := by
  unfold State.carrierArrives
  split <;> simp
@[simp] theorem State.carrierArrives_phantoms (p : Port) (s : State) : (s.carrierArrives p).phantoms = s.phantoms := by
  unfold State.carrierArrives
  split <;> simp
@[simp] theorem State.carrierArrives_bus (p : Port) (s : State) : (s.carrierArrives p).bus = s.bus := by
  unfold State.carrierArrives
  split <;> simp
@[simp] theorem State.carrierArrives_restart (p : Port) (s : State) : (s.carrierArrives p).restart = s.restart := by
  unfold State.carrierArrives
  split <;> simp
@[simp] theorem State.carrierArrives_clock (p : Port) (s : State) : (s.carrierArrives p).clock = s.clock := by
  unfold State.carrierArrives
  split <;> simp

/-! `State.carrierLost` -/

@[simp] theorem State.carrierLost_pending (p : Port) (s : State) : (s.carrierLost p).pending = s.pending := by
  unfold State.carrierLost
  split <;> simp
@[simp] theorem State.carrierLost_rate (p : Port) (s : State) : (s.carrierLost p).rate = s.rate := by
  unfold State.carrierLost
  split <;> simp
@[simp] theorem State.carrierLost_align (p : Port) (s : State) : (s.carrierLost p).align = s.align := by
  unfold State.carrierLost
  split <;> simp
@[simp] theorem State.carrierLost_pairs (p : Port) (s : State) : (s.carrierLost p).pairs = s.pairs := by
  unfold State.carrierLost
  split <;> simp
@[simp] theorem State.carrierLost_moves (p : Port) (s : State) : (s.carrierLost p).moves = s.moves := by
  unfold State.carrierLost
  split <;> simp
@[simp] theorem State.carrierLost_phantoms (p : Port) (s : State) : (s.carrierLost p).phantoms = s.phantoms := by
  unfold State.carrierLost
  split <;> simp
@[simp] theorem State.carrierLost_bus (p : Port) (s : State) : (s.carrierLost p).bus = s.bus := by
  unfold State.carrierLost
  split <;> simp
@[simp] theorem State.carrierLost_restart (p : Port) (s : State) : (s.carrierLost p).restart = s.restart := by
  unfold State.carrierLost
  split <;> simp
@[simp] theorem State.carrierLost_clock (p : Port) (s : State) : (s.carrierLost p).clock = s.clock := by
  unfold State.carrierLost
  split <;> simp
@[simp] theorem State.carrierLost_draws (p : Port) (s : State) : (s.carrierLost p).draws = s.draws := by
  unfold State.carrierLost
  split <;> simp

/-! `State.holdExpired` -/

@[simp] theorem State.holdExpired_pending (p : Port) (s : State) : (s.holdExpired p).pending = s.pending := by
  unfold State.holdExpired
  split <;> (try split) <;> simp
@[simp] theorem State.holdExpired_rate (p : Port) (s : State) : (s.holdExpired p).rate = s.rate := by
  unfold State.holdExpired
  split <;> (try split) <;> simp
@[simp] theorem State.holdExpired_align (p : Port) (s : State) : (s.holdExpired p).align = s.align := by
  unfold State.holdExpired
  split <;> (try split) <;> simp
@[simp] theorem State.holdExpired_pairs (p : Port) (s : State) : (s.holdExpired p).pairs = s.pairs := by
  unfold State.holdExpired
  split <;> (try split) <;> simp
@[simp] theorem State.holdExpired_moves (p : Port) (s : State) : (s.holdExpired p).moves = s.moves := by
  unfold State.holdExpired
  split <;> (try split) <;> simp
@[simp] theorem State.holdExpired_phantoms (p : Port) (s : State) : (s.holdExpired p).phantoms = s.phantoms := by
  unfold State.holdExpired
  split <;> (try split) <;> simp
@[simp] theorem State.holdExpired_bus (p : Port) (s : State) : (s.holdExpired p).bus = s.bus := by
  unfold State.holdExpired
  split <;> (try split) <;> simp
@[simp] theorem State.holdExpired_restart (p : Port) (s : State) : (s.holdExpired p).restart = s.restart := by
  unfold State.holdExpired
  split <;> (try split) <;> simp
@[simp] theorem State.holdExpired_clock (p : Port) (s : State) : (s.holdExpired p).clock = s.clock := by
  unfold State.holdExpired
  split <;> (try split) <;> simp

/-! `State.offerWaitExpired` -/

@[simp] theorem State.offerWaitExpired_pending (p : Port) (s : State) : (s.offerWaitExpired p).pending = s.pending := by
  unfold State.offerWaitExpired
  split <;> simp
@[simp] theorem State.offerWaitExpired_rate (p : Port) (s : State) : (s.offerWaitExpired p).rate = s.rate := by
  unfold State.offerWaitExpired
  split <;> simp
@[simp] theorem State.offerWaitExpired_align (p : Port) (s : State) : (s.offerWaitExpired p).align = s.align := by
  unfold State.offerWaitExpired
  split <;> simp
@[simp] theorem State.offerWaitExpired_pairs (p : Port) (s : State) : (s.offerWaitExpired p).pairs = s.pairs := by
  unfold State.offerWaitExpired
  split <;> simp
@[simp] theorem State.offerWaitExpired_moves (p : Port) (s : State) : (s.offerWaitExpired p).moves = s.moves := by
  unfold State.offerWaitExpired
  split <;> simp
@[simp] theorem State.offerWaitExpired_phantoms (p : Port) (s : State) : (s.offerWaitExpired p).phantoms = s.phantoms := by
  unfold State.offerWaitExpired
  split <;> simp
@[simp] theorem State.offerWaitExpired_bus (p : Port) (s : State) : (s.offerWaitExpired p).bus = s.bus := by
  unfold State.offerWaitExpired
  split <;> simp
@[simp] theorem State.offerWaitExpired_restart (p : Port) (s : State) : (s.offerWaitExpired p).restart = s.restart := by
  unfold State.offerWaitExpired
  split <;> simp
@[simp] theorem State.offerWaitExpired_clock (p : Port) (s : State) : (s.offerWaitExpired p).clock = s.clock := by
  unfold State.offerWaitExpired
  split <;> simp
@[simp] theorem State.offerWaitExpired_draws (p : Port) (s : State) : (s.offerWaitExpired p).draws = s.draws := by
  unfold State.offerWaitExpired
  split <;> simp

/-! `State.confirmWaitExpired` -/

@[simp] theorem State.confirmWaitExpired_pending (p : Port) (s : State) :
    (s.confirmWaitExpired p).pending = s.pending := by
  unfold State.confirmWaitExpired
  split <;> simp
@[simp] theorem State.confirmWaitExpired_rate (p : Port) (s : State) : (s.confirmWaitExpired p).rate = s.rate := by
  unfold State.confirmWaitExpired
  split <;> simp
@[simp] theorem State.confirmWaitExpired_align (p : Port) (s : State) : (s.confirmWaitExpired p).align = s.align := by
  unfold State.confirmWaitExpired
  split <;> simp
@[simp] theorem State.confirmWaitExpired_pairs (p : Port) (s : State) : (s.confirmWaitExpired p).pairs = s.pairs := by
  unfold State.confirmWaitExpired
  split <;> simp
@[simp] theorem State.confirmWaitExpired_moves (p : Port) (s : State) : (s.confirmWaitExpired p).moves = s.moves := by
  unfold State.confirmWaitExpired
  split <;> simp
@[simp] theorem State.confirmWaitExpired_phantoms (p : Port) (s : State) :
    (s.confirmWaitExpired p).phantoms = s.phantoms := by
  unfold State.confirmWaitExpired
  split <;> simp
@[simp] theorem State.confirmWaitExpired_bus (p : Port) (s : State) : (s.confirmWaitExpired p).bus = s.bus := by
  unfold State.confirmWaitExpired
  split <;> simp
@[simp] theorem State.confirmWaitExpired_restart (p : Port) (s : State) :
    (s.confirmWaitExpired p).restart = s.restart := by
  unfold State.confirmWaitExpired
  split <;> simp
@[simp] theorem State.confirmWaitExpired_clock (p : Port) (s : State) : (s.confirmWaitExpired p).clock = s.clock := by
  unfold State.confirmWaitExpired
  split <;> simp
@[simp] theorem State.confirmWaitExpired_draws (p : Port) (s : State) : (s.confirmWaitExpired p).draws = s.draws := by
  unfold State.confirmWaitExpired
  split <;> simp

/-! `State.inhibitExpired` -/

@[simp] theorem State.inhibitExpired_pending (p : Port) (s : State) : (s.inhibitExpired p).pending = s.pending := by
  unfold State.inhibitExpired
  split <;> simp
@[simp] theorem State.inhibitExpired_rate (p : Port) (s : State) : (s.inhibitExpired p).rate = s.rate := by
  unfold State.inhibitExpired
  split <;> simp
@[simp] theorem State.inhibitExpired_align (p : Port) (s : State) : (s.inhibitExpired p).align = s.align := by
  unfold State.inhibitExpired
  split <;> simp
@[simp] theorem State.inhibitExpired_pairs (p : Port) (s : State) : (s.inhibitExpired p).pairs = s.pairs := by
  unfold State.inhibitExpired
  split <;> simp
@[simp] theorem State.inhibitExpired_moves (p : Port) (s : State) : (s.inhibitExpired p).moves = s.moves := by
  unfold State.inhibitExpired
  split <;> simp
@[simp] theorem State.inhibitExpired_phantoms (p : Port) (s : State) : (s.inhibitExpired p).phantoms = s.phantoms := by
  unfold State.inhibitExpired
  split <;> simp
@[simp] theorem State.inhibitExpired_bus (p : Port) (s : State) : (s.inhibitExpired p).bus = s.bus := by
  unfold State.inhibitExpired
  split <;> simp
@[simp] theorem State.inhibitExpired_restart (p : Port) (s : State) : (s.inhibitExpired p).restart = s.restart := by
  unfold State.inhibitExpired
  split <;> simp
@[simp] theorem State.inhibitExpired_clock (p : Port) (s : State) : (s.inhibitExpired p).clock = s.clock := by
  unfold State.inhibitExpired
  split <;> simp
@[simp] theorem State.inhibitExpired_draws (p : Port) (s : State) : (s.inhibitExpired p).draws = s.draws := by
  unfold State.inhibitExpired
  split <;> simp

/-! `State.readyPorts` -/

@[simp] theorem State.readyPorts_pending (s : State) : (s.readyPorts).pending = s.pending := by
  unfold State.readyPorts
  refine foldl_keeps _ State.pending (fun s a => ?_) _ _
  split <;> simp
@[simp] theorem State.readyPorts_rate (s : State) : (s.readyPorts).rate = s.rate := by
  unfold State.readyPorts
  refine foldl_keeps _ State.rate (fun s a => ?_) _ _
  split <;> simp
@[simp] theorem State.readyPorts_align (s : State) : (s.readyPorts).align = s.align := by
  unfold State.readyPorts
  refine foldl_keeps _ State.align (fun s a => ?_) _ _
  split <;> simp
@[simp] theorem State.readyPorts_rx (s : State) : (s.readyPorts).rx = s.rx := by
  unfold State.readyPorts
  refine foldl_keeps _ State.rx (fun s a => ?_) _ _
  split <;> simp
@[simp] theorem State.readyPorts_streams (s : State) : (s.readyPorts).streams = s.streams := by
  unfold State.readyPorts
  refine foldl_keeps _ State.streams (fun s a => ?_) _ _
  split <;> simp
@[simp] theorem State.readyPorts_entries (s : State) : (s.readyPorts).entries = s.entries := by
  unfold State.readyPorts
  refine foldl_keeps _ State.entries (fun s a => ?_) _ _
  split <;> simp
@[simp] theorem State.readyPorts_pairs (s : State) : (s.readyPorts).pairs = s.pairs := by
  unfold State.readyPorts
  refine foldl_keeps _ State.pairs (fun s a => ?_) _ _
  split <;> simp
@[simp] theorem State.readyPorts_own (s : State) : (s.readyPorts).own = s.own := by
  unfold State.readyPorts
  refine foldl_keeps _ State.own (fun s a => ?_) _ _
  split <;> simp
@[simp] theorem State.readyPorts_moves (s : State) : (s.readyPorts).moves = s.moves := by
  unfold State.readyPorts
  refine foldl_keeps _ State.moves (fun s a => ?_) _ _
  split <;> simp
@[simp] theorem State.readyPorts_phantoms (s : State) : (s.readyPorts).phantoms = s.phantoms := by
  unfold State.readyPorts
  refine foldl_keeps _ State.phantoms (fun s a => ?_) _ _
  split <;> simp
@[simp] theorem State.readyPorts_bus (s : State) : (s.readyPorts).bus = s.bus := by
  unfold State.readyPorts
  refine foldl_keeps _ State.bus (fun s a => ?_) _ _
  split <;> simp
@[simp] theorem State.readyPorts_restart (s : State) : (s.readyPorts).restart = s.restart := by
  unfold State.readyPorts
  refine foldl_keeps _ State.restart (fun s a => ?_) _ _
  split <;> simp
@[simp] theorem State.readyPorts_clock (s : State) : (s.readyPorts).clock = s.clock := by
  unfold State.readyPorts
  refine foldl_keeps _ State.clock (fun s a => ?_) _ _
  split <;> simp

/-! `State.raiseChip` -/

@[simp] theorem State.raiseChip_pending (c : Chip) (s : State) : (s.raiseChip c).pending = s.pending := rfl
@[simp] theorem State.raiseChip_rate (c : Chip) (s : State) : (s.raiseChip c).rate = s.rate := rfl
@[simp] theorem State.raiseChip_align (c : Chip) (s : State) : (s.raiseChip c).align = s.align := rfl
@[simp] theorem State.raiseChip_rx (c : Chip) (s : State) : (s.raiseChip c).rx = s.rx := rfl
@[simp] theorem State.raiseChip_ports (c : Chip) (s : State) : (s.raiseChip c).ports = s.ports := rfl
@[simp] theorem State.raiseChip_streams (c : Chip) (s : State) : (s.raiseChip c).streams = s.streams := rfl
@[simp] theorem State.raiseChip_entries (c : Chip) (s : State) : (s.raiseChip c).entries = s.entries := rfl
@[simp] theorem State.raiseChip_pairs (c : Chip) (s : State) : (s.raiseChip c).pairs = s.pairs := rfl
@[simp] theorem State.raiseChip_own (c : Chip) (s : State) : (s.raiseChip c).own = s.own := rfl
@[simp] theorem State.raiseChip_moves (c : Chip) (s : State) : (s.raiseChip c).moves = s.moves := rfl
@[simp] theorem State.raiseChip_phantoms (c : Chip) (s : State) : (s.raiseChip c).phantoms = s.phantoms := rfl
@[simp] theorem State.raiseChip_bus (c : Chip) (s : State) : (s.raiseChip c).bus = s.bus := rfl
@[simp] theorem State.raiseChip_restart (c : Chip) (s : State) : (s.raiseChip c).restart = s.restart := rfl
@[simp] theorem State.raiseChip_clock (c : Chip) (s : State) : (s.raiseChip c).clock = s.clock := rfl
@[simp] theorem State.raiseChip_draws (c : Chip) (s : State) : (s.raiseChip c).draws = s.draws := rfl

/-! `State.chipFault` -/

@[simp] theorem State.chipFault_pending (c : Chip) (s : State) : (s.chipFault c).pending = s.pending := by
  unfold State.chipFault
  dsimp only
  simp only [raiseChip_pending]
  rw [foldl_keeps (g := State.pending) (h := fun _ _ => by simp), foldl_keeps (g := State.pending) (h := fun _ _ => by simp)]
  simp
@[simp] theorem State.chipFault_rate (c : Chip) (s : State) : (s.chipFault c).rate = s.rate := by
  unfold State.chipFault
  dsimp only
  simp only [raiseChip_rate]
  rw [foldl_keeps (g := State.rate) (h := fun _ _ => by simp), foldl_keeps (g := State.rate) (h := fun _ _ => by simp)]
  simp
@[simp] theorem State.chipFault_align (c : Chip) (s : State) : (s.chipFault c).align = s.align := by
  unfold State.chipFault
  dsimp only
  simp only [raiseChip_align]
  rw [foldl_keeps (g := State.align) (h := fun _ _ => by simp), foldl_keeps (g := State.align) (h := fun _ _ => by simp)]
  simp
@[simp] theorem State.chipFault_rx (c : Chip) (s : State) : (s.chipFault c).rx = s.rx := by
  unfold State.chipFault
  dsimp only
  simp only [raiseChip_rx]
  rw [foldl_keeps (g := State.rx) (h := fun _ _ => by simp), foldl_keeps (g := State.rx) (h := fun _ _ => by simp)]
  simp
@[simp] theorem State.chipFault_ports (c : Chip) (s : State) : (s.chipFault c).ports = s.ports := by
  unfold State.chipFault
  dsimp only
  simp only [raiseChip_ports]
  rw [foldl_keeps (g := State.ports) (h := fun _ _ => by simp), foldl_keeps (g := State.ports) (h := fun _ _ => by simp)]
  simp
@[simp] theorem State.chipFault_streams (c : Chip) (s : State) : (s.chipFault c).streams = s.streams := by
  unfold State.chipFault
  dsimp only
  simp only [raiseChip_streams]
  rw [foldl_keeps (g := State.streams) (h := fun _ _ => by simp), foldl_keeps (g := State.streams) (h := fun _ _ => by simp)]
  simp
@[simp] theorem State.chipFault_entries (c : Chip) (s : State) : (s.chipFault c).entries = s.entries := by
  unfold State.chipFault
  dsimp only
  simp only [raiseChip_entries]
  rw [foldl_keeps (g := State.entries) (h := fun _ _ => by simp), foldl_keeps (g := State.entries) (h := fun _ _ => by simp)]
  simp
@[simp] theorem State.chipFault_own (c : Chip) (s : State) : (s.chipFault c).own = s.own := by
  unfold State.chipFault
  dsimp only
  simp only [raiseChip_own]
  rw [foldl_keeps (g := State.own) (h := fun _ _ => by simp), foldl_keeps (g := State.own) (h := fun _ _ => by simp)]
  simp
@[simp] theorem State.chipFault_restart (c : Chip) (s : State) : (s.chipFault c).restart = s.restart := by
  unfold State.chipFault
  dsimp only
  simp only [raiseChip_restart]
  rw [foldl_keeps (g := State.restart) (h := fun _ _ => by simp), foldl_keeps (g := State.restart) (h := fun _ _ => by simp)]
  simp
@[simp] theorem State.chipFault_clock (c : Chip) (s : State) : (s.chipFault c).clock = s.clock := by
  unfold State.chipFault
  dsimp only
  simp only [raiseChip_clock]
  rw [foldl_keeps (g := State.clock) (h := fun _ _ => by simp), foldl_keeps (g := State.clock) (h := fun _ _ => by simp)]
  simp
@[simp] theorem State.chipFault_draws (c : Chip) (s : State) : (s.chipFault c).draws = s.draws := by
  unfold State.chipFault
  dsimp only
  simp only [raiseChip_draws]
  rw [foldl_keeps (g := State.draws) (h := fun _ _ => by simp), foldl_keeps (g := State.draws) (h := fun _ _ => by simp)]
  simp

/-! `State.adoptChip` -/

@[simp] theorem State.adoptChip_pending (startUp : Bool) (c : Chip) (ws : List Byte) (s : State) :
    (s.adoptChip startUp c ws).pending = s.pending := by
  exact foldl_keeps _ State.pending (fun _ _ => by simp) _ _
@[simp] theorem State.adoptChip_rate (startUp : Bool) (c : Chip) (ws : List Byte) (s : State) :
    (s.adoptChip startUp c ws).rate = s.rate := by
  exact foldl_keeps _ State.rate (fun _ _ => by simp) _ _
@[simp] theorem State.adoptChip_align (startUp : Bool) (c : Chip) (ws : List Byte) (s : State) :
    (s.adoptChip startUp c ws).align = s.align := by
  exact foldl_keeps _ State.align (fun _ _ => by simp) _ _
@[simp] theorem State.adoptChip_rx (startUp : Bool) (c : Chip) (ws : List Byte) (s : State) :
    (s.adoptChip startUp c ws).rx = s.rx := by
  exact foldl_keeps _ State.rx (fun _ _ => by simp) _ _
@[simp] theorem State.adoptChip_ports (startUp : Bool) (c : Chip) (ws : List Byte) (s : State) :
    (s.adoptChip startUp c ws).ports = s.ports := by
  exact foldl_keeps _ State.ports (fun _ _ => by simp) _ _
@[simp] theorem State.adoptChip_streams (startUp : Bool) (c : Chip) (ws : List Byte) (s : State) :
    (s.adoptChip startUp c ws).streams = s.streams := by
  exact foldl_keeps _ State.streams (fun _ _ => by simp) _ _
@[simp] theorem State.adoptChip_entries (startUp : Bool) (c : Chip) (ws : List Byte) (s : State) :
    (s.adoptChip startUp c ws).entries = s.entries := by
  exact foldl_keeps _ State.entries (fun _ _ => by simp) _ _
@[simp] theorem State.adoptChip_restart (startUp : Bool) (c : Chip) (ws : List Byte) (s : State) :
    (s.adoptChip startUp c ws).restart = s.restart := by
  exact foldl_keeps _ State.restart (fun _ _ => by simp) _ _
@[simp] theorem State.adoptChip_clock (startUp : Bool) (c : Chip) (ws : List Byte) (s : State) :
    (s.adoptChip startUp c ws).clock = s.clock := by
  exact foldl_keeps _ State.clock (fun _ _ => by simp) _ _
@[simp] theorem State.adoptChip_draws (startUp : Bool) (c : Chip) (ws : List Byte) (s : State) :
    (s.adoptChip startUp c ws).draws = s.draws := by
  exact foldl_keeps _ State.draws (fun _ _ => by simp) _ _

/-! `State.writeTaken` -/

@[simp] theorem State.writeTaken_pending (c : Command) (newWord : Byte) (s : State) :
    (s.writeTaken c newWord).pending = s.pending := by
  unfold State.writeTaken
  split <;> simp
@[simp] theorem State.writeTaken_rate (c : Command) (newWord : Byte) (s : State) :
    (s.writeTaken c newWord).rate = s.rate := by
  unfold State.writeTaken
  split <;> simp
@[simp] theorem State.writeTaken_align (c : Command) (newWord : Byte) (s : State) :
    (s.writeTaken c newWord).align = s.align := by
  unfold State.writeTaken
  split <;> simp
@[simp] theorem State.writeTaken_rx (c : Command) (newWord : Byte) (s : State) : (s.writeTaken c newWord).rx = s.rx := by
  unfold State.writeTaken
  split <;> simp
@[simp] theorem State.writeTaken_comm (c : Command) (newWord : Byte) (s : State) :
    (s.writeTaken c newWord).comm = s.comm := by
  unfold State.writeTaken
  split <;> simp
@[simp] theorem State.writeTaken_ports (c : Command) (newWord : Byte) (s : State) :
    (s.writeTaken c newWord).ports = s.ports := by
  unfold State.writeTaken
  split <;> simp
@[simp] theorem State.writeTaken_streams (c : Command) (newWord : Byte) (s : State) :
    (s.writeTaken c newWord).streams = s.streams := by
  unfold State.writeTaken
  split <;> simp
@[simp] theorem State.writeTaken_entries (c : Command) (newWord : Byte) (s : State) :
    (s.writeTaken c newWord).entries = s.entries := by
  unfold State.writeTaken
  split <;> simp
@[simp] theorem State.writeTaken_pairs (c : Command) (newWord : Byte) (s : State) :
    (s.writeTaken c newWord).pairs = s.pairs := by
  unfold State.writeTaken
  split <;> simp
@[simp] theorem State.writeTaken_own (c : Command) (newWord : Byte) (s : State) :
    (s.writeTaken c newWord).own = s.own := by
  unfold State.writeTaken
  split <;> simp
@[simp] theorem State.writeTaken_restart (c : Command) (newWord : Byte) (s : State) :
    (s.writeTaken c newWord).restart = s.restart := by
  unfold State.writeTaken
  split <;> simp
@[simp] theorem State.writeTaken_clock (c : Command) (newWord : Byte) (s : State) :
    (s.writeTaken c newWord).clock = s.clock := by
  unfold State.writeTaken
  split <;> simp
@[simp] theorem State.writeTaken_draws (c : Command) (newWord : Byte) (s : State) :
    (s.writeTaken c newWord).draws = s.draws := by
  unfold State.writeTaken
  split <;> simp

/-! `State.writeNotTaken` -/

@[simp] theorem State.writeNotTaken_pending (c : Command) (s : State) : (s.writeNotTaken c).pending = s.pending := by
  unfold State.writeNotTaken
  split <;> simp
@[simp] theorem State.writeNotTaken_rate (c : Command) (s : State) : (s.writeNotTaken c).rate = s.rate := by
  unfold State.writeNotTaken
  split <;> simp
@[simp] theorem State.writeNotTaken_align (c : Command) (s : State) : (s.writeNotTaken c).align = s.align := by
  unfold State.writeNotTaken
  split <;> simp
@[simp] theorem State.writeNotTaken_rx (c : Command) (s : State) : (s.writeNotTaken c).rx = s.rx := by
  unfold State.writeNotTaken
  split <;> simp
@[simp] theorem State.writeNotTaken_ports (c : Command) (s : State) : (s.writeNotTaken c).ports = s.ports := by
  unfold State.writeNotTaken
  split <;> simp
@[simp] theorem State.writeNotTaken_streams (c : Command) (s : State) : (s.writeNotTaken c).streams = s.streams := by
  unfold State.writeNotTaken
  split <;> simp
@[simp] theorem State.writeNotTaken_entries (c : Command) (s : State) : (s.writeNotTaken c).entries = s.entries := by
  unfold State.writeNotTaken
  split <;> simp
@[simp] theorem State.writeNotTaken_own (c : Command) (s : State) : (s.writeNotTaken c).own = s.own := by
  unfold State.writeNotTaken
  split <;> simp
@[simp] theorem State.writeNotTaken_restart (c : Command) (s : State) : (s.writeNotTaken c).restart = s.restart := by
  unfold State.writeNotTaken
  split <;> simp
@[simp] theorem State.writeNotTaken_clock (c : Command) (s : State) : (s.writeNotTaken c).clock = s.clock := by
  unfold State.writeNotTaken
  split <;> simp
@[simp] theorem State.writeNotTaken_draws (c : Command) (s : State) : (s.writeNotTaken c).draws = s.draws := by
  unfold State.writeNotTaken
  split <;> simp

/-! `State.writeReplied` -/

@[simp] theorem State.writeReplied_pending (c : Command) (oldWord newWord : Byte) (reply : Option Byte) (s : State) :
    (s.writeReplied c oldWord newWord reply).pending = s.pending := by
  unfold State.writeReplied
  split <;> simp
@[simp] theorem State.writeReplied_rate (c : Command) (oldWord newWord : Byte) (reply : Option Byte) (s : State) :
    (s.writeReplied c oldWord newWord reply).rate = s.rate := by
  unfold State.writeReplied
  split <;> simp
@[simp] theorem State.writeReplied_align (c : Command) (oldWord newWord : Byte) (reply : Option Byte) (s : State) :
    (s.writeReplied c oldWord newWord reply).align = s.align := by
  unfold State.writeReplied
  split <;> simp
@[simp] theorem State.writeReplied_rx (c : Command) (oldWord newWord : Byte) (reply : Option Byte) (s : State) :
    (s.writeReplied c oldWord newWord reply).rx = s.rx := by
  unfold State.writeReplied
  split <;> simp
@[simp] theorem State.writeReplied_comm (c : Command) (oldWord newWord : Byte) (reply : Option Byte) (s : State) :
    (s.writeReplied c oldWord newWord reply).comm = s.comm := by
  unfold State.writeReplied
  split <;> simp
@[simp] theorem State.writeReplied_ports (c : Command) (oldWord newWord : Byte) (reply : Option Byte) (s : State) :
    (s.writeReplied c oldWord newWord reply).ports = s.ports := by
  unfold State.writeReplied
  split <;> simp
@[simp] theorem State.writeReplied_streams (c : Command) (oldWord newWord : Byte) (reply : Option Byte) (s : State) :
    (s.writeReplied c oldWord newWord reply).streams = s.streams := by
  unfold State.writeReplied
  split <;> simp
@[simp] theorem State.writeReplied_entries (c : Command) (oldWord newWord : Byte) (reply : Option Byte) (s : State) :
    (s.writeReplied c oldWord newWord reply).entries = s.entries := by
  unfold State.writeReplied
  split <;> simp
@[simp] theorem State.writeReplied_pairs (c : Command) (oldWord newWord : Byte) (reply : Option Byte) (s : State) :
    (s.writeReplied c oldWord newWord reply).pairs = s.pairs := by
  unfold State.writeReplied
  split <;> simp
@[simp] theorem State.writeReplied_own (c : Command) (oldWord newWord : Byte) (reply : Option Byte) (s : State) :
    (s.writeReplied c oldWord newWord reply).own = s.own := by
  unfold State.writeReplied
  split <;> simp
@[simp] theorem State.writeReplied_restart (c : Command) (oldWord newWord : Byte) (reply : Option Byte) (s : State) :
    (s.writeReplied c oldWord newWord reply).restart = s.restart := by
  unfold State.writeReplied
  split <;> simp
@[simp] theorem State.writeReplied_clock (c : Command) (oldWord newWord : Byte) (reply : Option Byte) (s : State) :
    (s.writeReplied c oldWord newWord reply).clock = s.clock := by
  unfold State.writeReplied
  split <;> simp
@[simp] theorem State.writeReplied_draws (c : Command) (oldWord newWord : Byte) (reply : Option Byte) (s : State) :
    (s.writeReplied c oldWord newWord reply).draws = s.draws := by
  unfold State.writeReplied
  split <;> simp

/-! `State.verified` -/

@[simp] theorem State.verified_pending (c : Command) (oldWord newWord : Byte) (w : Option Byte) (s : State) :
    (s.verified c oldWord newWord w).pending = s.pending := by
  unfold State.verified
  split <;> (try split) <;> simp
@[simp] theorem State.verified_rate (c : Command) (oldWord newWord : Byte) (w : Option Byte) (s : State) :
    (s.verified c oldWord newWord w).rate = s.rate := by
  unfold State.verified
  split <;> (try split) <;> simp
@[simp] theorem State.verified_align (c : Command) (oldWord newWord : Byte) (w : Option Byte) (s : State) :
    (s.verified c oldWord newWord w).align = s.align := by
  unfold State.verified
  split <;> (try split) <;> simp
@[simp] theorem State.verified_rx (c : Command) (oldWord newWord : Byte) (w : Option Byte) (s : State) :
    (s.verified c oldWord newWord w).rx = s.rx := by
  unfold State.verified
  split <;> (try split) <;> simp
@[simp] theorem State.verified_ports (c : Command) (oldWord newWord : Byte) (w : Option Byte) (s : State) :
    (s.verified c oldWord newWord w).ports = s.ports := by
  unfold State.verified
  split <;> (try split) <;> simp
@[simp] theorem State.verified_streams (c : Command) (oldWord newWord : Byte) (w : Option Byte) (s : State) :
    (s.verified c oldWord newWord w).streams = s.streams := by
  unfold State.verified
  split <;> (try split) <;> simp
@[simp] theorem State.verified_entries (c : Command) (oldWord newWord : Byte) (w : Option Byte) (s : State) :
    (s.verified c oldWord newWord w).entries = s.entries := by
  unfold State.verified
  split <;> (try split) <;> simp
@[simp] theorem State.verified_own (c : Command) (oldWord newWord : Byte) (w : Option Byte) (s : State) :
    (s.verified c oldWord newWord w).own = s.own := by
  unfold State.verified
  split <;> (try split) <;> simp
@[simp] theorem State.verified_restart (c : Command) (oldWord newWord : Byte) (w : Option Byte) (s : State) :
    (s.verified c oldWord newWord w).restart = s.restart := by
  unfold State.verified
  split <;> (try split) <;> simp
@[simp] theorem State.verified_clock (c : Command) (oldWord newWord : Byte) (w : Option Byte) (s : State) :
    (s.verified c oldWord newWord w).clock = s.clock := by
  unfold State.verified
  split <;> (try split) <;> simp
@[simp] theorem State.verified_draws (c : Command) (oldWord newWord : Byte) (w : Option Byte) (s : State) :
    (s.verified c oldWord newWord w).draws = s.draws := by
  unfold State.verified
  split <;> (try split) <;> simp

/-! `State.clipLatched` -/

@[simp] theorem State.clipLatched_pending (i : Input) (s : State) : (s.clipLatched i).pending = s.pending := by
  unfold State.clipLatched
  split <;> simp
@[simp] theorem State.clipLatched_rate (i : Input) (s : State) : (s.clipLatched i).rate = s.rate := by
  unfold State.clipLatched
  split <;> simp
@[simp] theorem State.clipLatched_align (i : Input) (s : State) : (s.clipLatched i).align = s.align := by
  unfold State.clipLatched
  split <;> simp
@[simp] theorem State.clipLatched_rx (i : Input) (s : State) : (s.clipLatched i).rx = s.rx := by
  unfold State.clipLatched
  split <;> simp
@[simp] theorem State.clipLatched_ports (i : Input) (s : State) : (s.clipLatched i).ports = s.ports := by
  unfold State.clipLatched
  split <;> simp
@[simp] theorem State.clipLatched_streams (i : Input) (s : State) : (s.clipLatched i).streams = s.streams := by
  unfold State.clipLatched
  split <;> simp
@[simp] theorem State.clipLatched_entries (i : Input) (s : State) : (s.clipLatched i).entries = s.entries := by
  unfold State.clipLatched
  split <;> simp
@[simp] theorem State.clipLatched_pairs (i : Input) (s : State) : (s.clipLatched i).pairs = s.pairs := by
  unfold State.clipLatched
  split <;> simp
@[simp] theorem State.clipLatched_own (i : Input) (s : State) : (s.clipLatched i).own = s.own := by
  unfold State.clipLatched
  split <;> simp
@[simp] theorem State.clipLatched_moves (i : Input) (s : State) : (s.clipLatched i).moves = s.moves := by
  unfold State.clipLatched
  split <;> simp
@[simp] theorem State.clipLatched_phantoms (i : Input) (s : State) : (s.clipLatched i).phantoms = s.phantoms := by
  unfold State.clipLatched
  split <;> simp
@[simp] theorem State.clipLatched_restart (i : Input) (s : State) : (s.clipLatched i).restart = s.restart := by
  unfold State.clipLatched
  split <;> simp
@[simp] theorem State.clipLatched_clock (i : Input) (s : State) : (s.clipLatched i).clock = s.clock := by
  unfold State.clipLatched
  split <;> simp
@[simp] theorem State.clipLatched_draws (i : Input) (s : State) : (s.clipLatched i).draws = s.draws := by
  unfold State.clipLatched
  split <;> simp

/-! `State.faultLatched` -/

@[simp] theorem State.faultLatched_pending (i : Input) (s : State) : (s.faultLatched i).pending = s.pending := by
  simp [State.faultLatched]
@[simp] theorem State.faultLatched_rate (i : Input) (s : State) : (s.faultLatched i).rate = s.rate := by
  simp [State.faultLatched]
@[simp] theorem State.faultLatched_align (i : Input) (s : State) : (s.faultLatched i).align = s.align := by
  simp [State.faultLatched]
@[simp] theorem State.faultLatched_rx (i : Input) (s : State) : (s.faultLatched i).rx = s.rx := by
  simp [State.faultLatched]
@[simp] theorem State.faultLatched_ports (i : Input) (s : State) : (s.faultLatched i).ports = s.ports := by
  simp [State.faultLatched]
@[simp] theorem State.faultLatched_streams (i : Input) (s : State) : (s.faultLatched i).streams = s.streams := by
  simp [State.faultLatched]
@[simp] theorem State.faultLatched_entries (i : Input) (s : State) : (s.faultLatched i).entries = s.entries := by
  simp [State.faultLatched]
@[simp] theorem State.faultLatched_own (i : Input) (s : State) : (s.faultLatched i).own = s.own := by
  simp [State.faultLatched]
@[simp] theorem State.faultLatched_moves (i : Input) (s : State) : (s.faultLatched i).moves = s.moves := by
  simp [State.faultLatched]
@[simp] theorem State.faultLatched_restart (i : Input) (s : State) : (s.faultLatched i).restart = s.restart := by
  simp [State.faultLatched]
@[simp] theorem State.faultLatched_clock (i : Input) (s : State) : (s.faultLatched i).clock = s.clock := by
  simp [State.faultLatched]
@[simp] theorem State.faultLatched_draws (i : Input) (s : State) : (s.faultLatched i).draws = s.draws := by
  simp [State.faultLatched]

/-! `State.statusEnded` -/

@[simp] theorem State.statusEnded_pending (i : Input) (v : Option Byte) (s : State) :
    (s.statusEnded i v).pending = s.pending := by
  unfold State.statusEnded
  (repeat' split) <;> simp
@[simp] theorem State.statusEnded_rate (i : Input) (v : Option Byte) (s : State) : (s.statusEnded i v).rate = s.rate := by
  unfold State.statusEnded
  (repeat' split) <;> simp
@[simp] theorem State.statusEnded_align (i : Input) (v : Option Byte) (s : State) :
    (s.statusEnded i v).align = s.align := by
  unfold State.statusEnded
  (repeat' split) <;> simp
@[simp] theorem State.statusEnded_rx (i : Input) (v : Option Byte) (s : State) : (s.statusEnded i v).rx = s.rx := by
  unfold State.statusEnded
  (repeat' split) <;> simp
@[simp] theorem State.statusEnded_ports (i : Input) (v : Option Byte) (s : State) :
    (s.statusEnded i v).ports = s.ports := by
  unfold State.statusEnded
  (repeat' split) <;> simp
@[simp] theorem State.statusEnded_streams (i : Input) (v : Option Byte) (s : State) :
    (s.statusEnded i v).streams = s.streams := by
  unfold State.statusEnded
  (repeat' split) <;> simp
@[simp] theorem State.statusEnded_entries (i : Input) (v : Option Byte) (s : State) :
    (s.statusEnded i v).entries = s.entries := by
  unfold State.statusEnded
  (repeat' split) <;> simp
@[simp] theorem State.statusEnded_own (i : Input) (v : Option Byte) (s : State) : (s.statusEnded i v).own = s.own := by
  unfold State.statusEnded
  (repeat' split) <;> simp
@[simp] theorem State.statusEnded_restart (i : Input) (v : Option Byte) (s : State) :
    (s.statusEnded i v).restart = s.restart := by
  unfold State.statusEnded
  (repeat' split) <;> simp
@[simp] theorem State.statusEnded_clock (i : Input) (v : Option Byte) (s : State) :
    (s.statusEnded i v).clock = s.clock := by
  unfold State.statusEnded
  (repeat' split) <;> simp
@[simp] theorem State.statusEnded_draws (i : Input) (v : Option Byte) (s : State) :
    (s.statusEnded i v).draws = s.draws := by
  unfold State.statusEnded
  (repeat' split) <;> simp

/-! `State.identityEnded` -/

@[simp] theorem State.identityEnded_pending (c : Chip) (v : Option Byte) (s : State) :
    (s.identityEnded c v).pending = s.pending := rfl
@[simp] theorem State.identityEnded_rate (c : Chip) (v : Option Byte) (s : State) :
    (s.identityEnded c v).rate = s.rate := rfl
@[simp] theorem State.identityEnded_align (c : Chip) (v : Option Byte) (s : State) :
    (s.identityEnded c v).align = s.align := rfl
@[simp] theorem State.identityEnded_rx (c : Chip) (v : Option Byte) (s : State) : (s.identityEnded c v).rx = s.rx := rfl
@[simp] theorem State.identityEnded_comm (c : Chip) (v : Option Byte) (s : State) :
    (s.identityEnded c v).comm = s.comm := rfl
@[simp] theorem State.identityEnded_ports (c : Chip) (v : Option Byte) (s : State) :
    (s.identityEnded c v).ports = s.ports := rfl
@[simp] theorem State.identityEnded_streams (c : Chip) (v : Option Byte) (s : State) :
    (s.identityEnded c v).streams = s.streams := rfl
@[simp] theorem State.identityEnded_entries (c : Chip) (v : Option Byte) (s : State) :
    (s.identityEnded c v).entries = s.entries := rfl
@[simp] theorem State.identityEnded_pairs (c : Chip) (v : Option Byte) (s : State) :
    (s.identityEnded c v).pairs = s.pairs := rfl
@[simp] theorem State.identityEnded_own (c : Chip) (v : Option Byte) (s : State) : (s.identityEnded c v).own = s.own := rfl
@[simp] theorem State.identityEnded_moves (c : Chip) (v : Option Byte) (s : State) :
    (s.identityEnded c v).moves = s.moves := rfl
@[simp] theorem State.identityEnded_phantoms (c : Chip) (v : Option Byte) (s : State) :
    (s.identityEnded c v).phantoms = s.phantoms := rfl
@[simp] theorem State.identityEnded_restart (c : Chip) (v : Option Byte) (s : State) :
    (s.identityEnded c v).restart = s.restart := rfl
@[simp] theorem State.identityEnded_clock (c : Chip) (v : Option Byte) (s : State) :
    (s.identityEnded c v).clock = s.clock := rfl
@[simp] theorem State.identityEnded_draws (c : Chip) (v : Option Byte) (s : State) :
    (s.identityEnded c v).draws = s.draws := rfl

/-! `State.adoptionEnded` -/

@[simp] theorem State.adoptionEnded_pending (c : Chip) (k : Channel) (w : Option Byte) (s : State) :
    (s.adoptionEnded c k w).pending = s.pending := by
  unfold State.adoptionEnded
  split <;> (try split) <;> simp
@[simp] theorem State.adoptionEnded_rate (c : Chip) (k : Channel) (w : Option Byte) (s : State) :
    (s.adoptionEnded c k w).rate = s.rate := by
  unfold State.adoptionEnded
  split <;> (try split) <;> simp
@[simp] theorem State.adoptionEnded_align (c : Chip) (k : Channel) (w : Option Byte) (s : State) :
    (s.adoptionEnded c k w).align = s.align := by
  unfold State.adoptionEnded
  split <;> (try split) <;> simp
@[simp] theorem State.adoptionEnded_rx (c : Chip) (k : Channel) (w : Option Byte) (s : State) :
    (s.adoptionEnded c k w).rx = s.rx := by
  unfold State.adoptionEnded
  split <;> (try split) <;> simp
@[simp] theorem State.adoptionEnded_ports (c : Chip) (k : Channel) (w : Option Byte) (s : State) :
    (s.adoptionEnded c k w).ports = s.ports := by
  unfold State.adoptionEnded
  split <;> (try split) <;> simp
@[simp] theorem State.adoptionEnded_streams (c : Chip) (k : Channel) (w : Option Byte) (s : State) :
    (s.adoptionEnded c k w).streams = s.streams := by
  unfold State.adoptionEnded
  split <;> (try split) <;> simp
@[simp] theorem State.adoptionEnded_entries (c : Chip) (k : Channel) (w : Option Byte) (s : State) :
    (s.adoptionEnded c k w).entries = s.entries := by
  unfold State.adoptionEnded
  split <;> (try split) <;> simp
@[simp] theorem State.adoptionEnded_restart (c : Chip) (k : Channel) (w : Option Byte) (s : State) :
    (s.adoptionEnded c k w).restart = s.restart := by
  unfold State.adoptionEnded
  split <;> (try split) <;> simp
@[simp] theorem State.adoptionEnded_clock (c : Chip) (k : Channel) (w : Option Byte) (s : State) :
    (s.adoptionEnded c k w).clock = s.clock := by
  unfold State.adoptionEnded
  split <;> (try split) <;> simp
@[simp] theorem State.adoptionEnded_draws (c : Chip) (k : Channel) (w : Option Byte) (s : State) :
    (s.adoptionEnded c k w).draws = s.draws := by
  unfold State.adoptionEnded
  split <;> (try split) <;> simp

/-! `State.becomeReady` -/

@[simp] theorem State.becomeReady_pending (s : State) : (s.becomeReady).pending = s.pending := by
  simp [State.becomeReady]
@[simp] theorem State.becomeReady_rate (s : State) : (s.becomeReady).rate = s.rate := by simp [State.becomeReady]
@[simp] theorem State.becomeReady_align (s : State) : (s.becomeReady).align = s.align := by simp [State.becomeReady]
@[simp] theorem State.becomeReady_rx (s : State) : (s.becomeReady).rx = s.rx := by simp [State.becomeReady]
@[simp] theorem State.becomeReady_streams (s : State) : (s.becomeReady).streams = s.streams := by
  simp [State.becomeReady]
@[simp] theorem State.becomeReady_entries (s : State) : (s.becomeReady).entries = s.entries := by
  simp [State.becomeReady]
@[simp] theorem State.becomeReady_pairs (s : State) : (s.becomeReady).pairs = s.pairs := by simp [State.becomeReady]
@[simp] theorem State.becomeReady_own (s : State) : (s.becomeReady).own = s.own := by simp [State.becomeReady]
@[simp] theorem State.becomeReady_phantoms (s : State) : (s.becomeReady).phantoms = s.phantoms := by
  simp [State.becomeReady]
@[simp] theorem State.becomeReady_restart (s : State) : (s.becomeReady).restart = s.restart := by
  simp [State.becomeReady]
@[simp] theorem State.becomeReady_clock (s : State) : (s.becomeReady).clock = s.clock := by simp [State.becomeReady]

/-! `State.passTxn` -/

@[simp] theorem State.passTxn_pending (t : Txn) (s : State) : (s.passTxn t).pending = s.pending := rfl
@[simp] theorem State.passTxn_rate (t : Txn) (s : State) : (s.passTxn t).rate = s.rate := rfl
@[simp] theorem State.passTxn_align (t : Txn) (s : State) : (s.passTxn t).align = s.align := rfl
@[simp] theorem State.passTxn_rx (t : Txn) (s : State) : (s.passTxn t).rx = s.rx := rfl
@[simp] theorem State.passTxn_comm (t : Txn) (s : State) : (s.passTxn t).comm = s.comm := rfl
@[simp] theorem State.passTxn_ports (t : Txn) (s : State) : (s.passTxn t).ports = s.ports := rfl
@[simp] theorem State.passTxn_streams (t : Txn) (s : State) : (s.passTxn t).streams = s.streams := rfl
@[simp] theorem State.passTxn_entries (t : Txn) (s : State) : (s.passTxn t).entries = s.entries := rfl
@[simp] theorem State.passTxn_pairs (t : Txn) (s : State) : (s.passTxn t).pairs = s.pairs := rfl
@[simp] theorem State.passTxn_own (t : Txn) (s : State) : (s.passTxn t).own = s.own := rfl
@[simp] theorem State.passTxn_moves (t : Txn) (s : State) : (s.passTxn t).moves = s.moves := rfl
@[simp] theorem State.passTxn_phantoms (t : Txn) (s : State) : (s.passTxn t).phantoms = s.phantoms := rfl
@[simp] theorem State.passTxn_restart (t : Txn) (s : State) : (s.passTxn t).restart = s.restart := rfl
@[simp] theorem State.passTxn_clock (t : Txn) (s : State) : (s.passTxn t).clock = s.clock := rfl
@[simp] theorem State.passTxn_draws (t : Txn) (s : State) : (s.passTxn t).draws = s.draws := rfl

/-! `State.nextChip` -/

@[simp] theorem State.nextChip_pending (c : Chip) (s : State) : (s.nextChip c).pending = s.pending := by
  unfold State.nextChip
  split <;> simp
@[simp] theorem State.nextChip_rate (c : Chip) (s : State) : (s.nextChip c).rate = s.rate := by
  unfold State.nextChip
  split <;> simp
@[simp] theorem State.nextChip_align (c : Chip) (s : State) : (s.nextChip c).align = s.align := by
  unfold State.nextChip
  split <;> simp
@[simp] theorem State.nextChip_rx (c : Chip) (s : State) : (s.nextChip c).rx = s.rx := by
  unfold State.nextChip
  split <;> simp
@[simp] theorem State.nextChip_streams (c : Chip) (s : State) : (s.nextChip c).streams = s.streams := by
  unfold State.nextChip
  split <;> simp
@[simp] theorem State.nextChip_entries (c : Chip) (s : State) : (s.nextChip c).entries = s.entries := by
  unfold State.nextChip
  split <;> simp
@[simp] theorem State.nextChip_pairs (c : Chip) (s : State) : (s.nextChip c).pairs = s.pairs := by
  unfold State.nextChip
  split <;> simp
@[simp] theorem State.nextChip_own (c : Chip) (s : State) : (s.nextChip c).own = s.own := by
  unfold State.nextChip
  split <;> simp
@[simp] theorem State.nextChip_phantoms (c : Chip) (s : State) : (s.nextChip c).phantoms = s.phantoms := by
  unfold State.nextChip
  split <;> simp
@[simp] theorem State.nextChip_restart (c : Chip) (s : State) : (s.nextChip c).restart = s.restart := by
  unfold State.nextChip
  split <;> simp
@[simp] theorem State.nextChip_clock (c : Chip) (s : State) : (s.nextChip c).clock = s.clock := by
  unfold State.nextChip
  split <;> simp

/-! `State.beginPass` -/

@[simp] theorem State.beginPass_pending (s : State) : (s.beginPass).pending = s.pending := rfl
@[simp] theorem State.beginPass_rate (s : State) : (s.beginPass).rate = s.rate := rfl
@[simp] theorem State.beginPass_align (s : State) : (s.beginPass).align = s.align := rfl
@[simp] theorem State.beginPass_rx (s : State) : (s.beginPass).rx = s.rx := rfl
@[simp] theorem State.beginPass_comm (s : State) : (s.beginPass).comm = s.comm := rfl
@[simp] theorem State.beginPass_ports (s : State) : (s.beginPass).ports = s.ports := rfl
@[simp] theorem State.beginPass_streams (s : State) : (s.beginPass).streams = s.streams := rfl
@[simp] theorem State.beginPass_entries (s : State) : (s.beginPass).entries = s.entries := rfl
@[simp] theorem State.beginPass_pairs (s : State) : (s.beginPass).pairs = s.pairs := rfl
@[simp] theorem State.beginPass_own (s : State) : (s.beginPass).own = s.own := rfl
@[simp] theorem State.beginPass_moves (s : State) : (s.beginPass).moves = s.moves := rfl
@[simp] theorem State.beginPass_phantoms (s : State) : (s.beginPass).phantoms = s.phantoms := rfl
@[simp] theorem State.beginPass_restart (s : State) : (s.beginPass).restart = s.restart := rfl
@[simp] theorem State.beginPass_clock (s : State) : (s.beginPass).clock = s.clock := rfl
@[simp] theorem State.beginPass_draws (s : State) : (s.beginPass).draws = s.draws := rfl

/-! `State.passFailsChip` -/

@[simp] theorem State.passFailsChip_pending (c : Chip) (s : State) : (s.passFailsChip c).pending = s.pending := by
  simp [State.passFailsChip]
@[simp] theorem State.passFailsChip_rate (c : Chip) (s : State) : (s.passFailsChip c).rate = s.rate := by
  simp [State.passFailsChip]
@[simp] theorem State.passFailsChip_align (c : Chip) (s : State) : (s.passFailsChip c).align = s.align := by
  simp [State.passFailsChip]
@[simp] theorem State.passFailsChip_rx (c : Chip) (s : State) : (s.passFailsChip c).rx = s.rx := by
  simp [State.passFailsChip]
@[simp] theorem State.passFailsChip_streams (c : Chip) (s : State) : (s.passFailsChip c).streams = s.streams := by
  simp [State.passFailsChip]
@[simp] theorem State.passFailsChip_entries (c : Chip) (s : State) : (s.passFailsChip c).entries = s.entries := by
  simp [State.passFailsChip]
@[simp] theorem State.passFailsChip_pairs (c : Chip) (s : State) : (s.passFailsChip c).pairs = s.pairs := by
  simp [State.passFailsChip]
@[simp] theorem State.passFailsChip_own (c : Chip) (s : State) : (s.passFailsChip c).own = s.own := by
  simp [State.passFailsChip]
@[simp] theorem State.passFailsChip_phantoms (c : Chip) (s : State) : (s.passFailsChip c).phantoms = s.phantoms := by
  simp [State.passFailsChip]
@[simp] theorem State.passFailsChip_restart (c : Chip) (s : State) : (s.passFailsChip c).restart = s.restart := by
  simp [State.passFailsChip]
@[simp] theorem State.passFailsChip_clock (c : Chip) (s : State) : (s.passFailsChip c).clock = s.clock := by
  simp [State.passFailsChip]

/-! `State.startIdentityEnded` -/

@[simp] theorem State.startIdentityEnded_pending (c : Chip) (v : Option Byte) (s : State) :
    (s.startIdentityEnded c v).pending = s.pending := by
  unfold State.startIdentityEnded
  split <;> (try split) <;> simp
@[simp] theorem State.startIdentityEnded_rate (c : Chip) (v : Option Byte) (s : State) :
    (s.startIdentityEnded c v).rate = s.rate := by
  unfold State.startIdentityEnded
  split <;> (try split) <;> simp
@[simp] theorem State.startIdentityEnded_align (c : Chip) (v : Option Byte) (s : State) :
    (s.startIdentityEnded c v).align = s.align := by
  unfold State.startIdentityEnded
  split <;> (try split) <;> simp
@[simp] theorem State.startIdentityEnded_rx (c : Chip) (v : Option Byte) (s : State) :
    (s.startIdentityEnded c v).rx = s.rx := by
  unfold State.startIdentityEnded
  split <;> (try split) <;> simp
@[simp] theorem State.startIdentityEnded_streams (c : Chip) (v : Option Byte) (s : State) :
    (s.startIdentityEnded c v).streams = s.streams := by
  unfold State.startIdentityEnded
  split <;> (try split) <;> simp
@[simp] theorem State.startIdentityEnded_entries (c : Chip) (v : Option Byte) (s : State) :
    (s.startIdentityEnded c v).entries = s.entries := by
  unfold State.startIdentityEnded
  split <;> (try split) <;> simp
@[simp] theorem State.startIdentityEnded_pairs (c : Chip) (v : Option Byte) (s : State) :
    (s.startIdentityEnded c v).pairs = s.pairs := by
  unfold State.startIdentityEnded
  split <;> (try split) <;> simp
@[simp] theorem State.startIdentityEnded_own (c : Chip) (v : Option Byte) (s : State) :
    (s.startIdentityEnded c v).own = s.own := by
  unfold State.startIdentityEnded
  split <;> (try split) <;> simp
@[simp] theorem State.startIdentityEnded_phantoms (c : Chip) (v : Option Byte) (s : State) :
    (s.startIdentityEnded c v).phantoms = s.phantoms := by
  unfold State.startIdentityEnded
  split <;> (try split) <;> simp
@[simp] theorem State.startIdentityEnded_restart (c : Chip) (v : Option Byte) (s : State) :
    (s.startIdentityEnded c v).restart = s.restart := by
  unfold State.startIdentityEnded
  split <;> (try split) <;> simp
@[simp] theorem State.startIdentityEnded_clock (c : Chip) (v : Option Byte) (s : State) :
    (s.startIdentityEnded c v).clock = s.clock := by
  unfold State.startIdentityEnded
  split <;> (try split) <;> simp

/-! `State.startWriteTaken` -/

@[simp] theorem State.startWriteTaken_pending (c : Chip) (k : Channel) (s : State) :
    (s.startWriteTaken c k).pending = s.pending := by
  unfold State.startWriteTaken
  split <;> simp
@[simp] theorem State.startWriteTaken_rate (c : Chip) (k : Channel) (s : State) :
    (s.startWriteTaken c k).rate = s.rate := by
  unfold State.startWriteTaken
  split <;> simp
@[simp] theorem State.startWriteTaken_align (c : Chip) (k : Channel) (s : State) :
    (s.startWriteTaken c k).align = s.align := by
  unfold State.startWriteTaken
  split <;> simp
@[simp] theorem State.startWriteTaken_rx (c : Chip) (k : Channel) (s : State) : (s.startWriteTaken c k).rx = s.rx := by
  unfold State.startWriteTaken
  split <;> simp
@[simp] theorem State.startWriteTaken_streams (c : Chip) (k : Channel) (s : State) :
    (s.startWriteTaken c k).streams = s.streams := by
  unfold State.startWriteTaken
  split <;> simp
@[simp] theorem State.startWriteTaken_entries (c : Chip) (k : Channel) (s : State) :
    (s.startWriteTaken c k).entries = s.entries := by
  unfold State.startWriteTaken
  split <;> simp
@[simp] theorem State.startWriteTaken_own (c : Chip) (k : Channel) (s : State) : (s.startWriteTaken c k).own = s.own := by
  unfold State.startWriteTaken
  split <;> simp
@[simp] theorem State.startWriteTaken_restart (c : Chip) (k : Channel) (s : State) :
    (s.startWriteTaken c k).restart = s.restart := by
  unfold State.startWriteTaken
  split <;> simp
@[simp] theorem State.startWriteTaken_clock (c : Chip) (k : Channel) (s : State) :
    (s.startWriteTaken c k).clock = s.clock := by
  unfold State.startWriteTaken
  split <;> simp

/-! `State.startVerified` -/

@[simp] theorem State.startVerified_pending (c : Chip) (k : Channel) (w : Option Byte) (s : State) :
    (s.startVerified c k w).pending = s.pending := by
  unfold State.startVerified
  split <;> simp
  rw [foldl_keeps (g := State.pending) (h := fun _ _ => by simp)]
@[simp] theorem State.startVerified_rate (c : Chip) (k : Channel) (w : Option Byte) (s : State) :
    (s.startVerified c k w).rate = s.rate := by
  unfold State.startVerified
  split <;> simp
  rw [foldl_keeps (g := State.rate) (h := fun _ _ => by simp)]
@[simp] theorem State.startVerified_align (c : Chip) (k : Channel) (w : Option Byte) (s : State) :
    (s.startVerified c k w).align = s.align := by
  unfold State.startVerified
  split <;> simp
  rw [foldl_keeps (g := State.align) (h := fun _ _ => by simp)]
@[simp] theorem State.startVerified_rx (c : Chip) (k : Channel) (w : Option Byte) (s : State) :
    (s.startVerified c k w).rx = s.rx := by
  unfold State.startVerified
  split <;> simp
  rw [foldl_keeps (g := State.rx) (h := fun _ _ => by simp)]
@[simp] theorem State.startVerified_streams (c : Chip) (k : Channel) (w : Option Byte) (s : State) :
    (s.startVerified c k w).streams = s.streams := by
  unfold State.startVerified
  split <;> simp
  rw [foldl_keeps (g := State.streams) (h := fun _ _ => by simp)]
@[simp] theorem State.startVerified_entries (c : Chip) (k : Channel) (w : Option Byte) (s : State) :
    (s.startVerified c k w).entries = s.entries := by
  unfold State.startVerified
  split <;> simp
  rw [foldl_keeps (g := State.entries) (h := fun _ _ => by simp)]
@[simp] theorem State.startVerified_own (c : Chip) (k : Channel) (w : Option Byte) (s : State) :
    (s.startVerified c k w).own = s.own := by
  unfold State.startVerified
  split <;> simp
  rw [foldl_keeps (g := State.own) (h := fun _ _ => by simp)]
@[simp] theorem State.startVerified_restart (c : Chip) (k : Channel) (w : Option Byte) (s : State) :
    (s.startVerified c k w).restart = s.restart := by
  unfold State.startVerified
  split <;> simp
  rw [foldl_keeps (g := State.restart) (h := fun _ _ => by simp)]
@[simp] theorem State.startVerified_clock (c : Chip) (k : Channel) (w : Option Byte) (s : State) :
    (s.startVerified c k w).clock = s.clock := by
  unfold State.startVerified
  split <;> simp
  rw [foldl_keeps (g := State.clock) (h := fun _ _ => by simp)]

/-! `State.startAdoptionEnded` -/

@[simp] theorem State.startAdoptionEnded_pending (c : Chip) (k : Channel) (w : Option Byte) (s : State) :
    (s.startAdoptionEnded c k w).pending = s.pending := by
  unfold State.startAdoptionEnded
  split <;> (try split) <;> simp
@[simp] theorem State.startAdoptionEnded_rate (c : Chip) (k : Channel) (w : Option Byte) (s : State) :
    (s.startAdoptionEnded c k w).rate = s.rate := by
  unfold State.startAdoptionEnded
  split <;> (try split) <;> simp
@[simp] theorem State.startAdoptionEnded_align (c : Chip) (k : Channel) (w : Option Byte) (s : State) :
    (s.startAdoptionEnded c k w).align = s.align := by
  unfold State.startAdoptionEnded
  split <;> (try split) <;> simp
@[simp] theorem State.startAdoptionEnded_rx (c : Chip) (k : Channel) (w : Option Byte) (s : State) :
    (s.startAdoptionEnded c k w).rx = s.rx := by
  unfold State.startAdoptionEnded
  split <;> (try split) <;> simp
@[simp] theorem State.startAdoptionEnded_streams (c : Chip) (k : Channel) (w : Option Byte) (s : State) :
    (s.startAdoptionEnded c k w).streams = s.streams := by
  unfold State.startAdoptionEnded
  split <;> (try split) <;> simp
@[simp] theorem State.startAdoptionEnded_entries (c : Chip) (k : Channel) (w : Option Byte) (s : State) :
    (s.startAdoptionEnded c k w).entries = s.entries := by
  unfold State.startAdoptionEnded
  split <;> (try split) <;> simp
@[simp] theorem State.startAdoptionEnded_restart (c : Chip) (k : Channel) (w : Option Byte) (s : State) :
    (s.startAdoptionEnded c k w).restart = s.restart := by
  unfold State.startAdoptionEnded
  split <;> (try split) <;> simp
@[simp] theorem State.startAdoptionEnded_clock (c : Chip) (k : Channel) (w : Option Byte) (s : State) :
    (s.startAdoptionEnded c k w).clock = s.clock := by
  unfold State.startAdoptionEnded
  split <;> (try split) <;> simp

/-! `State.discardEnded` -/

@[simp] theorem State.discardEnded_pending (s : State) : (s.discardEnded).pending = s.pending := rfl
@[simp] theorem State.discardEnded_rate (s : State) : (s.discardEnded).rate = s.rate := rfl
@[simp] theorem State.discardEnded_align (s : State) : (s.discardEnded).align = s.align := rfl
@[simp] theorem State.discardEnded_rx (s : State) : (s.discardEnded).rx = s.rx := rfl
@[simp] theorem State.discardEnded_comm (s : State) : (s.discardEnded).comm = s.comm := rfl
@[simp] theorem State.discardEnded_ports (s : State) : (s.discardEnded).ports = s.ports := rfl
@[simp] theorem State.discardEnded_streams (s : State) : (s.discardEnded).streams = s.streams := rfl
@[simp] theorem State.discardEnded_entries (s : State) : (s.discardEnded).entries = s.entries := rfl
@[simp] theorem State.discardEnded_pairs (s : State) : (s.discardEnded).pairs = s.pairs := rfl
@[simp] theorem State.discardEnded_own (s : State) : (s.discardEnded).own = s.own := rfl
@[simp] theorem State.discardEnded_moves (s : State) : (s.discardEnded).moves = s.moves := rfl
@[simp] theorem State.discardEnded_phantoms (s : State) : (s.discardEnded).phantoms = s.phantoms := rfl
@[simp] theorem State.discardEnded_restart (s : State) : (s.discardEnded).restart = s.restart := rfl
@[simp] theorem State.discardEnded_clock (s : State) : (s.discardEnded).clock = s.clock := rfl
@[simp] theorem State.discardEnded_draws (s : State) : (s.discardEnded).draws = s.draws := rfl

/-! `State.unanswered` -/

@[simp] theorem State.unanswered_pending (t : Txn) (s : State) : (s.unanswered t).pending = s.pending := by
  unfold State.unanswered
  split <;> simp
@[simp] theorem State.unanswered_rate (t : Txn) (s : State) : (s.unanswered t).rate = s.rate := by
  unfold State.unanswered
  split <;> simp
@[simp] theorem State.unanswered_align (t : Txn) (s : State) : (s.unanswered t).align = s.align := by
  unfold State.unanswered
  split <;> simp
@[simp] theorem State.unanswered_rx (t : Txn) (s : State) : (s.unanswered t).rx = s.rx := by
  unfold State.unanswered
  split <;> simp
@[simp] theorem State.unanswered_streams (t : Txn) (s : State) : (s.unanswered t).streams = s.streams := by
  unfold State.unanswered
  split <;> simp
@[simp] theorem State.unanswered_entries (t : Txn) (s : State) : (s.unanswered t).entries = s.entries := by
  unfold State.unanswered
  split <;> simp
@[simp] theorem State.unanswered_restart (t : Txn) (s : State) : (s.unanswered t).restart = s.restart := by
  unfold State.unanswered
  split <;> simp
@[simp] theorem State.unanswered_clock (t : Txn) (s : State) : (s.unanswered t).clock = s.clock := by
  unfold State.unanswered
  split <;> simp

/-! `State.reply` -/

@[simp] theorem State.reply_pending (l : LaneId) (tag kind : Byte) (r : ResultCode) (payload : List Byte) (s : State) :
    (s.reply l tag kind r payload).pending = s.pending := rfl
@[simp] theorem State.reply_rate (l : LaneId) (tag kind : Byte) (r : ResultCode) (payload : List Byte) (s : State) :
    (s.reply l tag kind r payload).rate = s.rate := rfl
@[simp] theorem State.reply_align (l : LaneId) (tag kind : Byte) (r : ResultCode) (payload : List Byte) (s : State) :
    (s.reply l tag kind r payload).align = s.align := rfl
@[simp] theorem State.reply_rx (l : LaneId) (tag kind : Byte) (r : ResultCode) (payload : List Byte) (s : State) :
    (s.reply l tag kind r payload).rx = s.rx := rfl
@[simp] theorem State.reply_ports (l : LaneId) (tag kind : Byte) (r : ResultCode) (payload : List Byte) (s : State) :
    (s.reply l tag kind r payload).ports = s.ports := rfl
@[simp] theorem State.reply_streams (l : LaneId) (tag kind : Byte) (r : ResultCode) (payload : List Byte) (s : State) :
    (s.reply l tag kind r payload).streams = s.streams := rfl
@[simp] theorem State.reply_entries (l : LaneId) (tag kind : Byte) (r : ResultCode) (payload : List Byte) (s : State) :
    (s.reply l tag kind r payload).entries = s.entries := rfl
@[simp] theorem State.reply_pairs (l : LaneId) (tag kind : Byte) (r : ResultCode) (payload : List Byte) (s : State) :
    (s.reply l tag kind r payload).pairs = s.pairs := rfl
@[simp] theorem State.reply_own (l : LaneId) (tag kind : Byte) (r : ResultCode) (payload : List Byte) (s : State) :
    (s.reply l tag kind r payload).own = s.own := rfl
@[simp] theorem State.reply_moves (l : LaneId) (tag kind : Byte) (r : ResultCode) (payload : List Byte) (s : State) :
    (s.reply l tag kind r payload).moves = s.moves := rfl
@[simp] theorem State.reply_phantoms (l : LaneId) (tag kind : Byte) (r : ResultCode) (payload : List Byte) (s : State) :
    (s.reply l tag kind r payload).phantoms = s.phantoms := rfl
@[simp] theorem State.reply_bus (l : LaneId) (tag kind : Byte) (r : ResultCode) (payload : List Byte) (s : State) :
    (s.reply l tag kind r payload).bus = s.bus := rfl
@[simp] theorem State.reply_restart (l : LaneId) (tag kind : Byte) (r : ResultCode) (payload : List Byte) (s : State) :
    (s.reply l tag kind r payload).restart = s.restart := rfl
@[simp] theorem State.reply_clock (l : LaneId) (tag kind : Byte) (r : ResultCode) (payload : List Byte) (s : State) :
    (s.reply l tag kind r payload).clock = s.clock := rfl
@[simp] theorem State.reply_draws (l : LaneId) (tag kind : Byte) (r : ResultCode) (payload : List Byte) (s : State) :
    (s.reply l tag kind r payload).draws = s.draws := rfl

/-! `State.refuse` -/

@[simp] theorem State.refuse_pending (l : LaneId) (tag : Byte) (k : RequestKind) (r : ResultCode) (s : State) :
    (s.refuse l tag k r).pending = s.pending := rfl
@[simp] theorem State.refuse_rate (l : LaneId) (tag : Byte) (k : RequestKind) (r : ResultCode) (s : State) :
    (s.refuse l tag k r).rate = s.rate := rfl
@[simp] theorem State.refuse_align (l : LaneId) (tag : Byte) (k : RequestKind) (r : ResultCode) (s : State) :
    (s.refuse l tag k r).align = s.align := rfl
@[simp] theorem State.refuse_rx (l : LaneId) (tag : Byte) (k : RequestKind) (r : ResultCode) (s : State) :
    (s.refuse l tag k r).rx = s.rx := rfl
@[simp] theorem State.refuse_ports (l : LaneId) (tag : Byte) (k : RequestKind) (r : ResultCode) (s : State) :
    (s.refuse l tag k r).ports = s.ports := rfl
@[simp] theorem State.refuse_streams (l : LaneId) (tag : Byte) (k : RequestKind) (r : ResultCode) (s : State) :
    (s.refuse l tag k r).streams = s.streams := rfl
@[simp] theorem State.refuse_entries (l : LaneId) (tag : Byte) (k : RequestKind) (r : ResultCode) (s : State) :
    (s.refuse l tag k r).entries = s.entries := rfl
@[simp] theorem State.refuse_pairs (l : LaneId) (tag : Byte) (k : RequestKind) (r : ResultCode) (s : State) :
    (s.refuse l tag k r).pairs = s.pairs := rfl
@[simp] theorem State.refuse_own (l : LaneId) (tag : Byte) (k : RequestKind) (r : ResultCode) (s : State) :
    (s.refuse l tag k r).own = s.own := rfl
@[simp] theorem State.refuse_moves (l : LaneId) (tag : Byte) (k : RequestKind) (r : ResultCode) (s : State) :
    (s.refuse l tag k r).moves = s.moves := rfl
@[simp] theorem State.refuse_phantoms (l : LaneId) (tag : Byte) (k : RequestKind) (r : ResultCode) (s : State) :
    (s.refuse l tag k r).phantoms = s.phantoms := rfl
@[simp] theorem State.refuse_bus (l : LaneId) (tag : Byte) (k : RequestKind) (r : ResultCode) (s : State) :
    (s.refuse l tag k r).bus = s.bus := rfl
@[simp] theorem State.refuse_restart (l : LaneId) (tag : Byte) (k : RequestKind) (r : ResultCode) (s : State) :
    (s.refuse l tag k r).restart = s.restart := rfl
@[simp] theorem State.refuse_clock (l : LaneId) (tag : Byte) (k : RequestKind) (r : ResultCode) (s : State) :
    (s.refuse l tag k r).clock = s.clock := rfl
@[simp] theorem State.refuse_draws (l : LaneId) (tag : Byte) (k : RequestKind) (r : ResultCode) (s : State) :
    (s.refuse l tag k r).draws = s.draws := rfl

/-! `State.setLevel` -/

@[simp] theorem State.setLevel_pending (who : Party) (i : Input) (level : Option Int) (s : State) :
    (s.setLevel who i level).pending = s.pending := by
  unfold State.setLevel
  split <;> simp
@[simp] theorem State.setLevel_rate (who : Party) (i : Input) (level : Option Int) (s : State) :
    (s.setLevel who i level).rate = s.rate := by
  unfold State.setLevel
  split <;> simp
@[simp] theorem State.setLevel_align (who : Party) (i : Input) (level : Option Int) (s : State) :
    (s.setLevel who i level).align = s.align := by
  unfold State.setLevel
  split <;> simp
@[simp] theorem State.setLevel_rx (who : Party) (i : Input) (level : Option Int) (s : State) :
    (s.setLevel who i level).rx = s.rx := by
  unfold State.setLevel
  split <;> simp
@[simp] theorem State.setLevel_ports (who : Party) (i : Input) (level : Option Int) (s : State) :
    (s.setLevel who i level).ports = s.ports := by
  unfold State.setLevel
  split <;> simp
@[simp] theorem State.setLevel_streams (who : Party) (i : Input) (level : Option Int) (s : State) :
    (s.setLevel who i level).streams = s.streams := by
  unfold State.setLevel
  split <;> simp
@[simp] theorem State.setLevel_entries (who : Party) (i : Input) (level : Option Int) (s : State) :
    (s.setLevel who i level).entries = s.entries := by
  unfold State.setLevel
  split <;> simp
@[simp] theorem State.setLevel_own (who : Party) (i : Input) (level : Option Int) (s : State) :
    (s.setLevel who i level).own = s.own := by
  unfold State.setLevel
  split <;> simp
@[simp] theorem State.setLevel_phantoms (who : Party) (i : Input) (level : Option Int) (s : State) :
    (s.setLevel who i level).phantoms = s.phantoms := by
  unfold State.setLevel
  split <;> simp
@[simp] theorem State.setLevel_restart (who : Party) (i : Input) (level : Option Int) (s : State) :
    (s.setLevel who i level).restart = s.restart := by
  unfold State.setLevel
  split <;> simp
@[simp] theorem State.setLevel_clock (who : Party) (i : Input) (level : Option Int) (s : State) :
    (s.setLevel who i level).clock = s.clock := by
  unfold State.setLevel
  split <;> simp
@[simp] theorem State.setLevel_draws (who : Party) (i : Input) (level : Option Int) (s : State) :
    (s.setLevel who i level).draws = s.draws := by
  unfold State.setLevel
  split <;> simp

/-! `State.doLevel` -/

@[simp] theorem State.doLevel_pending (l : LaneId) (tag : Byte) (who : Party) (i : Input) (field : Option Int) (s : State) :
    (s.doLevel l tag who i field).pending = s.pending := by
  unfold State.doLevel
  split <;> simp
@[simp] theorem State.doLevel_rate (l : LaneId) (tag : Byte) (who : Party) (i : Input) (field : Option Int) (s : State) :
    (s.doLevel l tag who i field).rate = s.rate := by
  unfold State.doLevel
  split <;> simp
@[simp] theorem State.doLevel_align (l : LaneId) (tag : Byte) (who : Party) (i : Input) (field : Option Int) (s : State) :
    (s.doLevel l tag who i field).align = s.align := by
  unfold State.doLevel
  split <;> simp
@[simp] theorem State.doLevel_rx (l : LaneId) (tag : Byte) (who : Party) (i : Input) (field : Option Int) (s : State) :
    (s.doLevel l tag who i field).rx = s.rx := by
  unfold State.doLevel
  split <;> simp
@[simp] theorem State.doLevel_ports (l : LaneId) (tag : Byte) (who : Party) (i : Input) (field : Option Int) (s : State) :
    (s.doLevel l tag who i field).ports = s.ports := by
  unfold State.doLevel
  split <;> simp
@[simp] theorem State.doLevel_streams (l : LaneId) (tag : Byte) (who : Party) (i : Input) (field : Option Int) (s : State) :
    (s.doLevel l tag who i field).streams = s.streams := by
  unfold State.doLevel
  split <;> simp
@[simp] theorem State.doLevel_entries (l : LaneId) (tag : Byte) (who : Party) (i : Input) (field : Option Int) (s : State) :
    (s.doLevel l tag who i field).entries = s.entries := by
  unfold State.doLevel
  split <;> simp
@[simp] theorem State.doLevel_own (l : LaneId) (tag : Byte) (who : Party) (i : Input) (field : Option Int) (s : State) :
    (s.doLevel l tag who i field).own = s.own := by
  unfold State.doLevel
  split <;> simp
@[simp] theorem State.doLevel_phantoms (l : LaneId) (tag : Byte) (who : Party) (i : Input) (field : Option Int) (s : State) :
    (s.doLevel l tag who i field).phantoms = s.phantoms := by
  unfold State.doLevel
  split <;> simp
@[simp] theorem State.doLevel_restart (l : LaneId) (tag : Byte) (who : Party) (i : Input) (field : Option Int) (s : State) :
    (s.doLevel l tag who i field).restart = s.restart := by
  unfold State.doLevel
  split <;> simp
@[simp] theorem State.doLevel_clock (l : LaneId) (tag : Byte) (who : Party) (i : Input) (field : Option Int) (s : State) :
    (s.doLevel l tag who i field).clock = s.clock := by
  unfold State.doLevel
  split <;> simp
@[simp] theorem State.doLevel_draws (l : LaneId) (tag : Byte) (who : Party) (i : Input) (field : Option Int) (s : State) :
    (s.doLevel l tag who i field).draws = s.draws := by
  unfold State.doLevel
  split <;> simp

/-! `State.setMute` -/

@[simp] theorem State.setMute_pending (who : Party) (i : Input) (on : Bool) (s : State) :
    (s.setMute who i on).pending = s.pending := rfl
@[simp] theorem State.setMute_rate (who : Party) (i : Input) (on : Bool) (s : State) :
    (s.setMute who i on).rate = s.rate := rfl
@[simp] theorem State.setMute_align (who : Party) (i : Input) (on : Bool) (s : State) :
    (s.setMute who i on).align = s.align := rfl
@[simp] theorem State.setMute_rx (who : Party) (i : Input) (on : Bool) (s : State) : (s.setMute who i on).rx = s.rx := rfl
@[simp] theorem State.setMute_comm (who : Party) (i : Input) (on : Bool) (s : State) :
    (s.setMute who i on).comm = s.comm := rfl
@[simp] theorem State.setMute_ports (who : Party) (i : Input) (on : Bool) (s : State) :
    (s.setMute who i on).ports = s.ports := rfl
@[simp] theorem State.setMute_streams (who : Party) (i : Input) (on : Bool) (s : State) :
    (s.setMute who i on).streams = s.streams := rfl
@[simp] theorem State.setMute_entries (who : Party) (i : Input) (on : Bool) (s : State) :
    (s.setMute who i on).entries = s.entries := rfl
@[simp] theorem State.setMute_own (who : Party) (i : Input) (on : Bool) (s : State) :
    (s.setMute who i on).own = s.own := rfl
@[simp] theorem State.setMute_moves (who : Party) (i : Input) (on : Bool) (s : State) :
    (s.setMute who i on).moves = s.moves := rfl
@[simp] theorem State.setMute_phantoms (who : Party) (i : Input) (on : Bool) (s : State) :
    (s.setMute who i on).phantoms = s.phantoms := rfl
@[simp] theorem State.setMute_bus (who : Party) (i : Input) (on : Bool) (s : State) :
    (s.setMute who i on).bus = s.bus := rfl
@[simp] theorem State.setMute_restart (who : Party) (i : Input) (on : Bool) (s : State) :
    (s.setMute who i on).restart = s.restart := rfl
@[simp] theorem State.setMute_clock (who : Party) (i : Input) (on : Bool) (s : State) :
    (s.setMute who i on).clock = s.clock := rfl
@[simp] theorem State.setMute_draws (who : Party) (i : Input) (on : Bool) (s : State) :
    (s.setMute who i on).draws = s.draws := rfl

/-! `State.doMute` -/

@[simp] theorem State.doMute_pending (l : LaneId) (tag : Byte) (who : Party) (i : Input) (on : Bool) (s : State) :
    (s.doMute l tag who i on).pending = s.pending := rfl
@[simp] theorem State.doMute_rate (l : LaneId) (tag : Byte) (who : Party) (i : Input) (on : Bool) (s : State) :
    (s.doMute l tag who i on).rate = s.rate := rfl
@[simp] theorem State.doMute_align (l : LaneId) (tag : Byte) (who : Party) (i : Input) (on : Bool) (s : State) :
    (s.doMute l tag who i on).align = s.align := rfl
@[simp] theorem State.doMute_rx (l : LaneId) (tag : Byte) (who : Party) (i : Input) (on : Bool) (s : State) :
    (s.doMute l tag who i on).rx = s.rx := rfl
@[simp] theorem State.doMute_ports (l : LaneId) (tag : Byte) (who : Party) (i : Input) (on : Bool) (s : State) :
    (s.doMute l tag who i on).ports = s.ports := rfl
@[simp] theorem State.doMute_streams (l : LaneId) (tag : Byte) (who : Party) (i : Input) (on : Bool) (s : State) :
    (s.doMute l tag who i on).streams = s.streams := rfl
@[simp] theorem State.doMute_entries (l : LaneId) (tag : Byte) (who : Party) (i : Input) (on : Bool) (s : State) :
    (s.doMute l tag who i on).entries = s.entries := rfl
@[simp] theorem State.doMute_own (l : LaneId) (tag : Byte) (who : Party) (i : Input) (on : Bool) (s : State) :
    (s.doMute l tag who i on).own = s.own := rfl
@[simp] theorem State.doMute_moves (l : LaneId) (tag : Byte) (who : Party) (i : Input) (on : Bool) (s : State) :
    (s.doMute l tag who i on).moves = s.moves := rfl
@[simp] theorem State.doMute_phantoms (l : LaneId) (tag : Byte) (who : Party) (i : Input) (on : Bool) (s : State) :
    (s.doMute l tag who i on).phantoms = s.phantoms := rfl
@[simp] theorem State.doMute_bus (l : LaneId) (tag : Byte) (who : Party) (i : Input) (on : Bool) (s : State) :
    (s.doMute l tag who i on).bus = s.bus := rfl
@[simp] theorem State.doMute_restart (l : LaneId) (tag : Byte) (who : Party) (i : Input) (on : Bool) (s : State) :
    (s.doMute l tag who i on).restart = s.restart := rfl
@[simp] theorem State.doMute_clock (l : LaneId) (tag : Byte) (who : Party) (i : Input) (on : Bool) (s : State) :
    (s.doMute l tag who i on).clock = s.clock := rfl
@[simp] theorem State.doMute_draws (l : LaneId) (tag : Byte) (who : Party) (i : Input) (on : Bool) (s : State) :
    (s.doMute l tag who i on).draws = s.draws := rfl

/-! `State.storeMap` -/

@[simp] theorem State.storeMap_pending (k : Seat) (m : List Input) (s : State) : (s.storeMap k m).pending = s.pending := rfl
@[simp] theorem State.storeMap_rate (k : Seat) (m : List Input) (s : State) : (s.storeMap k m).rate = s.rate := rfl
@[simp] theorem State.storeMap_align (k : Seat) (m : List Input) (s : State) : (s.storeMap k m).align = s.align := rfl
@[simp] theorem State.storeMap_rx (k : Seat) (m : List Input) (s : State) : (s.storeMap k m).rx = s.rx := rfl
@[simp] theorem State.storeMap_comm (k : Seat) (m : List Input) (s : State) : (s.storeMap k m).comm = s.comm := rfl
@[simp] theorem State.storeMap_ports (k : Seat) (m : List Input) (s : State) : (s.storeMap k m).ports = s.ports := rfl
@[simp] theorem State.storeMap_streams (k : Seat) (m : List Input) (s : State) : (s.storeMap k m).streams = s.streams := rfl
@[simp] theorem State.storeMap_pairs (k : Seat) (m : List Input) (s : State) : (s.storeMap k m).pairs = s.pairs := rfl
@[simp] theorem State.storeMap_own (k : Seat) (m : List Input) (s : State) : (s.storeMap k m).own = s.own := rfl
@[simp] theorem State.storeMap_moves (k : Seat) (m : List Input) (s : State) : (s.storeMap k m).moves = s.moves := rfl
@[simp] theorem State.storeMap_phantoms (k : Seat) (m : List Input) (s : State) :
    (s.storeMap k m).phantoms = s.phantoms := rfl
@[simp] theorem State.storeMap_bus (k : Seat) (m : List Input) (s : State) : (s.storeMap k m).bus = s.bus := rfl
@[simp] theorem State.storeMap_restart (k : Seat) (m : List Input) (s : State) : (s.storeMap k m).restart = s.restart := rfl
@[simp] theorem State.storeMap_clock (k : Seat) (m : List Input) (s : State) : (s.storeMap k m).clock = s.clock := rfl
@[simp] theorem State.storeMap_draws (k : Seat) (m : List Input) (s : State) : (s.storeMap k m).draws = s.draws := rfl

/-! `State.doMap` -/

@[simp] theorem State.doMap_pending (l : LaneId) (tag : Byte) (who : Party) (list : List Input) (s : State) :
    (s.doMap l tag who list).pending = s.pending := by
  unfold State.doMap
  split <;> simp
@[simp] theorem State.doMap_rate (l : LaneId) (tag : Byte) (who : Party) (list : List Input) (s : State) :
    (s.doMap l tag who list).rate = s.rate := by
  unfold State.doMap
  split <;> simp
@[simp] theorem State.doMap_align (l : LaneId) (tag : Byte) (who : Party) (list : List Input) (s : State) :
    (s.doMap l tag who list).align = s.align := by
  unfold State.doMap
  split <;> simp
@[simp] theorem State.doMap_rx (l : LaneId) (tag : Byte) (who : Party) (list : List Input) (s : State) :
    (s.doMap l tag who list).rx = s.rx := by
  unfold State.doMap
  split <;> simp
@[simp] theorem State.doMap_ports (l : LaneId) (tag : Byte) (who : Party) (list : List Input) (s : State) :
    (s.doMap l tag who list).ports = s.ports := by
  unfold State.doMap
  split <;> simp
@[simp] theorem State.doMap_streams (l : LaneId) (tag : Byte) (who : Party) (list : List Input) (s : State) :
    (s.doMap l tag who list).streams = s.streams := by
  unfold State.doMap
  split <;> simp
@[simp] theorem State.doMap_pairs (l : LaneId) (tag : Byte) (who : Party) (list : List Input) (s : State) :
    (s.doMap l tag who list).pairs = s.pairs := by
  unfold State.doMap
  split <;> simp
@[simp] theorem State.doMap_own (l : LaneId) (tag : Byte) (who : Party) (list : List Input) (s : State) :
    (s.doMap l tag who list).own = s.own := by
  unfold State.doMap
  split <;> simp
@[simp] theorem State.doMap_moves (l : LaneId) (tag : Byte) (who : Party) (list : List Input) (s : State) :
    (s.doMap l tag who list).moves = s.moves := by
  unfold State.doMap
  split <;> simp
@[simp] theorem State.doMap_phantoms (l : LaneId) (tag : Byte) (who : Party) (list : List Input) (s : State) :
    (s.doMap l tag who list).phantoms = s.phantoms := by
  unfold State.doMap
  split <;> simp
@[simp] theorem State.doMap_bus (l : LaneId) (tag : Byte) (who : Party) (list : List Input) (s : State) :
    (s.doMap l tag who list).bus = s.bus := by
  unfold State.doMap
  split <;> simp
@[simp] theorem State.doMap_restart (l : LaneId) (tag : Byte) (who : Party) (list : List Input) (s : State) :
    (s.doMap l tag who list).restart = s.restart := by
  unfold State.doMap
  split <;> simp
@[simp] theorem State.doMap_clock (l : LaneId) (tag : Byte) (who : Party) (list : List Input) (s : State) :
    (s.doMap l tag who list).clock = s.clock := by
  unfold State.doMap
  split <;> simp
@[simp] theorem State.doMap_draws (l : LaneId) (tag : Byte) (who : Party) (list : List Input) (s : State) :
    (s.doMap l tag who list).draws = s.draws := by
  unfold State.doMap
  split <;> simp

/-! `State.doTake` -/

@[simp] theorem State.doTake_pending (l : LaneId) (tag : Byte) (who : Party) (i : Input) (s : State) :
    (s.doTake l tag who i).pending = s.pending := by
  simp only [State.doTake]
  (repeat' split) <;> simp
@[simp] theorem State.doTake_rate (l : LaneId) (tag : Byte) (who : Party) (i : Input) (s : State) :
    (s.doTake l tag who i).rate = s.rate := by
  simp only [State.doTake]
  (repeat' split) <;> simp
@[simp] theorem State.doTake_align (l : LaneId) (tag : Byte) (who : Party) (i : Input) (s : State) :
    (s.doTake l tag who i).align = s.align := by
  simp only [State.doTake]
  (repeat' split) <;> simp
@[simp] theorem State.doTake_rx (l : LaneId) (tag : Byte) (who : Party) (i : Input) (s : State) :
    (s.doTake l tag who i).rx = s.rx := by
  simp only [State.doTake]
  (repeat' split) <;> simp
@[simp] theorem State.doTake_ports (l : LaneId) (tag : Byte) (who : Party) (i : Input) (s : State) :
    (s.doTake l tag who i).ports = s.ports := by
  simp only [State.doTake]
  (repeat' split) <;> simp
@[simp] theorem State.doTake_streams (l : LaneId) (tag : Byte) (who : Party) (i : Input) (s : State) :
    (s.doTake l tag who i).streams = s.streams := by
  simp only [State.doTake]
  (repeat' split) <;> simp
@[simp] theorem State.doTake_entries (l : LaneId) (tag : Byte) (who : Party) (i : Input) (s : State) :
    (s.doTake l tag who i).entries = s.entries := by
  simp only [State.doTake]
  (repeat' split) <;> simp
@[simp] theorem State.doTake_pairs (l : LaneId) (tag : Byte) (who : Party) (i : Input) (s : State) :
    (s.doTake l tag who i).pairs = s.pairs := by
  simp only [State.doTake]
  (repeat' split) <;> simp
@[simp] theorem State.doTake_phantoms (l : LaneId) (tag : Byte) (who : Party) (i : Input) (s : State) :
    (s.doTake l tag who i).phantoms = s.phantoms := by
  simp only [State.doTake]
  (repeat' split) <;> simp
@[simp] theorem State.doTake_restart (l : LaneId) (tag : Byte) (who : Party) (i : Input) (s : State) :
    (s.doTake l tag who i).restart = s.restart := by
  simp only [State.doTake]
  (repeat' split) <;> simp
@[simp] theorem State.doTake_clock (l : LaneId) (tag : Byte) (who : Party) (i : Input) (s : State) :
    (s.doTake l tag who i).clock = s.clock := by
  simp only [State.doTake]
  (repeat' split) <;> simp
@[simp] theorem State.doTake_draws (l : LaneId) (tag : Byte) (who : Party) (i : Input) (s : State) :
    (s.doTake l tag who i).draws = s.draws := by
  simp only [State.doTake]
  (repeat' split) <;> simp

/-! `State.doRelease` -/

@[simp] theorem State.doRelease_pending (l : LaneId) (tag : Byte) (who : Party) (i : Input) (s : State) :
    (s.doRelease l tag who i).pending = s.pending := by
  simp only [State.doRelease]
  (repeat' split) <;> simp
@[simp] theorem State.doRelease_rate (l : LaneId) (tag : Byte) (who : Party) (i : Input) (s : State) :
    (s.doRelease l tag who i).rate = s.rate := by
  simp only [State.doRelease]
  (repeat' split) <;> simp
@[simp] theorem State.doRelease_align (l : LaneId) (tag : Byte) (who : Party) (i : Input) (s : State) :
    (s.doRelease l tag who i).align = s.align := by
  simp only [State.doRelease]
  (repeat' split) <;> simp
@[simp] theorem State.doRelease_rx (l : LaneId) (tag : Byte) (who : Party) (i : Input) (s : State) :
    (s.doRelease l tag who i).rx = s.rx := by
  simp only [State.doRelease]
  (repeat' split) <;> simp
@[simp] theorem State.doRelease_ports (l : LaneId) (tag : Byte) (who : Party) (i : Input) (s : State) :
    (s.doRelease l tag who i).ports = s.ports := by
  simp only [State.doRelease]
  (repeat' split) <;> simp
@[simp] theorem State.doRelease_streams (l : LaneId) (tag : Byte) (who : Party) (i : Input) (s : State) :
    (s.doRelease l tag who i).streams = s.streams := by
  simp only [State.doRelease]
  (repeat' split) <;> simp
@[simp] theorem State.doRelease_entries (l : LaneId) (tag : Byte) (who : Party) (i : Input) (s : State) :
    (s.doRelease l tag who i).entries = s.entries := by
  simp only [State.doRelease]
  (repeat' split) <;> simp
@[simp] theorem State.doRelease_pairs (l : LaneId) (tag : Byte) (who : Party) (i : Input) (s : State) :
    (s.doRelease l tag who i).pairs = s.pairs := by
  simp only [State.doRelease]
  (repeat' split) <;> simp
@[simp] theorem State.doRelease_phantoms (l : LaneId) (tag : Byte) (who : Party) (i : Input) (s : State) :
    (s.doRelease l tag who i).phantoms = s.phantoms := by
  simp only [State.doRelease]
  (repeat' split) <;> simp
@[simp] theorem State.doRelease_restart (l : LaneId) (tag : Byte) (who : Party) (i : Input) (s : State) :
    (s.doRelease l tag who i).restart = s.restart := by
  simp only [State.doRelease]
  (repeat' split) <;> simp
@[simp] theorem State.doRelease_clock (l : LaneId) (tag : Byte) (who : Party) (i : Input) (s : State) :
    (s.doRelease l tag who i).clock = s.clock := by
  simp only [State.doRelease]
  (repeat' split) <;> simp
@[simp] theorem State.doRelease_draws (l : LaneId) (tag : Byte) (who : Party) (i : Input) (s : State) :
    (s.doRelease l tag who i).draws = s.draws := by
  simp only [State.doRelease]
  (repeat' split) <;> simp

/-! `State.doPad` -/

@[simp] theorem State.doPad_pending (l : LaneId) (tag : Byte) (who : Party) (i : Input) (on : Bool) (s : State) :
    (s.doPad l tag who i on).pending = s.pending := by
  simp only [State.doPad]
  (repeat' split) <;> simp
@[simp] theorem State.doPad_rate (l : LaneId) (tag : Byte) (who : Party) (i : Input) (on : Bool) (s : State) :
    (s.doPad l tag who i on).rate = s.rate := by
  simp only [State.doPad]
  (repeat' split) <;> simp
@[simp] theorem State.doPad_align (l : LaneId) (tag : Byte) (who : Party) (i : Input) (on : Bool) (s : State) :
    (s.doPad l tag who i on).align = s.align := by
  simp only [State.doPad]
  (repeat' split) <;> simp
@[simp] theorem State.doPad_rx (l : LaneId) (tag : Byte) (who : Party) (i : Input) (on : Bool) (s : State) :
    (s.doPad l tag who i on).rx = s.rx := by
  simp only [State.doPad]
  (repeat' split) <;> simp
@[simp] theorem State.doPad_ports (l : LaneId) (tag : Byte) (who : Party) (i : Input) (on : Bool) (s : State) :
    (s.doPad l tag who i on).ports = s.ports := by
  simp only [State.doPad]
  (repeat' split) <;> simp
@[simp] theorem State.doPad_streams (l : LaneId) (tag : Byte) (who : Party) (i : Input) (on : Bool) (s : State) :
    (s.doPad l tag who i on).streams = s.streams := by
  simp only [State.doPad]
  (repeat' split) <;> simp
@[simp] theorem State.doPad_entries (l : LaneId) (tag : Byte) (who : Party) (i : Input) (on : Bool) (s : State) :
    (s.doPad l tag who i on).entries = s.entries := by
  simp only [State.doPad]
  (repeat' split) <;> simp
@[simp] theorem State.doPad_pairs (l : LaneId) (tag : Byte) (who : Party) (i : Input) (on : Bool) (s : State) :
    (s.doPad l tag who i on).pairs = s.pairs := by
  simp only [State.doPad]
  (repeat' split) <;> simp
@[simp] theorem State.doPad_phantoms (l : LaneId) (tag : Byte) (who : Party) (i : Input) (on : Bool) (s : State) :
    (s.doPad l tag who i on).phantoms = s.phantoms := by
  simp only [State.doPad]
  (repeat' split) <;> simp
@[simp] theorem State.doPad_restart (l : LaneId) (tag : Byte) (who : Party) (i : Input) (on : Bool) (s : State) :
    (s.doPad l tag who i on).restart = s.restart := by
  simp only [State.doPad]
  (repeat' split) <;> simp
@[simp] theorem State.doPad_clock (l : LaneId) (tag : Byte) (who : Party) (i : Input) (on : Bool) (s : State) :
    (s.doPad l tag who i on).clock = s.clock := by
  simp only [State.doPad]
  (repeat' split) <;> simp
@[simp] theorem State.doPad_draws (l : LaneId) (tag : Byte) (who : Party) (i : Input) (on : Bool) (s : State) :
    (s.doPad l tag who i on).draws = s.draws := by
  simp only [State.doPad]
  (repeat' split) <;> simp

/-! `State.doPhantom` -/

@[simp] theorem State.doPhantom_pending (l : LaneId) (tag : Byte) (who : Party) (i : Input) (on : Bool) (s : State) :
    (s.doPhantom l tag who i on).pending = s.pending := by
  simp only [State.doPhantom]
  (repeat' split) <;> simp
@[simp] theorem State.doPhantom_rate (l : LaneId) (tag : Byte) (who : Party) (i : Input) (on : Bool) (s : State) :
    (s.doPhantom l tag who i on).rate = s.rate := by
  simp only [State.doPhantom]
  (repeat' split) <;> simp
@[simp] theorem State.doPhantom_align (l : LaneId) (tag : Byte) (who : Party) (i : Input) (on : Bool) (s : State) :
    (s.doPhantom l tag who i on).align = s.align := by
  simp only [State.doPhantom]
  (repeat' split) <;> simp
@[simp] theorem State.doPhantom_rx (l : LaneId) (tag : Byte) (who : Party) (i : Input) (on : Bool) (s : State) :
    (s.doPhantom l tag who i on).rx = s.rx := by
  simp only [State.doPhantom]
  (repeat' split) <;> simp
@[simp] theorem State.doPhantom_ports (l : LaneId) (tag : Byte) (who : Party) (i : Input) (on : Bool) (s : State) :
    (s.doPhantom l tag who i on).ports = s.ports := by
  simp only [State.doPhantom]
  (repeat' split) <;> simp
@[simp] theorem State.doPhantom_streams (l : LaneId) (tag : Byte) (who : Party) (i : Input) (on : Bool) (s : State) :
    (s.doPhantom l tag who i on).streams = s.streams := by
  simp only [State.doPhantom]
  (repeat' split) <;> simp
@[simp] theorem State.doPhantom_entries (l : LaneId) (tag : Byte) (who : Party) (i : Input) (on : Bool) (s : State) :
    (s.doPhantom l tag who i on).entries = s.entries := by
  simp only [State.doPhantom]
  (repeat' split) <;> simp
@[simp] theorem State.doPhantom_own (l : LaneId) (tag : Byte) (who : Party) (i : Input) (on : Bool) (s : State) :
    (s.doPhantom l tag who i on).own = s.own := by
  simp only [State.doPhantom]
  (repeat' split) <;> simp
@[simp] theorem State.doPhantom_moves (l : LaneId) (tag : Byte) (who : Party) (i : Input) (on : Bool) (s : State) :
    (s.doPhantom l tag who i on).moves = s.moves := by
  simp only [State.doPhantom]
  (repeat' split) <;> simp
@[simp] theorem State.doPhantom_bus (l : LaneId) (tag : Byte) (who : Party) (i : Input) (on : Bool) (s : State) :
    (s.doPhantom l tag who i on).bus = s.bus := by
  simp only [State.doPhantom]
  (repeat' split) <;> simp
@[simp] theorem State.doPhantom_restart (l : LaneId) (tag : Byte) (who : Party) (i : Input) (on : Bool) (s : State) :
    (s.doPhantom l tag who i on).restart = s.restart := by
  simp only [State.doPhantom]
  (repeat' split) <;> simp
@[simp] theorem State.doPhantom_clock (l : LaneId) (tag : Byte) (who : Party) (i : Input) (on : Bool) (s : State) :
    (s.doPhantom l tag who i on).clock = s.clock := by
  simp only [State.doPhantom]
  (repeat' split) <;> simp
@[simp] theorem State.doPhantom_draws (l : LaneId) (tag : Byte) (who : Party) (i : Input) (on : Bool) (s : State) :
    (s.doPhantom l tag who i on).draws = s.draws := by
  simp only [State.doPhantom]
  (repeat' split) <;> simp

/-! `State.doQueryInput` -/

@[simp] theorem State.doQueryInput_pending (l : LaneId) (tag : Byte) (who : Party) (i : Input) (s : State) :
    (s.doQueryInput l tag who i).pending = s.pending := rfl
@[simp] theorem State.doQueryInput_rate (l : LaneId) (tag : Byte) (who : Party) (i : Input) (s : State) :
    (s.doQueryInput l tag who i).rate = s.rate := rfl
@[simp] theorem State.doQueryInput_align (l : LaneId) (tag : Byte) (who : Party) (i : Input) (s : State) :
    (s.doQueryInput l tag who i).align = s.align := rfl
@[simp] theorem State.doQueryInput_rx (l : LaneId) (tag : Byte) (who : Party) (i : Input) (s : State) :
    (s.doQueryInput l tag who i).rx = s.rx := rfl
@[simp] theorem State.doQueryInput_ports (l : LaneId) (tag : Byte) (who : Party) (i : Input) (s : State) :
    (s.doQueryInput l tag who i).ports = s.ports := rfl
@[simp] theorem State.doQueryInput_streams (l : LaneId) (tag : Byte) (who : Party) (i : Input) (s : State) :
    (s.doQueryInput l tag who i).streams = s.streams := rfl
@[simp] theorem State.doQueryInput_entries (l : LaneId) (tag : Byte) (who : Party) (i : Input) (s : State) :
    (s.doQueryInput l tag who i).entries = s.entries := rfl
@[simp] theorem State.doQueryInput_own (l : LaneId) (tag : Byte) (who : Party) (i : Input) (s : State) :
    (s.doQueryInput l tag who i).own = s.own := rfl
@[simp] theorem State.doQueryInput_moves (l : LaneId) (tag : Byte) (who : Party) (i : Input) (s : State) :
    (s.doQueryInput l tag who i).moves = s.moves := rfl
@[simp] theorem State.doQueryInput_phantoms (l : LaneId) (tag : Byte) (who : Party) (i : Input) (s : State) :
    (s.doQueryInput l tag who i).phantoms = s.phantoms := rfl
@[simp] theorem State.doQueryInput_bus (l : LaneId) (tag : Byte) (who : Party) (i : Input) (s : State) :
    (s.doQueryInput l tag who i).bus = s.bus := rfl
@[simp] theorem State.doQueryInput_restart (l : LaneId) (tag : Byte) (who : Party) (i : Input) (s : State) :
    (s.doQueryInput l tag who i).restart = s.restart := rfl
@[simp] theorem State.doQueryInput_clock (l : LaneId) (tag : Byte) (who : Party) (i : Input) (s : State) :
    (s.doQueryInput l tag who i).clock = s.clock := rfl
@[simp] theorem State.doQueryInput_draws (l : LaneId) (tag : Byte) (who : Party) (i : Input) (s : State) :
    (s.doQueryInput l tag who i).draws = s.draws := rfl

/-! `State.doQueryLink` -/

@[simp] theorem State.doQueryLink_pending (l : LaneId) (tag : Byte) (p : Port) (clear : Bool) (s : State) :
    (s.doQueryLink l tag p clear).pending = s.pending := by
  unfold State.doQueryLink
  split <;> simp
@[simp] theorem State.doQueryLink_rate (l : LaneId) (tag : Byte) (p : Port) (clear : Bool) (s : State) :
    (s.doQueryLink l tag p clear).rate = s.rate := by
  unfold State.doQueryLink
  split <;> simp
@[simp] theorem State.doQueryLink_align (l : LaneId) (tag : Byte) (p : Port) (clear : Bool) (s : State) :
    (s.doQueryLink l tag p clear).align = s.align := by
  unfold State.doQueryLink
  split <;> simp
@[simp] theorem State.doQueryLink_rx (l : LaneId) (tag : Byte) (p : Port) (clear : Bool) (s : State) :
    (s.doQueryLink l tag p clear).rx = s.rx := by
  unfold State.doQueryLink
  split <;> simp
@[simp] theorem State.doQueryLink_streams (l : LaneId) (tag : Byte) (p : Port) (clear : Bool) (s : State) :
    (s.doQueryLink l tag p clear).streams = s.streams := by
  unfold State.doQueryLink
  split <;> simp
@[simp] theorem State.doQueryLink_entries (l : LaneId) (tag : Byte) (p : Port) (clear : Bool) (s : State) :
    (s.doQueryLink l tag p clear).entries = s.entries := by
  unfold State.doQueryLink
  split <;> simp
@[simp] theorem State.doQueryLink_pairs (l : LaneId) (tag : Byte) (p : Port) (clear : Bool) (s : State) :
    (s.doQueryLink l tag p clear).pairs = s.pairs := by
  unfold State.doQueryLink
  split <;> simp
@[simp] theorem State.doQueryLink_own (l : LaneId) (tag : Byte) (p : Port) (clear : Bool) (s : State) :
    (s.doQueryLink l tag p clear).own = s.own := by
  unfold State.doQueryLink
  split <;> simp
@[simp] theorem State.doQueryLink_moves (l : LaneId) (tag : Byte) (p : Port) (clear : Bool) (s : State) :
    (s.doQueryLink l tag p clear).moves = s.moves := by
  unfold State.doQueryLink
  split <;> simp
@[simp] theorem State.doQueryLink_phantoms (l : LaneId) (tag : Byte) (p : Port) (clear : Bool) (s : State) :
    (s.doQueryLink l tag p clear).phantoms = s.phantoms := by
  unfold State.doQueryLink
  split <;> simp
@[simp] theorem State.doQueryLink_bus (l : LaneId) (tag : Byte) (p : Port) (clear : Bool) (s : State) :
    (s.doQueryLink l tag p clear).bus = s.bus := by
  unfold State.doQueryLink
  split <;> simp
@[simp] theorem State.doQueryLink_restart (l : LaneId) (tag : Byte) (p : Port) (clear : Bool) (s : State) :
    (s.doQueryLink l tag p clear).restart = s.restart := by
  unfold State.doQueryLink
  split <;> simp
@[simp] theorem State.doQueryLink_clock (l : LaneId) (tag : Byte) (p : Port) (clear : Bool) (s : State) :
    (s.doQueryLink l tag p clear).clock = s.clock := by
  unfold State.doQueryLink
  split <;> simp
@[simp] theorem State.doQueryLink_draws (l : LaneId) (tag : Byte) (p : Port) (clear : Bool) (s : State) :
    (s.doQueryLink l tag p clear).draws = s.draws := by
  unfold State.doQueryLink
  split <;> simp

/-! `State.doQueryLane` -/

@[simp] theorem State.doQueryLane_pending (l : LaneId) (tag : Byte) (n : LaneId) (clear : Bool) (s : State) :
    (s.doQueryLane l tag n clear).pending = s.pending := by
  unfold State.doQueryLane
  split <;> simp
@[simp] theorem State.doQueryLane_rate (l : LaneId) (tag : Byte) (n : LaneId) (clear : Bool) (s : State) :
    (s.doQueryLane l tag n clear).rate = s.rate := by
  unfold State.doQueryLane
  split <;> simp
@[simp] theorem State.doQueryLane_align (l : LaneId) (tag : Byte) (n : LaneId) (clear : Bool) (s : State) :
    (s.doQueryLane l tag n clear).align = s.align := by
  unfold State.doQueryLane
  split <;> simp
@[simp] theorem State.doQueryLane_ports (l : LaneId) (tag : Byte) (n : LaneId) (clear : Bool) (s : State) :
    (s.doQueryLane l tag n clear).ports = s.ports := by
  unfold State.doQueryLane
  split <;> simp
@[simp] theorem State.doQueryLane_streams (l : LaneId) (tag : Byte) (n : LaneId) (clear : Bool) (s : State) :
    (s.doQueryLane l tag n clear).streams = s.streams := by
  unfold State.doQueryLane
  split <;> simp
@[simp] theorem State.doQueryLane_entries (l : LaneId) (tag : Byte) (n : LaneId) (clear : Bool) (s : State) :
    (s.doQueryLane l tag n clear).entries = s.entries := by
  unfold State.doQueryLane
  split <;> simp
@[simp] theorem State.doQueryLane_pairs (l : LaneId) (tag : Byte) (n : LaneId) (clear : Bool) (s : State) :
    (s.doQueryLane l tag n clear).pairs = s.pairs := by
  unfold State.doQueryLane
  split <;> simp
@[simp] theorem State.doQueryLane_own (l : LaneId) (tag : Byte) (n : LaneId) (clear : Bool) (s : State) :
    (s.doQueryLane l tag n clear).own = s.own := by
  unfold State.doQueryLane
  split <;> simp
@[simp] theorem State.doQueryLane_moves (l : LaneId) (tag : Byte) (n : LaneId) (clear : Bool) (s : State) :
    (s.doQueryLane l tag n clear).moves = s.moves := by
  unfold State.doQueryLane
  split <;> simp
@[simp] theorem State.doQueryLane_phantoms (l : LaneId) (tag : Byte) (n : LaneId) (clear : Bool) (s : State) :
    (s.doQueryLane l tag n clear).phantoms = s.phantoms := by
  unfold State.doQueryLane
  split <;> simp
@[simp] theorem State.doQueryLane_bus (l : LaneId) (tag : Byte) (n : LaneId) (clear : Bool) (s : State) :
    (s.doQueryLane l tag n clear).bus = s.bus := by
  unfold State.doQueryLane
  split <;> simp
@[simp] theorem State.doQueryLane_restart (l : LaneId) (tag : Byte) (n : LaneId) (clear : Bool) (s : State) :
    (s.doQueryLane l tag n clear).restart = s.restart := by
  unfold State.doQueryLane
  split <;> simp
@[simp] theorem State.doQueryLane_clock (l : LaneId) (tag : Byte) (n : LaneId) (clear : Bool) (s : State) :
    (s.doQueryLane l tag n clear).clock = s.clock := by
  unfold State.doQueryLane
  split <;> simp
@[simp] theorem State.doQueryLane_draws (l : LaneId) (tag : Byte) (n : LaneId) (clear : Bool) (s : State) :
    (s.doQueryLane l tag n clear).draws = s.draws := by
  unfold State.doQueryLane
  split <;> simp

/-! `State.doQueryConsumer` -/

@[simp] theorem State.doQueryConsumer_pending (l : LaneId) (tag index : Byte) (s : State) :
    (s.doQueryConsumer l tag index).pending = s.pending := rfl
@[simp] theorem State.doQueryConsumer_rate (l : LaneId) (tag index : Byte) (s : State) :
    (s.doQueryConsumer l tag index).rate = s.rate := rfl
@[simp] theorem State.doQueryConsumer_align (l : LaneId) (tag index : Byte) (s : State) :
    (s.doQueryConsumer l tag index).align = s.align := rfl
@[simp] theorem State.doQueryConsumer_rx (l : LaneId) (tag index : Byte) (s : State) :
    (s.doQueryConsumer l tag index).rx = s.rx := rfl
@[simp] theorem State.doQueryConsumer_ports (l : LaneId) (tag index : Byte) (s : State) :
    (s.doQueryConsumer l tag index).ports = s.ports := rfl
@[simp] theorem State.doQueryConsumer_streams (l : LaneId) (tag index : Byte) (s : State) :
    (s.doQueryConsumer l tag index).streams = s.streams := rfl
@[simp] theorem State.doQueryConsumer_entries (l : LaneId) (tag index : Byte) (s : State) :
    (s.doQueryConsumer l tag index).entries = s.entries := rfl
@[simp] theorem State.doQueryConsumer_pairs (l : LaneId) (tag index : Byte) (s : State) :
    (s.doQueryConsumer l tag index).pairs = s.pairs := rfl
@[simp] theorem State.doQueryConsumer_own (l : LaneId) (tag index : Byte) (s : State) :
    (s.doQueryConsumer l tag index).own = s.own := rfl
@[simp] theorem State.doQueryConsumer_moves (l : LaneId) (tag index : Byte) (s : State) :
    (s.doQueryConsumer l tag index).moves = s.moves := rfl
@[simp] theorem State.doQueryConsumer_phantoms (l : LaneId) (tag index : Byte) (s : State) :
    (s.doQueryConsumer l tag index).phantoms = s.phantoms := rfl
@[simp] theorem State.doQueryConsumer_bus (l : LaneId) (tag index : Byte) (s : State) :
    (s.doQueryConsumer l tag index).bus = s.bus := rfl
@[simp] theorem State.doQueryConsumer_restart (l : LaneId) (tag index : Byte) (s : State) :
    (s.doQueryConsumer l tag index).restart = s.restart := rfl
@[simp] theorem State.doQueryConsumer_clock (l : LaneId) (tag index : Byte) (s : State) :
    (s.doQueryConsumer l tag index).clock = s.clock := rfl
@[simp] theorem State.doQueryConsumer_draws (l : LaneId) (tag index : Byte) (s : State) :
    (s.doQueryConsumer l tag index).draws = s.draws := rfl

/-! `State.doLock` -/

@[simp] theorem State.doLock_pending (l : LaneId) (tag : Byte) (i : Input) (on : Bool) (s : State) :
    (s.doLock l tag i on).pending = s.pending := rfl
@[simp] theorem State.doLock_rate (l : LaneId) (tag : Byte) (i : Input) (on : Bool) (s : State) :
    (s.doLock l tag i on).rate = s.rate := rfl
@[simp] theorem State.doLock_align (l : LaneId) (tag : Byte) (i : Input) (on : Bool) (s : State) :
    (s.doLock l tag i on).align = s.align := rfl
@[simp] theorem State.doLock_rx (l : LaneId) (tag : Byte) (i : Input) (on : Bool) (s : State) :
    (s.doLock l tag i on).rx = s.rx := rfl
@[simp] theorem State.doLock_ports (l : LaneId) (tag : Byte) (i : Input) (on : Bool) (s : State) :
    (s.doLock l tag i on).ports = s.ports := rfl
@[simp] theorem State.doLock_streams (l : LaneId) (tag : Byte) (i : Input) (on : Bool) (s : State) :
    (s.doLock l tag i on).streams = s.streams := rfl
@[simp] theorem State.doLock_entries (l : LaneId) (tag : Byte) (i : Input) (on : Bool) (s : State) :
    (s.doLock l tag i on).entries = s.entries := rfl
@[simp] theorem State.doLock_pairs (l : LaneId) (tag : Byte) (i : Input) (on : Bool) (s : State) :
    (s.doLock l tag i on).pairs = s.pairs := rfl
@[simp] theorem State.doLock_moves (l : LaneId) (tag : Byte) (i : Input) (on : Bool) (s : State) :
    (s.doLock l tag i on).moves = s.moves := rfl
@[simp] theorem State.doLock_phantoms (l : LaneId) (tag : Byte) (i : Input) (on : Bool) (s : State) :
    (s.doLock l tag i on).phantoms = s.phantoms := rfl
@[simp] theorem State.doLock_bus (l : LaneId) (tag : Byte) (i : Input) (on : Bool) (s : State) :
    (s.doLock l tag i on).bus = s.bus := rfl
@[simp] theorem State.doLock_restart (l : LaneId) (tag : Byte) (i : Input) (on : Bool) (s : State) :
    (s.doLock l tag i on).restart = s.restart := rfl
@[simp] theorem State.doLock_clock (l : LaneId) (tag : Byte) (i : Input) (on : Bool) (s : State) :
    (s.doLock l tag i on).clock = s.clock := rfl
@[simp] theorem State.doLock_draws (l : LaneId) (tag : Byte) (i : Input) (on : Bool) (s : State) :
    (s.doLock l tag i on).draws = s.draws := rfl

/-! `State.doForce` -/

@[simp] theorem State.doForce_pending (l : LaneId) (tag : Byte) (i : Input) (s : State) :
    (s.doForce l tag i).pending = s.pending := by
  unfold State.doForce
  split <;> simp
@[simp] theorem State.doForce_rate (l : LaneId) (tag : Byte) (i : Input) (s : State) :
    (s.doForce l tag i).rate = s.rate := by
  unfold State.doForce
  split <;> simp
@[simp] theorem State.doForce_align (l : LaneId) (tag : Byte) (i : Input) (s : State) :
    (s.doForce l tag i).align = s.align := by
  unfold State.doForce
  split <;> simp
@[simp] theorem State.doForce_rx (l : LaneId) (tag : Byte) (i : Input) (s : State) : (s.doForce l tag i).rx = s.rx := by
  unfold State.doForce
  split <;> simp
@[simp] theorem State.doForce_ports (l : LaneId) (tag : Byte) (i : Input) (s : State) :
    (s.doForce l tag i).ports = s.ports := by
  unfold State.doForce
  split <;> simp
@[simp] theorem State.doForce_streams (l : LaneId) (tag : Byte) (i : Input) (s : State) :
    (s.doForce l tag i).streams = s.streams := by
  unfold State.doForce
  split <;> simp
@[simp] theorem State.doForce_entries (l : LaneId) (tag : Byte) (i : Input) (s : State) :
    (s.doForce l tag i).entries = s.entries := by
  unfold State.doForce
  split <;> simp
@[simp] theorem State.doForce_pairs (l : LaneId) (tag : Byte) (i : Input) (s : State) :
    (s.doForce l tag i).pairs = s.pairs := by
  unfold State.doForce
  split <;> simp
@[simp] theorem State.doForce_phantoms (l : LaneId) (tag : Byte) (i : Input) (s : State) :
    (s.doForce l tag i).phantoms = s.phantoms := by
  unfold State.doForce
  split <;> simp
@[simp] theorem State.doForce_restart (l : LaneId) (tag : Byte) (i : Input) (s : State) :
    (s.doForce l tag i).restart = s.restart := by
  unfold State.doForce
  split <;> simp
@[simp] theorem State.doForce_clock (l : LaneId) (tag : Byte) (i : Input) (s : State) :
    (s.doForce l tag i).clock = s.clock := by
  unfold State.doForce
  split <;> simp
@[simp] theorem State.doForce_draws (l : LaneId) (tag : Byte) (i : Input) (s : State) :
    (s.doForce l tag i).draws = s.draws := by
  unfold State.doForce
  split <;> simp

/-! `State.restPairs` -/

@[simp] theorem State.restPairs_pending (s : State) : (s.restPairs).pending = s.pending := rfl
@[simp] theorem State.restPairs_rate (s : State) : (s.restPairs).rate = s.rate := rfl
@[simp] theorem State.restPairs_align (s : State) : (s.restPairs).align = s.align := rfl
@[simp] theorem State.restPairs_rx (s : State) : (s.restPairs).rx = s.rx := rfl
@[simp] theorem State.restPairs_ports (s : State) : (s.restPairs).ports = s.ports := rfl
@[simp] theorem State.restPairs_streams (s : State) : (s.restPairs).streams = s.streams := rfl
@[simp] theorem State.restPairs_entries (s : State) : (s.restPairs).entries = s.entries := rfl
@[simp] theorem State.restPairs_own (s : State) : (s.restPairs).own = s.own := rfl
@[simp] theorem State.restPairs_moves (s : State) : (s.restPairs).moves = s.moves := rfl
@[simp] theorem State.restPairs_phantoms (s : State) : (s.restPairs).phantoms = s.phantoms := rfl
@[simp] theorem State.restPairs_bus (s : State) : (s.restPairs).bus = s.bus := rfl
@[simp] theorem State.restPairs_restart (s : State) : (s.restPairs).restart = s.restart := rfl
@[simp] theorem State.restPairs_clock (s : State) : (s.restPairs).clock = s.clock := rfl
@[simp] theorem State.restPairs_draws (s : State) : (s.restPairs).draws = s.draws := rfl

/-! `State.holdLivePorts` -/

@[simp] theorem State.holdLivePorts_pending (s : State) : (s.holdLivePorts).pending = s.pending := by
  unfold State.holdLivePorts
  refine foldl_keeps _ State.pending (fun s a => ?_) _ _
  split <;> simp
@[simp] theorem State.holdLivePorts_rate (s : State) : (s.holdLivePorts).rate = s.rate := by
  unfold State.holdLivePorts
  refine foldl_keeps _ State.rate (fun s a => ?_) _ _
  split <;> simp
@[simp] theorem State.holdLivePorts_align (s : State) : (s.holdLivePorts).align = s.align := by
  unfold State.holdLivePorts
  refine foldl_keeps _ State.align (fun s a => ?_) _ _
  split <;> simp
@[simp] theorem State.holdLivePorts_pairs (s : State) : (s.holdLivePorts).pairs = s.pairs := by
  unfold State.holdLivePorts
  refine foldl_keeps _ State.pairs (fun s a => ?_) _ _
  split <;> simp
@[simp] theorem State.holdLivePorts_moves (s : State) : (s.holdLivePorts).moves = s.moves := by
  unfold State.holdLivePorts
  refine foldl_keeps _ State.moves (fun s a => ?_) _ _
  split <;> simp
@[simp] theorem State.holdLivePorts_phantoms (s : State) : (s.holdLivePorts).phantoms = s.phantoms := by
  unfold State.holdLivePorts
  refine foldl_keeps _ State.phantoms (fun s a => ?_) _ _
  split <;> simp
@[simp] theorem State.holdLivePorts_bus (s : State) : (s.holdLivePorts).bus = s.bus := by
  unfold State.holdLivePorts
  refine foldl_keeps _ State.bus (fun s a => ?_) _ _
  split <;> simp
@[simp] theorem State.holdLivePorts_restart (s : State) : (s.holdLivePorts).restart = s.restart := by
  unfold State.holdLivePorts
  refine foldl_keeps _ State.restart (fun s a => ?_) _ _
  split <;> simp
@[simp] theorem State.holdLivePorts_clock (s : State) : (s.holdLivePorts).clock = s.clock := by
  unfold State.holdLivePorts
  refine foldl_keeps _ State.clock (fun s a => ?_) _ _
  split <;> simp
@[simp] theorem State.holdLivePorts_draws (s : State) : (s.holdLivePorts).draws = s.draws := by
  unfold State.holdLivePorts
  refine foldl_keeps _ State.draws (fun s a => ?_) _ _
  split <;> simp

/-! `State.changeRate` -/

@[simp] theorem State.changeRate_pending (r : BoxRate) (s : State) : (s.changeRate r).pending = s.pending := by
  simp [State.changeRate]
@[simp] theorem State.changeRate_align (r : BoxRate) (s : State) : (s.changeRate r).align = s.align := by
  simp [State.changeRate]
@[simp] theorem State.changeRate_moves (r : BoxRate) (s : State) : (s.changeRate r).moves = s.moves := by
  simp [State.changeRate]
@[simp] theorem State.changeRate_phantoms (r : BoxRate) (s : State) : (s.changeRate r).phantoms = s.phantoms := by
  simp [State.changeRate]
@[simp] theorem State.changeRate_bus (r : BoxRate) (s : State) : (s.changeRate r).bus = s.bus := by
  simp [State.changeRate]
@[simp] theorem State.changeRate_restart (r : BoxRate) (s : State) : (s.changeRate r).restart = s.restart := by
  simp [State.changeRate]
@[simp] theorem State.changeRate_clock (r : BoxRate) (s : State) : (s.changeRate r).clock = s.clock := by
  simp [State.changeRate]
@[simp] theorem State.changeRate_draws (r : BoxRate) (s : State) : (s.changeRate r).draws = s.draws := by
  simp [State.changeRate]

/-! `State.doSetRate` -/

@[simp] theorem State.doSetRate_pending (l : LaneId) (tag : Byte) (r : BoxRate) (s : State) :
    (s.doSetRate l tag r).pending = s.pending := by
  unfold State.doSetRate
  split <;> (try split) <;> simp
@[simp] theorem State.doSetRate_align (l : LaneId) (tag : Byte) (r : BoxRate) (s : State) :
    (s.doSetRate l tag r).align = s.align := by
  unfold State.doSetRate
  split <;> (try split) <;> simp
@[simp] theorem State.doSetRate_moves (l : LaneId) (tag : Byte) (r : BoxRate) (s : State) :
    (s.doSetRate l tag r).moves = s.moves := by
  unfold State.doSetRate
  split <;> (try split) <;> simp
@[simp] theorem State.doSetRate_phantoms (l : LaneId) (tag : Byte) (r : BoxRate) (s : State) :
    (s.doSetRate l tag r).phantoms = s.phantoms := by
  unfold State.doSetRate
  split <;> (try split) <;> simp
@[simp] theorem State.doSetRate_bus (l : LaneId) (tag : Byte) (r : BoxRate) (s : State) :
    (s.doSetRate l tag r).bus = s.bus := by
  unfold State.doSetRate
  split <;> (try split) <;> simp
@[simp] theorem State.doSetRate_restart (l : LaneId) (tag : Byte) (r : BoxRate) (s : State) :
    (s.doSetRate l tag r).restart = s.restart := by
  unfold State.doSetRate
  split <;> (try split) <;> simp
@[simp] theorem State.doSetRate_clock (l : LaneId) (tag : Byte) (r : BoxRate) (s : State) :
    (s.doSetRate l tag r).clock = s.clock := by
  unfold State.doSetRate
  split <;> (try split) <;> simp
@[simp] theorem State.doSetRate_draws (l : LaneId) (tag : Byte) (r : BoxRate) (s : State) :
    (s.doSetRate l tag r).draws = s.draws := by
  unfold State.doSetRate
  split <;> (try split) <;> simp

/-! `State.doSetAlign` -/

@[simp] theorem State.doSetAlign_pending (l : LaneId) (tag : Byte) (d : Nat) (s : State) :
    (s.doSetAlign l tag d).pending = s.pending := rfl
@[simp] theorem State.doSetAlign_rate (l : LaneId) (tag : Byte) (d : Nat) (s : State) :
    (s.doSetAlign l tag d).rate = s.rate := rfl
@[simp] theorem State.doSetAlign_rx (l : LaneId) (tag : Byte) (d : Nat) (s : State) :
    (s.doSetAlign l tag d).rx = s.rx := rfl
@[simp] theorem State.doSetAlign_ports (l : LaneId) (tag : Byte) (d : Nat) (s : State) :
    (s.doSetAlign l tag d).ports = s.ports := rfl
@[simp] theorem State.doSetAlign_streams (l : LaneId) (tag : Byte) (d : Nat) (s : State) :
    (s.doSetAlign l tag d).streams = s.streams := rfl
@[simp] theorem State.doSetAlign_entries (l : LaneId) (tag : Byte) (d : Nat) (s : State) :
    (s.doSetAlign l tag d).entries = s.entries := rfl
@[simp] theorem State.doSetAlign_pairs (l : LaneId) (tag : Byte) (d : Nat) (s : State) :
    (s.doSetAlign l tag d).pairs = s.pairs := rfl
@[simp] theorem State.doSetAlign_own (l : LaneId) (tag : Byte) (d : Nat) (s : State) :
    (s.doSetAlign l tag d).own = s.own := rfl
@[simp] theorem State.doSetAlign_moves (l : LaneId) (tag : Byte) (d : Nat) (s : State) :
    (s.doSetAlign l tag d).moves = s.moves := rfl
@[simp] theorem State.doSetAlign_phantoms (l : LaneId) (tag : Byte) (d : Nat) (s : State) :
    (s.doSetAlign l tag d).phantoms = s.phantoms := rfl
@[simp] theorem State.doSetAlign_bus (l : LaneId) (tag : Byte) (d : Nat) (s : State) :
    (s.doSetAlign l tag d).bus = s.bus := rfl
@[simp] theorem State.doSetAlign_restart (l : LaneId) (tag : Byte) (d : Nat) (s : State) :
    (s.doSetAlign l tag d).restart = s.restart := rfl
@[simp] theorem State.doSetAlign_clock (l : LaneId) (tag : Byte) (d : Nat) (s : State) :
    (s.doSetAlign l tag d).clock = s.clock := rfl
@[simp] theorem State.doSetAlign_draws (l : LaneId) (tag : Byte) (d : Nat) (s : State) :
    (s.doSetAlign l tag d).draws = s.draws := rfl

/-! `State.doResetPort` -/

@[simp] theorem State.doResetPort_pending (l : LaneId) (tag : Byte) (p : Port) (s : State) :
    (s.doResetPort l tag p).pending = s.pending := by
  unfold State.doResetPort
  split <;> simp
@[simp] theorem State.doResetPort_rate (l : LaneId) (tag : Byte) (p : Port) (s : State) :
    (s.doResetPort l tag p).rate = s.rate := by
  unfold State.doResetPort
  split <;> simp
@[simp] theorem State.doResetPort_align (l : LaneId) (tag : Byte) (p : Port) (s : State) :
    (s.doResetPort l tag p).align = s.align := by
  unfold State.doResetPort
  split <;> simp
@[simp] theorem State.doResetPort_pairs (l : LaneId) (tag : Byte) (p : Port) (s : State) :
    (s.doResetPort l tag p).pairs = s.pairs := by
  unfold State.doResetPort
  split <;> simp
@[simp] theorem State.doResetPort_moves (l : LaneId) (tag : Byte) (p : Port) (s : State) :
    (s.doResetPort l tag p).moves = s.moves := by
  unfold State.doResetPort
  split <;> simp
@[simp] theorem State.doResetPort_phantoms (l : LaneId) (tag : Byte) (p : Port) (s : State) :
    (s.doResetPort l tag p).phantoms = s.phantoms := by
  unfold State.doResetPort
  split <;> simp
@[simp] theorem State.doResetPort_bus (l : LaneId) (tag : Byte) (p : Port) (s : State) :
    (s.doResetPort l tag p).bus = s.bus := by
  unfold State.doResetPort
  split <;> simp
@[simp] theorem State.doResetPort_restart (l : LaneId) (tag : Byte) (p : Port) (s : State) :
    (s.doResetPort l tag p).restart = s.restart := by
  unfold State.doResetPort
  split <;> simp
@[simp] theorem State.doResetPort_clock (l : LaneId) (tag : Byte) (p : Port) (s : State) :
    (s.doResetPort l tag p).clock = s.clock := by
  unfold State.doResetPort
  split <;> simp
@[simp] theorem State.doResetPort_draws (l : LaneId) (tag : Byte) (p : Port) (s : State) :
    (s.doResetPort l tag p).draws = s.draws := by
  unfold State.doResetPort
  split <;> simp

/-! `State.doRestart` -/

@[simp] theorem State.doRestart_pending (l : LaneId) (tag : Byte) (s : State) :
    (s.doRestart l tag).pending = s.pending := rfl
@[simp] theorem State.doRestart_rate (l : LaneId) (tag : Byte) (s : State) : (s.doRestart l tag).rate = s.rate := rfl
@[simp] theorem State.doRestart_align (l : LaneId) (tag : Byte) (s : State) : (s.doRestart l tag).align = s.align := rfl
@[simp] theorem State.doRestart_rx (l : LaneId) (tag : Byte) (s : State) : (s.doRestart l tag).rx = s.rx := rfl
@[simp] theorem State.doRestart_ports (l : LaneId) (tag : Byte) (s : State) : (s.doRestart l tag).ports = s.ports := rfl
@[simp] theorem State.doRestart_streams (l : LaneId) (tag : Byte) (s : State) :
    (s.doRestart l tag).streams = s.streams := rfl
@[simp] theorem State.doRestart_entries (l : LaneId) (tag : Byte) (s : State) :
    (s.doRestart l tag).entries = s.entries := rfl
@[simp] theorem State.doRestart_pairs (l : LaneId) (tag : Byte) (s : State) : (s.doRestart l tag).pairs = s.pairs := rfl
@[simp] theorem State.doRestart_own (l : LaneId) (tag : Byte) (s : State) : (s.doRestart l tag).own = s.own := rfl
@[simp] theorem State.doRestart_moves (l : LaneId) (tag : Byte) (s : State) : (s.doRestart l tag).moves = s.moves := rfl
@[simp] theorem State.doRestart_phantoms (l : LaneId) (tag : Byte) (s : State) :
    (s.doRestart l tag).phantoms = s.phantoms := rfl
@[simp] theorem State.doRestart_bus (l : LaneId) (tag : Byte) (s : State) : (s.doRestart l tag).bus = s.bus := rfl
@[simp] theorem State.doRestart_clock (l : LaneId) (tag : Byte) (s : State) : (s.doRestart l tag).clock = s.clock := rfl
@[simp] theorem State.doRestart_draws (l : LaneId) (tag : Byte) (s : State) : (s.doRestart l tag).draws = s.draws := rfl

/-- A request with an input field keeps what its refusal and its body keep. -/
theorem State.withInput_inv (P : State → Prop) (hr : ∀ l body (s : State), P s → P (s.send l body)) {l : LaneId}
    {tag : Byte} {k : RequestKind} {b : Byte} {f : Input → State → State} (h : ∀ i s, P s → P (f i s)) {s : State}
    (hs : P s) : P (s.withInput l tag k b f) := by
  unfold State.withInput
  split
  · exact hr _ _ _ hs
  · exact h _ _ hs

/-- A request with a switch field keeps what its refusal and its body keep. -/
theorem State.withSwitch_inv (P : State → Prop) (hr : ∀ l body (s : State), P s → P (s.send l body)) {l : LaneId}
    {tag : Byte} {k : RequestKind} {b : Byte} {f : Bool → State → State} (h : ∀ on s, P s → P (f on s)) {s : State}
    (hs : P s) : P (s.withSwitch l tag k b f) := by
  unfold State.withSwitch
  split
  · exact hr _ _ _ hs
  · exact h _ _ hs

/-- What every refusal and every request's own actions keep, the order of checks from step 6 on keeps. -/
theorem State.runRequest_inv (P : State → Prop) (who : Party)
    (hr : ∀ l body (s : State), P s → P (s.send l body))
    (hLevel : ∀ l tag i field (s : State), P s → P (s.doLevel l tag who i field))
    (hMute : ∀ l tag i on (s : State), P s → P (s.doMute l tag who i on))
    (hMap : ∀ l tag list (s : State), P s → P (s.doMap l tag who list))
    (hTake : ∀ l tag i (s : State), P s → P (s.doTake l tag who i))
    (hRelease : ∀ l tag i (s : State), P s → P (s.doRelease l tag who i))
    (hPad : ∀ l tag i on (s : State), P s → P (s.doPad l tag who i on))
    (hPhantom : ∀ l tag i on (s : State), P s → P (s.doPhantom l tag who i on))
    (hQueryInput : ∀ l tag i (s : State), P s → P (s.doQueryInput l tag who i))
    (hQueryLink : ∀ l tag p clear (s : State), P s → P (s.doQueryLink l tag p clear))
    (hQueryLane : ∀ l tag n clear (s : State), P s → P (s.doQueryLane l tag n clear))
    (hLock : ∀ l tag i on (s : State), P s → P (s.doLock l tag i on))
    (hForce : ∀ l tag i (s : State), P s → P (s.doForce l tag i))
    (hSetRate : ∀ l tag r (s : State), P s → P (s.doSetRate l tag r))
    (hSetAlign : ∀ l tag d (s : State), P s → P (s.doSetAlign l tag d))
    (hResetPort : ∀ l tag p (s : State), P s → P (s.doResetPort l tag p))
    (hRestart : ∀ l tag (s : State), P s → P (s.doRestart l tag))
    (l : LaneId) (tag : Byte) (k : RequestKind) (fields : List Byte) (s : State) (hs : P s) :
    P (s.runRequest l tag who k fields) := by
  cases k
  · show P (s.runLevel l tag who fields)
    unfold State.runLevel; split
    · exact State.withInput_inv P hr (fun i s => hLevel _ _ i _ s) hs
    · exact hs
  · show P (s.runMute l tag who fields)
    unfold State.runMute; split
    · exact State.withInput_inv P hr (fun i s => State.withSwitch_inv P hr fun on s => hMute _ _ i on s) hs
    · exact hs
  · show P (s.runMap l tag who fields)
    unfold State.runMap; split
    · exact hr _ _ _ hs
    · split
      · exact hMap _ _ _ _ hs
      · exact hr _ _ _ hs
  · show P (s.runTake l tag who fields)
    unfold State.runTake; split
    · exact State.withInput_inv P hr (fun i s => hTake _ _ i s) hs
    · exact hs
  · show P (s.runRelease l tag who fields)
    unfold State.runRelease; split
    · exact State.withInput_inv P hr (fun i s => hRelease _ _ i s) hs
    · exact hs
  · show P (s.runPad l tag who fields)
    unfold State.runPad; split
    · exact State.withInput_inv P hr (fun i s => State.withSwitch_inv P hr fun on s => hPad _ _ i on s) hs
    · exact hs
  · show P (s.runPhantom l tag who fields)
    unfold State.runPhantom; split
    · exact State.withInput_inv P hr (fun i s => State.withSwitch_inv P hr fun on s => hPhantom _ _ i on s) hs
    · exact hs
  · show P (s.runQueryInput l tag who fields)
    unfold State.runQueryInput; split
    · exact State.withInput_inv P hr (fun i s => hQueryInput _ _ i s) hs
    · exact hs
  · show P (s.runQueryLink l tag fields)
    unfold State.runQueryLink; split
    · split
      · exact hr _ _ _ hs
      · exact State.withSwitch_inv P hr (fun c s => hQueryLink _ _ _ c s) hs
    · exact hs
  · show P (s.runQueryLane l tag fields)
    unfold State.runQueryLane; split
    · split
      · exact hr _ _ _ hs
      · exact State.withSwitch_inv P hr (fun c s => hQueryLane _ _ _ c s) hs
    · exact hs
  · show P (s.runQueryConsumer l tag fields)
    unfold State.runQueryConsumer; split
    · split <;> exact hr _ _ _ hs
    · exact hs
  · show P (s.runLock l tag fields)
    unfold State.runLock; split
    · exact State.withInput_inv P hr (fun i s => State.withSwitch_inv P hr fun on s => hLock _ _ i on s) hs
    · exact hs
  · show P (s.runForce l tag fields)
    unfold State.runForce; split
    · exact State.withInput_inv P hr (fun i s => hForce _ _ i s) hs
    · exact hs
  · show P (s.runSetRate l tag fields)
    unfold State.runSetRate; split
    · split
      · exact hr _ _ _ hs
      · exact hSetRate _ _ _ _ hs
    · exact hs
  · show P (s.runSetAlign l tag fields)
    unfold State.runSetAlign; split
    · exact hSetAlign _ _ _ _ hs
    · exact hs
  · show P (s.runResetPort l tag fields)
    unfold State.runResetPort; split
    · split
      · exact hr _ _ _ hs
      · exact hResetPort _ _ _ _ hs
    · exact hs
  · show P (s.runRestart l tag fields)
    unfold State.runRestart; split
    · exact hRestart _ _ _ hs
    · exact hs



/-! `State.runRequest` -/

@[simp] theorem State.runRequest_pending (l : LaneId) (tag : Byte) (k : RequestKind) (fields : List Byte) (s : State) :
    (s.runRequest l tag who k fields).pending = s.pending := by
  apply State.runRequest_inv (fun t => t.pending = s.pending) <;> (intros; simp_all)
@[simp] theorem State.runRequest_clock (l : LaneId) (tag : Byte) (k : RequestKind) (fields : List Byte) (s : State) :
    (s.runRequest l tag who k fields).clock = s.clock := by
  apply State.runRequest_inv (fun t => t.clock = s.clock) <;> (intros; simp_all)
@[simp] theorem State.runRequest_draws (l : LaneId) (tag : Byte) (k : RequestKind) (fields : List Byte) (s : State) :
    (s.runRequest l tag who k fields).draws = s.draws := by
  apply State.runRequest_inv (fun t => t.draws = s.draws) <;> (intros; simp_all)

/-! `State.checkRequest` -/

@[simp] theorem State.checkRequest_pending (l : LaneId) (kind tag : Byte) (fields : List Byte) (s : State) :
    (s.checkRequest l kind tag fields).pending = s.pending := by
  unfold State.checkRequest
  (repeat' split) <;> simp
@[simp] theorem State.checkRequest_clock (l : LaneId) (kind tag : Byte) (fields : List Byte) (s : State) :
    (s.checkRequest l kind tag fields).clock = s.clock := by
  unfold State.checkRequest
  (repeat' split) <;> simp
@[simp] theorem State.checkRequest_draws (l : LaneId) (kind tag : Byte) (fields : List Byte) (s : State) :
    (s.checkRequest l kind tag fields).draws = s.draws := by
  unfold State.checkRequest
  (repeat' split) <;> simp

/-! `State.ignore` -/

@[simp] theorem State.ignore_pending (l : LaneId) (s : State) : (s.ignore l).pending = s.pending := rfl
@[simp] theorem State.ignore_rate (l : LaneId) (s : State) : (s.ignore l).rate = s.rate := rfl
@[simp] theorem State.ignore_align (l : LaneId) (s : State) : (s.ignore l).align = s.align := rfl
@[simp] theorem State.ignore_comm (l : LaneId) (s : State) : (s.ignore l).comm = s.comm := rfl
@[simp] theorem State.ignore_ports (l : LaneId) (s : State) : (s.ignore l).ports = s.ports := rfl
@[simp] theorem State.ignore_streams (l : LaneId) (s : State) : (s.ignore l).streams = s.streams := rfl
@[simp] theorem State.ignore_entries (l : LaneId) (s : State) : (s.ignore l).entries = s.entries := rfl
@[simp] theorem State.ignore_pairs (l : LaneId) (s : State) : (s.ignore l).pairs = s.pairs := rfl
@[simp] theorem State.ignore_own (l : LaneId) (s : State) : (s.ignore l).own = s.own := rfl
@[simp] theorem State.ignore_moves (l : LaneId) (s : State) : (s.ignore l).moves = s.moves := rfl
@[simp] theorem State.ignore_phantoms (l : LaneId) (s : State) : (s.ignore l).phantoms = s.phantoms := rfl
@[simp] theorem State.ignore_bus (l : LaneId) (s : State) : (s.ignore l).bus = s.bus := rfl
@[simp] theorem State.ignore_restart (l : LaneId) (s : State) : (s.ignore l).restart = s.restart := rfl
@[simp] theorem State.ignore_clock (l : LaneId) (s : State) : (s.ignore l).clock = s.clock := rfl
@[simp] theorem State.ignore_draws (l : LaneId) (s : State) : (s.ignore l).draws = s.draws := rfl

/-! `State.takeOffer` -/

@[simp] theorem State.takeOffer_pending (p : Port) (tag : Byte) (fields : List Byte) (s : State) :
    (s.takeOffer p tag fields).pending = s.pending := by
  unfold State.takeOffer
  split <;> (try split) <;> simp
@[simp] theorem State.takeOffer_rate (p : Port) (tag : Byte) (fields : List Byte) (s : State) :
    (s.takeOffer p tag fields).rate = s.rate := by
  unfold State.takeOffer
  split <;> (try split) <;> simp
@[simp] theorem State.takeOffer_align (p : Port) (tag : Byte) (fields : List Byte) (s : State) :
    (s.takeOffer p tag fields).align = s.align := by
  unfold State.takeOffer
  split <;> (try split) <;> simp
@[simp] theorem State.takeOffer_rx (p : Port) (tag : Byte) (fields : List Byte) (s : State) :
    (s.takeOffer p tag fields).rx = s.rx := by
  unfold State.takeOffer
  split <;> (try split) <;> simp
@[simp] theorem State.takeOffer_pairs (p : Port) (tag : Byte) (fields : List Byte) (s : State) :
    (s.takeOffer p tag fields).pairs = s.pairs := by
  unfold State.takeOffer
  split <;> (try split) <;> simp
@[simp] theorem State.takeOffer_moves (p : Port) (tag : Byte) (fields : List Byte) (s : State) :
    (s.takeOffer p tag fields).moves = s.moves := by
  unfold State.takeOffer
  split <;> (try split) <;> simp
@[simp] theorem State.takeOffer_phantoms (p : Port) (tag : Byte) (fields : List Byte) (s : State) :
    (s.takeOffer p tag fields).phantoms = s.phantoms := by
  unfold State.takeOffer
  split <;> (try split) <;> simp
@[simp] theorem State.takeOffer_bus (p : Port) (tag : Byte) (fields : List Byte) (s : State) :
    (s.takeOffer p tag fields).bus = s.bus := by
  unfold State.takeOffer
  split <;> (try split) <;> simp
@[simp] theorem State.takeOffer_restart (p : Port) (tag : Byte) (fields : List Byte) (s : State) :
    (s.takeOffer p tag fields).restart = s.restart := by
  unfold State.takeOffer
  split <;> (try split) <;> simp
@[simp] theorem State.takeOffer_clock (p : Port) (tag : Byte) (fields : List Byte) (s : State) :
    (s.takeOffer p tag fields).clock = s.clock := by
  unfold State.takeOffer
  split <;> (try split) <;> simp

/-! `State.takeConfirm` -/

@[simp] theorem State.takeConfirm_pending (p : Port) (tag : Byte) (fields : List Byte) (s : State) :
    (s.takeConfirm p tag fields).pending = s.pending := by
  unfold State.takeConfirm
  split <;> simp
@[simp] theorem State.takeConfirm_rate (p : Port) (tag : Byte) (fields : List Byte) (s : State) :
    (s.takeConfirm p tag fields).rate = s.rate := by
  unfold State.takeConfirm
  split <;> simp
@[simp] theorem State.takeConfirm_align (p : Port) (tag : Byte) (fields : List Byte) (s : State) :
    (s.takeConfirm p tag fields).align = s.align := by
  unfold State.takeConfirm
  split <;> simp
@[simp] theorem State.takeConfirm_rx (p : Port) (tag : Byte) (fields : List Byte) (s : State) :
    (s.takeConfirm p tag fields).rx = s.rx := by
  unfold State.takeConfirm
  split <;> simp
@[simp] theorem State.takeConfirm_phantoms (p : Port) (tag : Byte) (fields : List Byte) (s : State) :
    (s.takeConfirm p tag fields).phantoms = s.phantoms := by
  unfold State.takeConfirm
  split <;> simp
@[simp] theorem State.takeConfirm_restart (p : Port) (tag : Byte) (fields : List Byte) (s : State) :
    (s.takeConfirm p tag fields).restart = s.restart := by
  unfold State.takeConfirm
  split <;> simp
@[simp] theorem State.takeConfirm_clock (p : Port) (tag : Byte) (fields : List Byte) (s : State) :
    (s.takeConfirm p tag fields).clock = s.clock := by
  unfold State.takeConfirm
  split <;> simp
@[simp] theorem State.takeConfirm_draws (p : Port) (tag : Byte) (fields : List Byte) (s : State) :
    (s.takeConfirm p tag fields).draws = s.draws := by
  unfold State.takeConfirm
  split <;> simp

/-! `State.takeOnSplit` -/

@[simp] theorem State.takeOnSplit_pending (p : Port) (kind tag : Byte) (fields : List Byte) (s : State) :
    (s.takeOnSplit p kind tag fields).pending = s.pending := by
  unfold State.takeOnSplit
  (repeat' split) <;> simp
@[simp] theorem State.takeOnSplit_clock (p : Port) (kind tag : Byte) (fields : List Byte) (s : State) :
    (s.takeOnSplit p kind tag fields).clock = s.clock := by
  unfold State.takeOnSplit
  (repeat' split) <;> simp

/-! `State.takeRecord` -/

@[simp] theorem State.takeRecord_pending (l : LaneId) (kind tag : Byte) (fields : List Byte) (s : State) :
    (s.takeRecord l kind tag fields).pending = s.pending := by
  unfold State.takeRecord
  split <;> simp
@[simp] theorem State.takeRecord_clock (l : LaneId) (kind tag : Byte) (fields : List Byte) (s : State) :
    (s.takeRecord l kind tag fields).clock = s.clock := by
  unfold State.takeRecord
  split <;> simp

/-! `State.takeMaps` -/

@[simp] theorem State.takeMaps_pending (s : State) : (s.takeMaps).pending = s.pending := rfl
@[simp] theorem State.takeMaps_rate (s : State) : (s.takeMaps).rate = s.rate := rfl
@[simp] theorem State.takeMaps_align (s : State) : (s.takeMaps).align = s.align := rfl
@[simp] theorem State.takeMaps_rx (s : State) : (s.takeMaps).rx = s.rx := rfl
@[simp] theorem State.takeMaps_comm (s : State) : (s.takeMaps).comm = s.comm := rfl
@[simp] theorem State.takeMaps_ports (s : State) : (s.takeMaps).ports = s.ports := rfl
@[simp] theorem State.takeMaps_entries (s : State) : (s.takeMaps).entries = s.entries := rfl
@[simp] theorem State.takeMaps_pairs (s : State) : (s.takeMaps).pairs = s.pairs := rfl
@[simp] theorem State.takeMaps_own (s : State) : (s.takeMaps).own = s.own := rfl
@[simp] theorem State.takeMaps_moves (s : State) : (s.takeMaps).moves = s.moves := rfl
@[simp] theorem State.takeMaps_phantoms (s : State) : (s.takeMaps).phantoms = s.phantoms := rfl
@[simp] theorem State.takeMaps_bus (s : State) : (s.takeMaps).bus = s.bus := rfl
@[simp] theorem State.takeMaps_restart (s : State) : (s.takeMaps).restart = s.restart := rfl
@[simp] theorem State.takeMaps_clock (s : State) : (s.takeMaps).clock = s.clock := rfl
@[simp] theorem State.takeMaps_draws (s : State) : (s.takeMaps).draws = s.draws := rfl

/-! `State.formFrames` -/

@[simp] theorem State.formFrames_pending (x : Tab 48 Sample) (s : State) : (s.formFrames x).pending = s.pending := rfl
@[simp] theorem State.formFrames_rate (x : Tab 48 Sample) (s : State) : (s.formFrames x).rate = s.rate := rfl
@[simp] theorem State.formFrames_align (x : Tab 48 Sample) (s : State) : (s.formFrames x).align = s.align := rfl
@[simp] theorem State.formFrames_rx (x : Tab 48 Sample) (s : State) : (s.formFrames x).rx = s.rx := rfl
@[simp] theorem State.formFrames_comm (x : Tab 48 Sample) (s : State) : (s.formFrames x).comm = s.comm := rfl
@[simp] theorem State.formFrames_ports (x : Tab 48 Sample) (s : State) : (s.formFrames x).ports = s.ports := rfl
@[simp] theorem State.formFrames_entries (x : Tab 48 Sample) (s : State) : (s.formFrames x).entries = s.entries := rfl
@[simp] theorem State.formFrames_own (x : Tab 48 Sample) (s : State) : (s.formFrames x).own = s.own := rfl
@[simp] theorem State.formFrames_moves (x : Tab 48 Sample) (s : State) : (s.formFrames x).moves = s.moves := rfl
@[simp] theorem State.formFrames_phantoms (x : Tab 48 Sample) (s : State) : (s.formFrames x).phantoms = s.phantoms := rfl
@[simp] theorem State.formFrames_bus (x : Tab 48 Sample) (s : State) : (s.formFrames x).bus = s.bus := rfl
@[simp] theorem State.formFrames_restart (x : Tab 48 Sample) (s : State) : (s.formFrames x).restart = s.restart := rfl
@[simp] theorem State.formFrames_clock (x : Tab 48 Sample) (s : State) : (s.formFrames x).clock = s.clock := rfl
@[simp] theorem State.formFrames_draws (x : Tab 48 Sample) (s : State) : (s.formFrames x).draws = s.draws := rfl

/-! `State.rampPairs` -/

@[simp] theorem State.rampPairs_pending (s : State) : (s.rampPairs).pending = s.pending := rfl
@[simp] theorem State.rampPairs_rate (s : State) : (s.rampPairs).rate = s.rate := rfl
@[simp] theorem State.rampPairs_align (s : State) : (s.rampPairs).align = s.align := rfl
@[simp] theorem State.rampPairs_rx (s : State) : (s.rampPairs).rx = s.rx := rfl
@[simp] theorem State.rampPairs_ports (s : State) : (s.rampPairs).ports = s.ports := rfl
@[simp] theorem State.rampPairs_streams (s : State) : (s.rampPairs).streams = s.streams := rfl
@[simp] theorem State.rampPairs_entries (s : State) : (s.rampPairs).entries = s.entries := rfl
@[simp] theorem State.rampPairs_own (s : State) : (s.rampPairs).own = s.own := rfl
@[simp] theorem State.rampPairs_moves (s : State) : (s.rampPairs).moves = s.moves := rfl
@[simp] theorem State.rampPairs_phantoms (s : State) : (s.rampPairs).phantoms = s.phantoms := rfl
@[simp] theorem State.rampPairs_bus (s : State) : (s.rampPairs).bus = s.bus := rfl
@[simp] theorem State.rampPairs_restart (s : State) : (s.rampPairs).restart = s.restart := rfl
@[simp] theorem State.rampPairs_clock (s : State) : (s.rampPairs).clock = s.clock := rfl
@[simp] theorem State.rampPairs_draws (s : State) : (s.rampPairs).draws = s.draws := rfl

/-! `State.stepGates` -/

@[simp] theorem State.stepGates_pending (s : State) : (s.stepGates).pending = s.pending := rfl
@[simp] theorem State.stepGates_rate (s : State) : (s.stepGates).rate = s.rate := rfl
@[simp] theorem State.stepGates_align (s : State) : (s.stepGates).align = s.align := rfl
@[simp] theorem State.stepGates_rx (s : State) : (s.stepGates).rx = s.rx := rfl
@[simp] theorem State.stepGates_comm (s : State) : (s.stepGates).comm = s.comm := rfl
@[simp] theorem State.stepGates_ports (s : State) : (s.stepGates).ports = s.ports := rfl
@[simp] theorem State.stepGates_streams (s : State) : (s.stepGates).streams = s.streams := rfl
@[simp] theorem State.stepGates_entries (s : State) : (s.stepGates).entries = s.entries := rfl
@[simp] theorem State.stepGates_own (s : State) : (s.stepGates).own = s.own := rfl
@[simp] theorem State.stepGates_moves (s : State) : (s.stepGates).moves = s.moves := rfl
@[simp] theorem State.stepGates_phantoms (s : State) : (s.stepGates).phantoms = s.phantoms := rfl
@[simp] theorem State.stepGates_bus (s : State) : (s.stepGates).bus = s.bus := rfl
@[simp] theorem State.stepGates_restart (s : State) : (s.stepGates).restart = s.restart := rfl
@[simp] theorem State.stepGates_clock (s : State) : (s.stepGates).clock = s.clock := rfl
@[simp] theorem State.stepGates_draws (s : State) : (s.stepGates).draws = s.draws := rfl

/-! `State.landings` -/

@[simp] theorem State.landings_pending (s : State) : (s.landings).pending = s.pending := by
  exact foldl_keeps _ State.pending (fun _ _ => by simp) _ _
@[simp] theorem State.landings_rate (s : State) : (s.landings).rate = s.rate := by
  exact foldl_keeps _ State.rate (fun _ _ => by simp) _ _
@[simp] theorem State.landings_align (s : State) : (s.landings).align = s.align := by
  exact foldl_keeps _ State.align (fun _ _ => by simp) _ _
@[simp] theorem State.landings_rx (s : State) : (s.landings).rx = s.rx := by
  exact foldl_keeps _ State.rx (fun _ _ => by simp) _ _
@[simp] theorem State.landings_ports (s : State) : (s.landings).ports = s.ports := by
  exact foldl_keeps _ State.ports (fun _ _ => by simp) _ _
@[simp] theorem State.landings_streams (s : State) : (s.landings).streams = s.streams := by
  exact foldl_keeps _ State.streams (fun _ _ => by simp) _ _
@[simp] theorem State.landings_entries (s : State) : (s.landings).entries = s.entries := by
  exact foldl_keeps _ State.entries (fun _ _ => by simp) _ _
@[simp] theorem State.landings_own (s : State) : (s.landings).own = s.own := by
  exact foldl_keeps _ State.own (fun _ _ => by simp) _ _
@[simp] theorem State.landings_restart (s : State) : (s.landings).restart = s.restart := by
  exact foldl_keeps _ State.restart (fun _ _ => by simp) _ _
@[simp] theorem State.landings_clock (s : State) : (s.landings).clock = s.clock := by
  exact foldl_keeps _ State.clock (fun _ _ => by simp) _ _
@[simp] theorem State.landings_draws (s : State) : (s.landings).draws = s.draws := by
  exact foldl_keeps _ State.draws (fun _ _ => by simp) _ _

/-! `State.endFades` -/

@[simp] theorem State.endFades_pending (s : State) : (s.endFades).pending = s.pending := by
  exact foldl_keeps _ State.pending (fun _ _ => by simp) _ _
@[simp] theorem State.endFades_rate (s : State) : (s.endFades).rate = s.rate := by
  exact foldl_keeps _ State.rate (fun _ _ => by simp) _ _
@[simp] theorem State.endFades_align (s : State) : (s.endFades).align = s.align := by
  exact foldl_keeps _ State.align (fun _ _ => by simp) _ _
@[simp] theorem State.endFades_rx (s : State) : (s.endFades).rx = s.rx := by
  exact foldl_keeps _ State.rx (fun _ _ => by simp) _ _
@[simp] theorem State.endFades_ports (s : State) : (s.endFades).ports = s.ports := by
  exact foldl_keeps _ State.ports (fun _ _ => by simp) _ _
@[simp] theorem State.endFades_streams (s : State) : (s.endFades).streams = s.streams := by
  exact foldl_keeps _ State.streams (fun _ _ => by simp) _ _
@[simp] theorem State.endFades_entries (s : State) : (s.endFades).entries = s.entries := by
  exact foldl_keeps _ State.entries (fun _ _ => by simp) _ _
@[simp] theorem State.endFades_pairs (s : State) : (s.endFades).pairs = s.pairs := by
  exact foldl_keeps _ State.pairs (fun _ _ => by simp) _ _
@[simp] theorem State.endFades_own (s : State) : (s.endFades).own = s.own := by
  exact foldl_keeps _ State.own (fun _ _ => by simp) _ _
@[simp] theorem State.endFades_restart (s : State) : (s.endFades).restart = s.restart := by
  exact foldl_keeps _ State.restart (fun _ _ => by simp) _ _
@[simp] theorem State.endFades_clock (s : State) : (s.endFades).clock = s.clock := by
  exact foldl_keeps _ State.clock (fun _ _ => by simp) _ _
@[simp] theorem State.endFades_draws (s : State) : (s.endFades).draws = s.draws := by
  exact foldl_keeps _ State.draws (fun _ _ => by simp) _ _

/-! `State.samplePeriod` -/

@[simp] theorem State.samplePeriod_pending (x : Tab 48 Sample) (s : State) : (s.samplePeriod x).pending = s.pending := by
  simp [State.samplePeriod]
@[simp] theorem State.samplePeriod_rate (x : Tab 48 Sample) (s : State) : (s.samplePeriod x).rate = s.rate := by
  simp [State.samplePeriod]
@[simp] theorem State.samplePeriod_align (x : Tab 48 Sample) (s : State) : (s.samplePeriod x).align = s.align := by
  simp [State.samplePeriod]
@[simp] theorem State.samplePeriod_rx (x : Tab 48 Sample) (s : State) : (s.samplePeriod x).rx = s.rx := by
  simp [State.samplePeriod]
@[simp] theorem State.samplePeriod_ports (x : Tab 48 Sample) (s : State) : (s.samplePeriod x).ports = s.ports := by
  simp [State.samplePeriod]
@[simp] theorem State.samplePeriod_entries (x : Tab 48 Sample) (s : State) : (s.samplePeriod x).entries = s.entries := by
  simp [State.samplePeriod]
@[simp] theorem State.samplePeriod_own (x : Tab 48 Sample) (s : State) : (s.samplePeriod x).own = s.own := by
  simp [State.samplePeriod]
@[simp] theorem State.samplePeriod_restart (x : Tab 48 Sample) (s : State) : (s.samplePeriod x).restart = s.restart := by
  simp [State.samplePeriod]
@[simp] theorem State.samplePeriod_draws (x : Tab 48 Sample) (s : State) : (s.samplePeriod x).draws = s.draws := by
  simp [State.samplePeriod]

/-! `State.rampStep` -/

@[simp] theorem State.rampStep_pending (who : Party) (i : Input) (s : State) : (s.rampStep who i).pending = s.pending := by
  unfold State.rampStep
  split <;> (try split) <;> simp
@[simp] theorem State.rampStep_rate (who : Party) (i : Input) (s : State) : (s.rampStep who i).rate = s.rate := by
  unfold State.rampStep
  split <;> (try split) <;> simp
@[simp] theorem State.rampStep_align (who : Party) (i : Input) (s : State) : (s.rampStep who i).align = s.align := by
  unfold State.rampStep
  split <;> (try split) <;> simp
@[simp] theorem State.rampStep_rx (who : Party) (i : Input) (s : State) : (s.rampStep who i).rx = s.rx := by
  unfold State.rampStep
  split <;> (try split) <;> simp
@[simp] theorem State.rampStep_ports (who : Party) (i : Input) (s : State) : (s.rampStep who i).ports = s.ports := by
  unfold State.rampStep
  split <;> (try split) <;> simp
@[simp] theorem State.rampStep_streams (who : Party) (i : Input) (s : State) : (s.rampStep who i).streams = s.streams := by
  unfold State.rampStep
  split <;> (try split) <;> simp
@[simp] theorem State.rampStep_entries (who : Party) (i : Input) (s : State) : (s.rampStep who i).entries = s.entries := by
  unfold State.rampStep
  split <;> (try split) <;> simp
@[simp] theorem State.rampStep_own (who : Party) (i : Input) (s : State) : (s.rampStep who i).own = s.own := by
  unfold State.rampStep
  split <;> (try split) <;> simp
@[simp] theorem State.rampStep_moves (who : Party) (i : Input) (s : State) : (s.rampStep who i).moves = s.moves := by
  unfold State.rampStep
  split <;> (try split) <;> simp
@[simp] theorem State.rampStep_phantoms (who : Party) (i : Input) (s : State) :
    (s.rampStep who i).phantoms = s.phantoms := by
  unfold State.rampStep
  split <;> (try split) <;> simp
@[simp] theorem State.rampStep_bus (who : Party) (i : Input) (s : State) : (s.rampStep who i).bus = s.bus := by
  unfold State.rampStep
  split <;> (try split) <;> simp
@[simp] theorem State.rampStep_restart (who : Party) (i : Input) (s : State) : (s.rampStep who i).restart = s.restart := by
  unfold State.rampStep
  split <;> (try split) <;> simp
@[simp] theorem State.rampStep_clock (who : Party) (i : Input) (s : State) : (s.rampStep who i).clock = s.clock := by
  unfold State.rampStep
  split <;> (try split) <;> simp
@[simp] theorem State.rampStep_draws (who : Party) (i : Input) (s : State) : (s.rampStep who i).draws = s.draws := by
  unfold State.rampStep
  split <;> (try split) <;> simp

end Sys2Proof.Machine
end

