-- ==== Sys2Proof/Laws/Comm.lean ====
section
/-! SUPPORT. What notices do to the transmit queues: they add records behind what is queued, and nothing else. -/

namespace Sys2Proof.Machine

/-- Every transmit queue of the second holds what it holds in the first, and perhaps more behind it; and no lane begins
or ends a break. -/
def Comm.grows (c d : Comm) : Prop :=
  ∀ n, (∃ later, (d.tx.get n).queue = (c.tx.get n).queue ++ later) ∧ (d.tx.get n).breaking = (c.tx.get n).breaking

theorem Comm.grows.refl (c : Comm) : c.grows c := fun _ => ⟨⟨[], by simp⟩, rfl⟩

theorem Comm.grows.trans {c d e : Comm} (h : c.grows d) (k : d.grows e) : c.grows e := fun n => by
  obtain ⟨⟨a, ha⟩, hb⟩ := h n
  obtain ⟨⟨a', ha'⟩, hb'⟩ := k n
  exact ⟨⟨a ++ a', by rw [ha', ha, List.append_assoc]⟩, by rw [hb', hb]⟩

theorem Comm.grows.of_tx {c d : Comm} (h : d.tx = c.tx) : c.grows d := fun n => ⟨⟨[], by simp [h]⟩, by rw [h]⟩

theorem Comm.queueFrame_grows (c : Comm) (l : LaneId) (body : List Byte) : c.grows (c.queueFrame l body) := fun n => by
  by_cases h : n = l.idx
  · subst h; exact ⟨⟨frameOf body, by simp [Comm.queueFrame]⟩, by simp [Comm.queueFrame]⟩
  · exact ⟨⟨[], by simp [Comm.queueFrame, Tab.get_modify, h]⟩, by simp [Comm.queueFrame, Tab.get_modify, h]⟩

theorem Comm.told_tx (c : Comm) (l : LaneId) (n : Notice) : (c.told l n).tx = c.tx := by
  cases l <;> cases n <;> rfl

theorem Comm.setMark_tx (c : Comm) (l : LaneId) (sub : Subject) (b : Bool) : (c.setMark l sub b).tx = c.tx := by
  cases l <;> cases sub <;> rfl

theorem Comm.offer_grows (l : LaneId) (n : Notice) (c : Comm) : c.grows (c.offer l n) := by
  unfold Comm.offer
  split
  · exact .refl c
  · split
    · exact (c.queueFrame_grows l n.body).trans (.of_tx (Comm.told_tx _ _ _))
    · exact .of_tx (Comm.setMark_tx _ _ _ _)

/-- A fold whose every turn only adds, only adds. -/
theorem Comm.foldl_grows {α : Type} (f : Comm → α → Comm) (h : ∀ (c : Comm) a, c.grows (f c a)) (as : List α) (c : Comm) :
    c.grows (as.foldl f c) := by
  induction as generalizing c with
  | nil => exact .refl c
  | cons a as ih => exact (h c a).trans (ih _)

theorem Comm.limitEvent_grows (lanes : List LaneId) (i : Input) (a : Int) (before : Option Pair) (f : Pair → Pair)
    (c : Comm) : c.grows (c.limitEvent lanes i a before f) := by
  unfold Comm.limitEvent
  split
  · exact .refl c
  · split
    · exact .refl c
    · exact Comm.foldl_grows _ (fun c l => Comm.offer_grows l _ c) _ _

/-- A fold of the state whose every turn only adds, only adds. -/
theorem State.foldl_grows {α : Type} (f : State → α → State) (h : ∀ (s : State) a, s.comm.grows (f s a).comm) (as : List α)
    (s : State) : s.comm.grows (as.foldl f s).comm := by
  induction as generalizing s with
  | nil => exact .refl _
  | cons a as ih => exact (h s a).trans (ih _)

theorem State.raise_grows (lanes : List LaneId) (n : Notice) (s : State) : s.comm.grows (s.raise lanes n).comm :=
  Comm.foldl_grows _ (fun c l => Comm.offer_grows l n c) _ _

theorem State.updatePair_grows (who : Party) (i : Input) (f : Pair → Pair) (s : State) :
    s.comm.grows (s.updatePair who i f).comm := Comm.limitEvent_grows _ _ _ _ _ _

theorem State.updatePairs_grows (i : Input) (f : Pair → Pair) (s : State) :
    s.comm.grows (s.updatePairs i f).comm := Comm.foldl_grows _ (fun c _ => Comm.limitEvent_grows _ _ _ _ _ c) _ _

theorem State.updateAllPairs_grows (f : Input → Pair → Pair) (s : State) :
    s.comm.grows (s.updateAllPairs f).comm :=
  Comm.foldl_grows _ (fun c _ => Comm.foldl_grows _ (fun c _ => Comm.limitEvent_grows _ _ _ _ _ c) _ c) _ _

theorem State.flushList_grows (s : State) (l : LaneId) (subs : List Subject) (c : Comm) :
    c.grows (s.flushList l subs c) := by
  induction subs generalizing c with
  | nil => exact .refl c
  | cons sub subs ih =>
    unfold State.flushList
    split
    · exact .refl c
    · rename_i n _
      split
      · refine ((c.queueFrame_grows l n.body).trans (.of_tx ?_)).trans (ih _)
        rw [Comm.setMark_tx, Comm.told_tx]
      · exact .refl c

theorem State.flush_grows (l : LaneId) (s : State) : s.comm.grows (s.flush l).comm := s.flushList_grows l _ _

theorem State.changeOwner_grows (i : Input) (who : Option Party) (s : State) :
    s.comm.grows (s.changeOwner i who).comm := by
  refine (Comm.grows.of_tx ?_).trans (State.raise_grows _ _ _)
  simp [State.modOwn]

theorem State.raisePhantom_grows (i : Input) (o : PhantomOutcome) (s : State) :
    s.comm.grows (s.raisePhantom i o).comm := State.raise_grows _ _ _

theorem State.startSequence_grows (i : Input) (on : Bool) (s : State) :
    s.comm.grows (s.startSequence i on).comm := State.raise_grows _ _ _

/-- A reply stands ahead of what is added behind it. -/
theorem Comm.grows.after_queueFrame {c d : Comm} {l : LaneId} {body : List Byte} (h : (c.queueFrame l body).grows d) :
    ∃ later, (d.tx.get l.idx).queue = (c.tx.get l.idx).queue ++ frameOf body ++ later := by
  obtain ⟨⟨a, ha⟩, -⟩ := h l.idx
  exact ⟨a, by rw [ha]; simp [Comm.queueFrame]⟩

end Sys2Proof.Machine
end

