-- ==== Sys2Proof/Laws/Pairs.lean ====
section
/-! SUPPORT. Reading a pair after an operation on pairs. -/

namespace Sys2Proof.Machine

theorem PairStore.get_mapInput (ps : PairStore) (i j : Input) (f : Pair → Pair) (who : Party) :
    (ps.mapInput i f).get who j = if j = i then (ps.get who j).map f else ps.get who j := by
  cases who with
  | panel => by_cases h : j = i <;> simp [PairStore.get, PairStore.mapInput, Tab.get_modify, h]
  | consumer k =>
    simp only [PairStore.get, PairStore.mapInput, Tab.get_map]
    cases ps.seats.get k <;> by_cases h : j = i <;> simp [Tab.get_modify, h]

theorem PairStore.get_mapAll (ps : PairStore) (j : Input) (f : Input → Pair → Pair) (who : Party) :
    (ps.mapAll f).get who j = (ps.get who j).map (f j) := by
  cases who with
  | panel => simp [PairStore.get, PairStore.mapAll]
  | consumer k =>
    simp only [PairStore.get, PairStore.mapAll, Tab.get_map]
    cases ps.seats.get k <;> simp

theorem PairStore.get_modify (ps : PairStore) (who who' : Party) (i j : Input) (f : Pair → Pair) :
    (ps.modify who i f).get who' j =
      if who' = who ∧ j = i then (ps.get who' j).map f else ps.get who' j := by
  cases who with
  | panel =>
    cases who' with
    | panel => by_cases h : j = i <;> simp [PairStore.get, PairStore.modify, Tab.get_modify, h]
    | consumer k => simp [PairStore.get, PairStore.modify]
  | consumer k =>
    cases who' with
    | panel => simp [PairStore.get, PairStore.modify]
    | consumer k' =>
      by_cases hk : k' = k
      · subst hk
        simp only [PairStore.get, PairStore.modify, Tab.get_modify, if_true, true_and]
        cases ps.seats.get k' <;> by_cases h : j = i <;> simp [Tab.get_modify, h]
      · simp [PairStore.get, PairStore.modify, Tab.get_modify, hk]

theorem State.pair?_updatePair (s : State) (who who' : Party) (i j : Input) (f : Pair → Pair) :
    (s.updatePair who i f).pair? who' j =
      if who' = who ∧ j = i then (s.pair? who' j).map f else s.pair? who' j :=
  PairStore.get_modify _ _ _ _ _ _

theorem State.pair?_updatePairs (s : State) (who : Party) (i j : Input) (f : Pair → Pair) :
    (s.updatePairs i f).pair? who j = if j = i then (s.pair? who j).map f else s.pair? who j :=
  PairStore.get_mapInput _ _ _ _ _

theorem State.pair?_turnGates (s : State) (who : Party) (i j : Input) :
    (s.turnGates i).pair? who j =
      if j = i then (s.pair? who j).map (Pair.turnGate s.rate.fade (s.phantoms.get i).seq) else s.pair? who j :=
  PairStore.get_mapInput _ _ _ _ _

/-- Two states with the same pairs have the same pair of everyone. -/
theorem State.pair?_congr {s t : State} (h : t.pairs = s.pairs) (who : Party) (i : Input) :
    t.pair? who i = s.pair? who i := by
  unfold State.pair?
  rw [h]

/-- A change of one pair is the change to its new value. -/
theorem PairStore.modify_const (ps : PairStore) (who : Party) (i : Input) (f : Pair → Pair) (q : Pair)
    (h : ps.get who i = some q) : ps.modify who i f = ps.modify who i fun _ => f q := by
  cases who with
  | panel => simp [PairStore.get] at h; simp [PairStore.modify, Tab.modify, h]
  | consumer k =>
    simp [PairStore.get] at h
    obtain ⟨t, ht, hq⟩ := h
    simp [PairStore.modify, Tab.modify, ht, hq]

theorem Pair.turnGate_eq (n : Nat) (seq : SeqState) (q : Pair) :
    Pair.turnGate n seq q = { q with dir := (Pair.turnGate n seq q).dir } := by
  unfold Pair.turnGate
  split <;> rfl

@[simp] theorem Pair.turnGate_level (n : Nat) (seq : SeqState) (q : Pair) : (Pair.turnGate n seq q).level = q.level := by
  rw [Pair.turnGate_eq]
@[simp] theorem Pair.turnGate_mute (n : Nat) (seq : SeqState) (q : Pair) : (Pair.turnGate n seq q).mute = q.mute := by
  rw [Pair.turnGate_eq]
@[simp] theorem Pair.turnGate_trim (n : Nat) (seq : SeqState) (q : Pair) : (Pair.turnGate n seq q).trim = q.trim := by
  rw [Pair.turnGate_eq]
@[simp] theorem Pair.turnGate_target (n : Nat) (seq : SeqState) (q : Pair) :
    (Pair.turnGate n seq q).target = q.target := by rw [Pair.turnGate_eq]
@[simp] theorem Pair.turnGate_trimState (n : Nat) (seq : SeqState) (q : Pair) :
    (Pair.turnGate n seq q).trimState = q.trimState := by rw [Pair.turnGate_eq]
@[simp] theorem Pair.turnGate_phase (n : Nat) (seq : SeqState) (q : Pair) : (Pair.turnGate n seq q).phase = q.phase := by
  rw [Pair.turnGate_eq]
@[simp] theorem Pair.turnGate_gate (n : Nat) (seq : SeqState) (q : Pair) : (Pair.turnGate n seq q).gate = q.gate := by
  rw [Pair.turnGate_eq]
@[simp] theorem Pair.turnGate_sat (n : Nat) (seq : SeqState) (q : Pair) : (Pair.turnGate n seq q).sat = q.sat := by
  rw [Pair.turnGate_eq]
@[simp] theorem Pair.turnGate_stepped (n : Nat) (seq : SeqState) (q : Pair) :
    (Pair.turnGate n seq q).stepped = q.stepped := by rw [Pair.turnGate_eq]

/-- How a gate turns depends on its position, its direction and the mute. -/
theorem Pair.turnGate_dir_congr (n : Nat) (seq : SeqState) {q r : Pair} (h1 : r.gate = q.gate) (h2 : r.dir = q.dir)
    (h3 : r.mute = q.mute) : (Pair.turnGate n seq r).dir = (Pair.turnGate n seq q).dir := by
  unfold Pair.turnGate
  rw [h1, h2, h3]
  cases requiredClosed seq q.mute <;> cases q.dir <;> simp [h2]

@[simp] theorem Pair.settleTrim_level (b : TrimState) (st : AnalogStatus) (a : Int) (q : Pair) :
    (Pair.settleTrim b st a q).level = q.level := rfl
@[simp] theorem Pair.settleTrim_mute (b : TrimState) (st : AnalogStatus) (a : Int) (q : Pair) :
    (Pair.settleTrim b st a q).mute = q.mute := rfl
@[simp] theorem Pair.settleTrim_trim (b : TrimState) (st : AnalogStatus) (a : Int) (q : Pair) :
    (Pair.settleTrim b st a q).trim = q.trim := rfl
@[simp] theorem Pair.settleTrim_target (b : TrimState) (st : AnalogStatus) (a : Int) (q : Pair) :
    (Pair.settleTrim b st a q).target = q.target := rfl
@[simp] theorem Pair.settleTrim_gate (b : TrimState) (st : AnalogStatus) (a : Int) (q : Pair) :
    (Pair.settleTrim b st a q).gate = q.gate := rfl
@[simp] theorem Pair.settleTrim_dir (b : TrimState) (st : AnalogStatus) (a : Int) (q : Pair) :
    (Pair.settleTrim b st a q).dir = q.dir := rfl
@[simp] theorem Pair.settleTrim_sat (b : TrimState) (st : AnalogStatus) (a : Int) (q : Pair) :
    (Pair.settleTrim b st a q).sat = q.sat := rfl

end Sys2Proof.Machine
end

