-- ==== Sys2Proof/Laws/Notices.lean ====
section
/-! SUPPORT. What the operations tell of, as lists of events: `Comm.tells` over events in the order they are raised. -/

namespace Sys2Proof.Machine

/-! ## Lists of events -/

@[simp] theorem Comm.tells_nil (c : Comm) : c.tells [] = c := rfl

theorem Comm.tells_append (c : Comm) (as bs : List Event) : c.tells (as ++ bs) = (c.tells as).tells bs :=
  List.foldl_append

theorem Comm.tells_cons (c : Comm) (e : Event) (es : List Event) : c.tells (e :: es) = (c.tells [e]).tells es := rfl

theorem Comm.tells_grows (es : List Event) (c : Comm) : c.grows (c.tells es) := by
  unfold Comm.tells
  exact Comm.foldl_grows _ (fun c (e : Event) => Comm.foldl_grows _ (fun c l => Comm.offer_grows l e.2 c) _ c) _ _

/-- Operations that each tell of a list of events tell of the lists one after the other. -/
theorem Comm.foldl_tells {α : Type} (f : Comm → α → Comm) (g : α → List Event) (h : ∀ c a, f c a = c.tells (g a))
    (as : List α) (c : Comm) : as.foldl f c = c.tells (as.flatMap g) := by
  induction as generalizing c with
  | nil => rfl
  | cons a as ih => rw [List.foldl_cons, ih, h, List.flatMap_cons, Comm.tells_append]

theorem State.raise_comm (lanes : List LaneId) (n : Notice) (s : State) :
    (s.raise lanes n).comm = s.comm.tells [(lanes, n)] := rfl

theorem State.broadcast_comm (n : Notice) (s : State) : (s.broadcast n).comm = s.comm.tells [(s.partyLanes, n)] := rfl

theorem State.raiseLink_comm (p : Port) (b : PortState) (f : Tab 12 Bool) (s : State) :
    (s.raiseLink p b f).comm = s.comm.tells [([.panel], .link p (s.ports.get p).state b f)] := rfl

theorem State.raiseChip_comm (c : Chip) (s : State) :
    (s.raiseChip c).comm = s.comm.tells [([.panel], .chip c (s.bus.chips.get c))] := rfl

theorem State.raiseMoved_comm (i : Input) (o : MovedOutcome) (s : State) :
    (s.raiseMoved i o).comm = s.comm.tells [(s.partyLanes, .moved i o (s.moves.get i).setting)] := rfl

theorem State.raisePhantom_comm (i : Input) (o : PhantomOutcome) (s : State) :
    (s.raisePhantom i o).comm =
      s.comm.tells [(s.partyLanes, .phantomState i (s.phantoms.get i).phantom (s.phantoms.get i).seq o)] := rfl

theorem State.raiseOwner_comm (i : Input) (before : Option Party) (s : State) :
    (s.raiseOwner i before).comm =
      s.comm.tells [s.ownerTold i (s.own.get i).owner before (s.own.get i).waiting.length] := rfl

/-! ## LIMIT events -/

/-- Whether and what LIMIT tells depends on the two trim states, and on the level and the trim that follow (R8). -/
theorem limitTold_congr {lanes : List LaneId} {i : Input} {a : Int} {q r q' r' : Pair}
    (h : r.trimState = q.trimState) (h1 : r'.trimState = q'.trimState) (h2 : r'.level = q'.level)
    (h3 : r'.trim = q'.trim) : limitTold lanes i a r r' = limitTold lanes i a q q' := by
  unfold limitTold
  rw [h, h1, h2, h3]

/-- A pair that keeps its trim state tells of no LIMIT. -/
theorem limitTold_same {lanes : List LaneId} {i : Input} {a : Int} {q q' : Pair} (h : q'.trimState = q.trimState) :
    limitTold lanes i a q q' = [] := by
  unfold limitTold
  rw [h]
  split
  · rename_i h; exact absurd h.2 h.1
  · split
    · rename_i h; exact absurd h.1 h.2
    · rfl

/-- The LIMIT event as the model composes it. -/
theorem limitTold_eq (lanes : List LaneId) (i : Input) (a : Int) (q q' : Pair) :
    limitTold lanes i a q q' = match limitNotice i a q q' with
      | none => []
      | some n => [(lanes, n)] := by
  unfold limitTold limitNotice Pair.deficit
  by_cases h : q.trimState ≠ .limited ∧ q'.trimState = .limited
  · rw [if_pos h, if_pos h]
    cases q'.level <;> rfl
  · rw [if_neg h, if_neg h]
    split <;> rfl

theorem Comm.limitEvent_tells (lanes : List LaneId) (i : Input) (a : Int) (before : Option Pair) (f : Pair → Pair)
    (c : Comm) : c.limitEvent lanes i a before f = c.tells (match before with
      | some q => limitTold lanes i a q (f q)
      | none => []) := by
  unfold Comm.limitEvent
  cases before with
  | none => rfl
  | some q =>
    dsimp only
    rw [limitTold_eq]
    cases limitNotice i a q (f q) <;> rfl

/-- What an update of one pair tells of. -/
theorem State.updatePair_comm (who : Party) (i : Input) (f : Pair → Pair) (s : State) (q : Pair)
    (h : s.pair? who i = some q) :
    (s.updatePair who i f).comm = s.comm.tells (limitTold (s.lanesOf who) i (s.analog i) q (f q)) := by
  unfold State.updatePair
  rw [Comm.limitEvent_tells, h]

/-- What an update of an input's pairs tells of, read off any state with the same trim states, levels and trims. -/
theorem State.updatePairs_comm (i : Input) (f : Pair → Pair) (s t : State) (ha : t.analog i = s.analog i)
    (h : ∀ who q, s.pair? who i = some q → ∃ q', t.pair? who i = some q' ∧ q'.trimState = (f q).trimState ∧
      q'.level = (f q).level ∧ q'.trim = (f q).trim) :
    (s.updatePairs i f).comm = s.comm.tells (s.limitsTold t i) := by
  unfold State.updatePairs State.limitsTold
  dsimp only
  rw [Comm.foldl_tells _ _ fun c who => Comm.limitEvent_tells _ _ _ _ _ c]
  congr 2
  funext who
  cases hq : s.pair? who i with
  | none => rfl
  | some q =>
    obtain ⟨q', h1, h2, h3, h4⟩ := h who q hq
    rw [h1, ha]
    exact (limitTold_congr rfl h2 h3 h4).symm

/-- What an update of all pairs tells of, read off any state with the same trim states, levels and trims. -/
theorem State.updateAllPairs_comm (f : Input → Pair → Pair) (s t : State) (ha : ∀ i, t.analog i = s.analog i)
    (h : ∀ who i q, s.pair? who i = some q → ∃ q', t.pair? who i = some q' ∧ q'.trimState = (f i q).trimState ∧
      q'.level = (f i q).level ∧ q'.trim = (f i q).trim) :
    (s.updateAllPairs f).comm = s.comm.tells (allInputs.flatMap fun i => s.limitsTold t i) := by
  unfold State.updateAllPairs
  refine Comm.foldl_tells _ _ (fun c i => ?_) _ _
  rw [Comm.foldl_tells _ _ fun c who => Comm.limitEvent_tells _ _ _ _ _ c]
  unfold State.limitsTold
  congr 2
  funext who
  cases hq : s.pair? who i with
  | none => rfl
  | some q =>
    obtain ⟨q', h1, h2, h3, h4⟩ := h who i q hq
    rw [h1, ha]
    exact (limitTold_congr rfl h2 h3 h4).symm

/-- Two second states that agree on an input's trim states, levels and trims have the same LIMIT events. -/
theorem State.limitsTold_congr {s t t' : State} {i : Input} (ha : t'.analog i = t.analog i)
    (h : ∀ who q, t.pair? who i = some q → ∃ q', t'.pair? who i = some q' ∧ q'.trimState = q.trimState ∧
      q'.level = q.level ∧ q'.trim = q.trim) (hn : ∀ who, t.pair? who i = none → t'.pair? who i = none) :
    s.limitsTold t' i = s.limitsTold t i := by
  unfold State.limitsTold
  congr 1
  funext who
  cases hs : s.pair? who i with
  | none => rfl
  | some q =>
    cases hq : t.pair? who i with
    | none => rw [hn who hq]
    | some q0 =>
      obtain ⟨q', h1, h2, h3, h4⟩ := h who q0 hq
      rw [h1, ha]
      exact limitTold_congr rfl h2 h3 h4

end Sys2Proof.Machine
end

