-- ==== Sys2Proof/Laws/Chips.lean ====
section
/-! SUPPORT. What a chip fault leaves, input by input. -/

namespace Sys2Proof.Machine

/-! ## Chips and their inputs -/

@[simp] theorem chipOf_inputAt (c : Chip) (k : Channel) : chipOf (inputAt c k) = c := by
  apply Fin.ext
  simp only [chipOf, inputAt]
  omega

@[simp] theorem channelOf_inputAt (c : Chip) (k : Channel) : channelOf (inputAt c k) = k := by
  apply Fin.ext
  simp only [channelOf, inputAt]
  omega

@[simp] theorem inputAt_chipOf (i : Input) : inputAt (chipOf i) (channelOf i) = i := by
  apply Fin.ext
  simp only [chipOf, channelOf, inputAt]
  omega

theorem mem_chipInputs (c : Chip) (i : Input) : i ∈ chipInputs c ↔ chipOf i = c := by
  simp only [chipInputs, List.mem_map]
  constructor
  · rintro ⟨k, -, rfl⟩; simp
  · rintro rfl; exact ⟨channelOf i, List.mem_finRange _, by simp⟩

theorem chipInputs_nodup (c : Chip) : (chipInputs c).Nodup := by
  refine (List.nodup_map_iff ?_).mpr (List.nodup_finRange 8)
  intro a b h
  rw [← channelOf_inputAt c a, h, channelOf_inputAt]

/-! ## Folds of one operation per input -/

/-- A fold of an operation that touches one input's cell only, over inputs without repeats: what the cell of an input
holds afterwards. `get` reads the cell, `R` relates its value before and after its own turn. -/
theorem foldl_cells {σ β : Type} (f : σ → Input → σ) (get : σ → Input → β) (P : σ → Prop) (R : Input → β → β → Prop)
    (hP : ∀ s i, P s → P (f s i)) (hself : ∀ s i, P s → R i (get s i) (get (f s i) i))
    (hother : ∀ s i j, P s → j ≠ i → get (f s i) j = get s j) (l : List Input) (hl : l.Nodup) (s : σ) (hs : P s) :
    (∀ i ∈ l, R i (get s i) (get (l.foldl f s) i)) ∧ ∀ i, i ∉ l → get (l.foldl f s) i = get s i := by
  induction l generalizing s with
  | nil => simp
  | cons a l ih =>
    obtain ⟨ha, hl⟩ := List.nodup_cons.mp hl
    obtain ⟨h1, h2⟩ := ih hl (f s a) (hP s a hs)
    refine ⟨fun i hi => ?_, fun i hi => ?_⟩
    · rcases List.mem_cons.mp hi with rfl | hi
      · rw [List.foldl_cons, h2 _ ha]; exact hself s _ hs
      · have hne : i ≠ a := fun h => ha (h ▸ hi)
        have := h1 i hi
        rw [hother s a i hs hne] at this
        exact this
    · simp only [List.mem_cons, not_or] at hi
      rw [List.foldl_cons, h2 i hi.2, hother s a i hs hi.1]

/-! ## A chip fault -/

/-- The pairs of one input of a chip that faults. -/
theorem State.pair?_faultMove (s : State) (who : Party) (i j : Input) :
    (s.faultMove i).pair? who j =
      if j = i then (s.pair? who j).map fun q => Pair.settleTrim q.trimState .uncertain (s.analog i) q
      else s.pair? who j := by
  unfold State.faultMove
  rw [State.pair?_updatePairs]
  rfl

/-- What a chip fault does to the sequence of one input (R84, R92). -/
def PhantomCtl.faulted (w : Byte) (q : PhantomCtl) : PhantomCtl :=
  match q.seq with
  | .idle => { q with held := none }
  | .fadeOut => { q with seq := .fadeIn, settle := none, reversal := none, outcome := some .failed,
                         phantom := phantomOf (wordPhantom w) }
  | .writing => { q with seq := .fadeIn, settle := none, reversal := none, outcome := some .failed,
                         phantom := phantomOf (wordPhantom w) }
  | .settling => { q with seq := .fadeIn, settle := none, reversal := none, outcome := some .failed,
                          phantom := phantomOf (wordPhantom w) }
  | .fadeIn => { q with seq := .fadeIn, settle := none, reversal := none, outcome := some .failed,
                        phantom := phantomOf (wordPhantom w) }

theorem PhantomCtl.faulted_idle (w : Byte) (q : PhantomCtl) (h : q.seq = .idle) :
    q.faulted w = { q with held := none } := by
  obtain ⟨⟩ := q
  simp only at h
  subst h
  rfl

theorem State.faultPhantom_phantoms (s : State) (i : Input) :
    (s.faultPhantom i).phantoms = s.phantoms.modify i (PhantomCtl.faulted (s.bus.shadow.get i)) := by
  unfold State.faultPhantom
  have key : ∀ q : PhantomCtl, q.seq = .idle → q.held = none → q.faulted (s.bus.shadow.get i) = q := by
    intro q h1 h2
    rw [PhantomCtl.faulted_idle _ _ h1, ← h2]
  cases h : (s.phantoms.get i).seq with
  | idle =>
    simp only [State.dropHeld]
    cases hh : (s.phantoms.get i).held with
    | none => exact (Tab.modify_id _ _ (key _ h hh)).symm
    | some on => simp [State.modPhantom, Tab.modify, PhantomCtl.faulted, h]
  | fadeOut => simp [State.failSequence, State.enterFadeIn, State.modPhantom, Tab.modify, PhantomCtl.faulted, h]
  | writing => simp [State.failSequence, State.enterFadeIn, State.modPhantom, Tab.modify, PhantomCtl.faulted, h]
  | settling => simp [State.failSequence, State.enterFadeIn, State.modPhantom, Tab.modify, PhantomCtl.faulted, h]
  | fadeIn => simp [State.failSequence, State.enterFadeIn, State.modPhantom, Tab.modify, PhantomCtl.faulted, h]

/-- A chip fault turns gates, and changes nothing else of the pairs. -/
theorem State.pair?_faultPhantom (s : State) (who : Party) (i j : Input) :
    (s.faultPhantom i).pair? who j = s.pair? who j ∨
      j = i ∧ (s.faultPhantom i).pair? who j = (s.pair? who j).map (Pair.turnGate s.rate.fade .fadeIn) := by
  have key : (s.failSequence i).pair? who j = s.pair? who j ∨
      j = i ∧ (s.failSequence i).pair? who j = (s.pair? who j).map (Pair.turnGate s.rate.fade .fadeIn) := by
    unfold State.failSequence State.enterFadeIn
    rw [State.pair?_turnGates]
    by_cases h : j = i
    · right; refine ⟨h, ?_⟩; subst h; simp [State.modPhantom, State.pair?]
    · left; rw [if_neg h]; rfl
  unfold State.faultPhantom
  split
  · left
    apply State.pair?_congr
    unfold State.dropHeld
    split <;> rfl
  all_goals exact key

/-- The first part of a chip fault, over any inputs without repeats (R73). -/
theorem State.faultMoves_moves (l : List Input) (hl : l.Nodup) (s : State) (i : Input) :
    (l.foldl (fun acc i => acc.faultMove i) s).moves.get i =
      if i ∈ l then (s.moves.get i).abandon else s.moves.get i := by
  have h2 := foldl_cells (fun (acc : State) i => acc.faultMove i) (fun s i => s.moves.get i) (fun _ => True)
    (fun _ a b => b = a.abandon) (fun _ _ _ => trivial)
    (fun s i _ => by simp [State.faultMove, State.modMove])
    (fun s i j _ hj => by simp [State.faultMove, State.modMove, Tab.get_modify, hj]) l hl s trivial
  by_cases hc : i ∈ l
  · rw [if_pos hc]; exact h2.1 i hc
  · rw [if_neg hc]; exact h2.2 i hc

/-- The second part of a chip fault, over any inputs without repeats (R92). -/
theorem State.faultPhantoms_phantoms (l : List Input) (hl : l.Nodup) (s : State) (i : Input) :
    (l.foldl (fun acc i => acc.faultPhantom i) s).phantoms.get i =
      if i ∈ l then (s.phantoms.get i).faulted (s.bus.shadow.get i) else s.phantoms.get i := by
  have h2 := foldl_cells (fun (acc : State) i => acc.faultPhantom i) (fun s i => s.phantoms.get i)
    (fun t => t.bus.shadow = s.bus.shadow)
    (fun i a b => b = a.faulted (s.bus.shadow.get i)) (fun t i ht => by simpa using ht)
    (fun t i ht => by simp only [State.faultPhantom_phantoms, Tab.get_modify, if_true, ht])
    (fun t i j _ hj => by simp [State.faultPhantom_phantoms, Tab.get_modify, hj]) l hl s rfl
  by_cases hc : i ∈ l
  · rw [if_pos hc]; exact h2.1 i hc
  · rw [if_neg hc]; exact h2.2 i hc

/-- The first part of a chip fault touches moves, pairs and the records queued. -/
theorem State.faultMoves_frame (l : List Input) (s : State) :
    l.foldl (fun acc i => acc.faultMove i) s =
      { s with moves := (l.foldl (fun acc i => acc.faultMove i) s).moves
               pairs := (l.foldl (fun acc i => acc.faultMove i) s).pairs
               comm := (l.foldl (fun acc i => acc.faultMove i) s).comm } := by
  induction l generalizing s with
  | nil => rfl
  | cons a l ih =>
    rw [List.foldl_cons, ih]
    rfl

/-- The second part of a chip fault touches phantoms, pairs and the records queued. -/
theorem State.faultPhantoms_frame (l : List Input) (s : State) :
    l.foldl (fun acc i => acc.faultPhantom i) s =
      { s with phantoms := (l.foldl (fun acc i => acc.faultPhantom i) s).phantoms
               pairs := (l.foldl (fun acc i => acc.faultPhantom i) s).pairs
               comm := (l.foldl (fun acc i => acc.faultPhantom i) s).comm } := by
  induction l generalizing s with
  | nil => rfl
  | cons a l ih =>
    have h : s.faultPhantom a = { s with
        phantoms := (s.faultPhantom a).phantoms, pairs := (s.faultPhantom a).pairs, comm := (s.faultPhantom a).comm } := by
      unfold State.faultPhantom State.dropHeld
      split
      · split <;> rfl
      all_goals rfl
    rw [List.foldl_cons, ih]
    generalize (s.faultPhantom a).phantoms = x at h
    generalize (s.faultPhantom a).pairs = y at h
    generalize (s.faultPhantom a).comm = z at h
    rw [h]

/-- The pairs after the first part of a chip fault: frozen on the inputs named, and else as they were (R7). -/
theorem State.faultMoves_pair? (l : List Input) (hl : l.Nodup) (s : State) (who : Party) (i : Input) :
    (l.foldl (fun acc i => acc.faultMove i) s).pair? who i =
      (s.pair? who i).map fun q => { q with trimState := if i ∈ l then .frozen else q.trimState } := by
  have h2 := foldl_cells (fun (acc : State) i => acc.faultMove i) (fun s i => s.pair? who i) (fun _ => True)
    (fun _ a b => b = a.map fun q => { q with trimState := .frozen }) (fun _ _ _ => trivial)
    (fun s i _ => by rw [State.pair?_faultMove, if_pos rfl]; rfl)
    (fun s i j _ hj => by rw [State.pair?_faultMove, if_neg hj]) l hl s trivial
  by_cases hc : i ∈ l
  · simp only [if_pos hc]
    exact h2.1 i hc
  · simp only [if_neg hc]
    rw [h2.2 i hc]
    cases s.pair? who i <;> rfl

/-- The LIMIT events of the first part of a chip fault, over any inputs without repeats (R8, R73). -/
theorem State.faultMoves_comm (l : List Input) (hl : l.Nodup) (s t : State) (ha : ∀ i ∈ l, t.analog i = s.analog i)
    (h : ∀ i ∈ l, ∀ who q, s.pair? who i = some q → ∃ q', t.pair? who i = some q' ∧ q'.trimState = .frozen ∧
      q'.level = q.level ∧ q'.trim = q.trim) :
    (l.foldl (fun acc i => acc.faultMove i) s).comm = s.comm.tells (l.flatMap fun i => s.limitsTold t i) := by
  induction l generalizing s with
  | nil => rfl
  | cons a l ih =>
    obtain ⟨han, hl⟩ := List.nodup_cons.mp hl
    have hne : ∀ i ∈ l, i ≠ a := fun i hi h => han (h ▸ hi)
    have hp : ∀ i ∈ l, ∀ who, (s.faultMove a).pair? who i = s.pair? who i := fun i hi who => by
      rw [State.pair?_faultMove, if_neg (hne i hi)]
    have hm : ∀ i ∈ l, (s.faultMove a).analog i = s.analog i := fun i hi => by
      simp [State.analog, State.faultMove, State.modMove, Tab.get_modify, hne i hi]
    have hfirst : (s.faultMove a).comm = s.comm.tells (s.limitsTold t a) := by
      unfold State.faultMove
      refine State.updatePairs_comm _ _ _ t ?_ fun who q hq => ?_
      · rw [ha a List.mem_cons_self]
        simp [State.analog, State.modMove, MoveCtl.abandon]
      · obtain ⟨q', h1, h2, h3, h4⟩ := h a List.mem_cons_self who q hq
        exact ⟨q', h1, h2, h3, h4⟩
    have hrest := ih hl (s.faultMove a) (fun i hi => by rw [hm i hi]; exact ha i (List.mem_cons_of_mem _ hi))
      (fun i hi who q hq => h i (List.mem_cons_of_mem _ hi) who q (by rw [← hp i hi]; exact hq))
    rw [List.foldl_cons, hrest, hfirst, List.flatMap_cons, Comm.tells_append]
    congr 1
    refine List.flatMap_congr fun i hi => ?_
    unfold State.limitsTold
    congr 1
    funext who
    rw [hp i hi who]
    rfl

/-- What a chip fault tells of the sequence of one input (R84, R92). -/
def State.droppedTold (s : State) (i : Input) : List Event :=
  if (s.phantoms.get i).seq = .idle ∧ (s.phantoms.get i).held ≠ none then
    [(s.partyLanes, .phantomState i (s.phantoms.get i).phantom .idle (.ended .failed))]
  else []

theorem State.faultPhantom_comm (s : State) (i : Input) :
    (s.faultPhantom i).comm = s.comm.tells (s.droppedTold i) := by
  unfold State.faultPhantom State.droppedTold
  cases h : (s.phantoms.get i).seq with
  | idle =>
    simp only [State.dropHeld]
    cases hh : (s.phantoms.get i).held with
    | none => simp
    | some on =>
      simp only [State.raisePhantom_comm]
      simp [State.modPhantom, h, State.partyLanes]
  | fadeOut => rfl
  | writing => rfl
  | settling => rfl
  | fadeIn => rfl

/-- The PHANTOM_STATE events of the second part of a chip fault, over any inputs without repeats (R92). -/
theorem State.faultPhantoms_comm (l : List Input) (hl : l.Nodup) (s : State) :
    (l.foldl (fun acc i => acc.faultPhantom i) s).comm = s.comm.tells (l.flatMap fun i => s.droppedTold i) := by
  induction l generalizing s with
  | nil => rfl
  | cons a l ih =>
    obtain ⟨han, hl⟩ := List.nodup_cons.mp hl
    rw [List.foldl_cons, ih hl, State.faultPhantom_comm, List.flatMap_cons, Comm.tells_append]
    congr 1
    refine List.flatMap_congr fun i hi => ?_
    have hne : i ≠ a := fun h => han (h ▸ hi)
    have he : (s.faultPhantom a).partyLanes = s.partyLanes := by
      simp [State.partyLanes]
    unfold State.droppedTold
    rw [he, State.faultPhantom_phantoms, Tab.get_modify, if_neg hne]

/-- The pairs after the second part of a chip fault: the gates of the inputs in a sequence have turned (R88, R92). -/
theorem State.faultPhantoms_pair? (l : List Input) (hl : l.Nodup) (s : State) (who : Party) (i : Input) :
    (l.foldl (fun acc i => acc.faultPhantom i) s).pair? who i =
      if i ∈ l ∧ (s.phantoms.get i).seq ≠ .idle then (s.pair? who i).map (Pair.turnGate s.rate.fade .fadeIn)
      else s.pair? who i := by
  have key : ∀ (s : State) (j : Input), (s.faultPhantom j).pair? who i =
      if i = j ∧ (s.phantoms.get j).seq ≠ .idle then (s.pair? who i).map (Pair.turnGate s.rate.fade .fadeIn)
      else s.pair? who i := by
    intro s j
    have hf : (s.failSequence j).pair? who i =
        if i = j then (s.pair? who i).map (Pair.turnGate s.rate.fade .fadeIn) else s.pair? who i := by
      unfold State.failSequence State.enterFadeIn
      rw [State.pair?_turnGates]
      by_cases h : i = j
      · rw [if_pos h, if_pos h]; simp [State.modPhantom, State.pair?]
      · rw [if_neg h, if_neg h]; rfl
    unfold State.faultPhantom
    cases h : (s.phantoms.get j).seq with
    | idle =>
      simp only [ne_eq, not_true_eq_false, and_false, if_false]
      apply State.pair?_congr
      unfold State.dropHeld
      split <;> rfl
    | fadeOut => simpa using hf
    | writing => simpa using hf
    | settling => simpa using hf
    | fadeIn => simpa using hf
  induction l generalizing s with
  | nil => simp
  | cons a l ih =>
    obtain ⟨han, hl⟩ := List.nodup_cons.mp hl
    have hrate : (s.faultPhantom a).rate = s.rate := by simp
    rw [List.foldl_cons, ih hl, key, hrate, State.faultPhantom_phantoms, Tab.get_modify]
    by_cases hi : i = a
    · subst hi
      simp [han]
    · simp [hi]

/-- Everything a chip fault does (R73, R92, R108). -/
theorem State.chipFault_faulted (c : Chip) (s : State) : s.chipFaulted c (s.chipFault c) := by
  have hl := chipInputs_nodup c
  have hm := mem_chipInputs c
  unfold State.chipFault State.chipFaulted
  generalize chipInputs c = l at hl hm
  have hf1 := State.faultMoves_frame l (s.modBus (Bus.faultChip c))
  have hm1 := State.faultMoves_moves l hl (s.modBus (Bus.faultChip c))
  have hp1 := State.faultMoves_pair? l hl (s.modBus (Bus.faultChip c))
  have hc1 := State.faultMoves_comm l hl (s.modBus (Bus.faultChip c))
  have hf2 := State.faultPhantoms_frame l (l.foldl (fun acc i => acc.faultMove i) (s.modBus (Bus.faultChip c)))
  have hp2 := State.faultPhantoms_phantoms l hl (l.foldl (fun acc i => acc.faultMove i) (s.modBus (Bus.faultChip c)))
  have hq2 := State.faultPhantoms_pair? l hl (l.foldl (fun acc i => acc.faultMove i) (s.modBus (Bus.faultChip c)))
  have hc2 := State.faultPhantoms_comm l hl (l.foldl (fun acc i => acc.faultMove i) (s.modBus (Bus.faultChip c)))
  dsimp only
  generalize l.foldl (fun acc i => acc.faultMove i) (s.modBus (Bus.faultChip c)) = s2 at *
  generalize l.foldl (fun acc i => acc.faultPhantom i) s2 = s3 at *
  have e1 : s2.bus = Bus.faultChip c s.bus := by rw [hf1]; rfl
  have e2 : s3.bus = Bus.faultChip c s.bus := by rw [hf2]; exact e1
  have e3 : s3.moves = s2.moves := by rw [hf2]
  have e4 : s2.phantoms = s.phantoms := by rw [hf1]; rfl
  have e5 : s2.rate = s.rate := by rw [hf1]; rfl
  have e6 : s2.entries = s.entries := by rw [hf1]; rfl
  have ph : ∀ i, s3.phantoms.get i =
      if chipOf i = c then (s.phantoms.get i).faulted (s.bus.shadow.get i) else s.phantoms.get i := by
    intro i
    rw [hp2, e4, show s2.bus.shadow = s.bus.shadow by rw [e1]; rfl]
    by_cases hc : chipOf i = c
    · rw [if_pos ((hm i).mpr hc), if_pos hc]
    · rw [if_neg (fun h => hc ((hm i).mp h)), if_neg hc]
  have mv : ∀ i, s3.moves.get i = if chipOf i = c then (s.moves.get i).abandon else s.moves.get i := by
    intro i
    rw [e3, hm1]
    by_cases hc : chipOf i = c
    · rw [if_pos ((hm i).mpr hc), if_pos hc]; rfl
    · rw [if_neg (fun h => hc ((hm i).mp h)), if_neg hc]; rfl
  have pr : ∀ who i q, s.pair? who i = some q → s3.pair? who i = some
      { q with
        trimState := if chipOf i = c then .frozen else q.trimState
        dir := if chipOf i = c ∧ (s.phantoms.get i).seq ≠ .idle then (Pair.turnGate s.rate.fade .fadeIn q).dir
          else q.dir } := by
    intro who i q hq
    have hq' : (s.modBus (Bus.faultChip c)).pair? who i = some q := hq
    rw [hq2, hp1, hq', e4, e5]
    simp only [hm i, Option.map_some]
    by_cases hcond : chipOf i = c ∧ (s.phantoms.get i).seq ≠ .idle
    · rw [if_pos hcond, if_pos hcond]
      refine congrArg some ((Pair.turnGate_eq _ _ _).trans ?_)
      rw [Pair.turnGate_dir_congr s.rate.fade .fadeIn
        (r := { q with trimState := if chipOf i = c then .frozen else q.trimState }) (q := q) rfl rfl rfl]
    · rw [if_neg hcond, if_neg hcond]
  have an : ∀ i, s3.analog i = s.analog i := by
    intro i
    unfold State.analog
    rw [mv]
    split <;> rfl
  refine ⟨?_, fun i hc => ?_, fun i hc => ⟨?_, ?_⟩, fun i hc hs => ?_, fun i hc hs => ?_, fun who i q hq => ?_, ?_, ?_⟩
  · exact e2
  · exact (mv i).trans (if_pos hc)
  · exact (mv i).trans (if_neg hc)
  · exact (ph i).trans (if_neg hc)
  · refine ((ph i).trans (if_pos hc)).trans ?_
    exact PhantomCtl.faulted_idle _ _ hs
  · refine ((ph i).trans (if_pos hc)).trans ?_
    unfold PhantomCtl.faulted phantomOf
    cases h : (s.phantoms.get i).seq
    · exact absurd h hs
    all_goals rfl
  · exact pr who i q hq
  · rw [State.raiseChip_comm, hc2, hc1 s3 (fun i _ => an i) fun i hi who q hq => ⟨_, pr who i q hq, ?_, rfl, rfl⟩,
      ← Comm.tells_append, ← Comm.tells_append]
    · have hch : s3.bus.chips.get c = .faulted := by rw [e2]; simp [Bus.faultChip]
      rw [hch]
      refine congrArg (fun es => s.comm.tells es) ?_
      have hd : (l.flatMap fun i => s2.droppedTold i) = l.flatMap fun i =>
          if (s.phantoms.get i).seq = .idle ∧ (s.phantoms.get i).held ≠ none then
            [(s.partyLanes, .phantomState i (s.phantoms.get i).phantom .idle (.ended .failed))]
          else [] := by
        refine List.flatMap_congr fun i _ => ?_
        unfold State.droppedTold
        rw [e4, show s2.partyLanes = s.partyLanes by unfold State.partyLanes; rw [e6]]
      rw [hd, ← List.append_assoc]
      rfl
    · exact if_pos ((hm i).mp hi)
  · rw [State.raiseChip, State.raise]
    rw [hf2, hf1]
    rfl

end Sys2Proof.Machine
end

