-- ==== Sys2Proof/Laws/Adoption.lean ====
section
/-! SUPPORT. What the adoption of a chip's inputs leaves (R56, R75, R76, R95, R110). -/

namespace Sys2Proof.Machine

theorem State.ownerLevel_eq (s : State) (i : Input) : s.ownerLevel i = s.levelOfOwner (s.own.get i).owner i := by
  unfold State.ownerLevel State.levelOfOwner State.levelOf
  cases (s.own.get i).owner <;> rfl

/-- What taking the owner level afresh does to moves and bus (R50). -/
theorem State.handOwnerTarget_pursue (s : State) (i : Input) :
    ((s.handOwnerTarget i).moves, (s.handOwnerTarget i).bus) =
      s.pursue i (s.levelOfOwner (s.own.get i).owner i) (s.own.get i).padChoice := by
  unfold State.handOwnerTarget State.pursue
  rw [State.ownerLevel_eq]
  split <;> simp_all

/-- The gain commands that an input's move has just put in the queue. -/
def MoveCtl.issued (i : Input) (m : MoveCtl) : List QueueEntry :=
  match m.move with
  | .queued a => [.write (.gain i a.pad a.p)]
  | .idle => []
  | .onWire _ => []
  | .landing _ _ => []

/-- A target handed over while the input is IDLE, as one change of its cell and of the queue. -/
theorem State.handTarget_idle (s : State) (i : Input) (a : Setting) (h : (s.moves.get i).move = .idle) :
    s.handTarget i a = { s with
      moves := s.moves.set i (MoveCtl.deal (s.holds i) a (s.moves.get i)).1
      bus := { s.bus with
        queue := s.bus.queue ++ (MoveCtl.deal (s.holds i) a (s.moves.get i)).1.issued i } } := by
  unfold State.handTarget
  congr 1
  unfold MoveCtl.deal
  rw [h]
  simp only [Move.inFlight]
  split
  · simp [MoveCtl.issued]
  · split
    · simp [MoveCtl.issued]
    · split
      · simp [MoveCtl.issued]
      · simp [MoveCtl.issued, Bus.addWrite]

/-- A target whose dealing changes nothing. -/
theorem State.handTarget_same (s : State) (i : Input) (a : Setting)
    (h : MoveCtl.deal (s.holds i) a (s.moves.get i) = (s.moves.get i, false)) : s.handTarget i a = s := by
  unfold State.handTarget
  rw [h]
  simp

/-- Dealing with the target that the same dealing has just left pending changes nothing more. -/
theorem State.dealPending_handTarget (s : State) (i : Input) (a : Setting) (h : (s.moves.get i).move = .idle)
    (hf : (s.moves.get i).failed = none) : (s.handTarget i a).dealPending i = s.handTarget i a := by
  have hd : (MoveCtl.deal (s.holds i) a (s.moves.get i)).1 =
      if a = (s.moves.get i).setting then { s.moves.get i with pending := none, failed := none }
      else if s.holds i then { s.moves.get i with pending := some a, failed := none }
      else { s.moves.get i with move := .queued a, pending := none, failed := none } := by
    unfold MoveCtl.deal
    rw [h]
    simp only [Move.inFlight, hf]
    split
    · rw [← h]
    · rw [if_neg (by simp)]
      split
      · rw [← h]
      · rfl
  have hc : ((s.handTarget i a).moves.get i) = (MoveCtl.deal (s.holds i) a (s.moves.get i)).1 := by
    simp [State.handTarget]
  unfold State.dealPending
  rw [hc, hd]
  by_cases h1 : a = (s.moves.get i).setting
  · simp [h1, h]
  · by_cases h2 : s.holds i = true
    · rw [if_neg h1, if_pos h2]
      simp only [h]
      have hm : (s.handTarget i a).moves.get i = { s.moves.get i with pending := some a, failed := none } := by
        rw [hc, hd, if_neg h1, if_pos h2]
      have hh : (s.handTarget i a).holds i = true := by
        rw [← h2]
        unfold State.holds
        rw [hm]
        rfl
      have hx : MoveCtl.deal ((s.handTarget i a).holds i) a ((s.handTarget i a).moves.get i) =
          ((s.handTarget i a).moves.get i, false) := by
        rw [hm, hh]
        simp [MoveCtl.deal, Move.inFlight, h, h1]
      exact State.handTarget_same _ _ _ hx
    · rw [if_neg h1, if_neg h2]

/-- What becomes of an input's cell when the part comes to know its setting and deals with a target (R61, R75). -/
def MoveCtl.adopted (hold : Bool) (t : Setting) (target : Option Setting) (m : MoveCtl) : MoveCtl :=
  match target with
  | some a => (MoveCtl.deal hold a { m with setting := t, failed := none, status := .known }).1
  | none => { m with setting := t, failed := none, status := .known }

/-- Dealing with a target leaves the setting as it is. -/
theorem MoveCtl.deal_setting (hold : Bool) (a : Setting) (m : MoveCtl) : (MoveCtl.deal hold a m).1.setting = m.setting := by
  unfold MoveCtl.deal
  split
  · rfl
  · split_ifs <;> rfl

/-- The moves and the bus after one input's adoption, from an input that is IDLE. -/
theorem State.adopt_moves (startUp : Bool) (i : Input) (w : Byte) (s : State) (h : (s.moves.get i).move = .idle) :
    let m := (s.moves.get i).adopted (decide ((s.phantoms.get i).seq ≠ .idle)) (wordSetting w) (s.adoptedTarget i)
    (s.adopt startUp i w).moves = s.moves.set i m ∧
      (s.adopt startUp i w).bus = { s.bus with queue := s.bus.queue ++ m.issued i } := by
  intro m
  let m0 : MoveCtl := { s.moves.get i with setting := wordSetting w, failed := none, status := .known }
  let s2 := if startUp then s.becomeKnown i (wordSetting w) else
    (s.becomeKnown i (wordSetting w)).raiseMoved i .adopted
  have hs2m : s2.moves = s.moves.set i m0 := by
    simp only [s2]
    split <;> simp [State.becomeKnown, State.modMove, Tab.modify, m0]
  have hs2b : s2.bus = s.bus := by simp only [s2]; split <;> simp
  have hs2p : s2.phantoms = s.phantoms := by simp only [s2]; split <;> simp
  have hs2o : s2.own = s.own := by simp only [s2]; split <;> simp
  have hs2l : s2.levelOfOwner (s2.own.get i).owner i = s.levelOfOwner (s.own.get i).owner i := by
    have hp : s2.pairs = (s.becomeKnown i (wordSetting w)).pairs := by simp only [s2]; split <;> simp
    rw [hs2o]
    unfold State.levelOfOwner
    cases (s.own.get i).owner with
    | none => rfl
    | some who =>
      simp only [State.levelOf]
      rw [State.pair?_congr hp]
      unfold State.becomeKnown
      rw [State.pair?_updatePairs, if_pos rfl]
      have hx : ((s.modMove i fun m => { m with setting := wordSetting w, failed := none, status := .known }).pair? who i)
          = s.pair? who i := rfl
      rw [hx]
      cases s.pair? who i <;> rfl
  have hm0 : s2.moves.get i = m0 := by rw [hs2m]; simp
  have hh2 : s2.holds i = decide ((s.phantoms.get i).seq ≠ .idle) := by
    unfold State.holds
    rw [hm0, hs2p]
    simp [m0]
  have hidle : (s2.moves.get i).move = .idle := by rw [hm0]; exact h
  have hfail : (s2.moves.get i).failed = none := by rw [hm0]
  have hgoal : ∀ u : State, u.moves = (s2.arbiterAdopts i).moves → u.bus = (s2.arbiterAdopts i).bus →
      u.phantoms = s2.phantoms → (u.dealPending i).moves = s.moves.set i m ∧
      (u.dealPending i).bus = { s.bus with queue := s.bus.queue ++ m.issued i } := by
    have direct : s.levelOfOwner (s.own.get i).owner i = none → ∀ u : State, u.moves = s2.moves → u.bus = s2.bus →
        u.phantoms = s2.phantoms → (u.dealPending i).moves = s.moves.set i m ∧
        (u.dealPending i).bus = { s.bus with queue := s.bus.queue ++ m.issued i } := by
      intro hl u h1 h2 h3
      have ht : s.adoptedTarget i = (s.moves.get i).pending := by unfold State.adoptedTarget; rw [hl]
      have hu : u.moves.get i = m0 := by rw [h1, hm0]
      have huh : u.holds i = decide ((s.phantoms.get i).seq ≠ .idle) := by
        rw [← hh2]; unfold State.holds; rw [h1, h3]
      cases hp : (s.moves.get i).pending with
      | none =>
        have hm : m = m0 := by simp only [m, ht, hp, MoveCtl.adopted, m0]
        have : u.dealPending i = u := by
          unfold State.dealPending
          rw [hu]
          simp only [m0, h, hp]
        rw [this, h1, hs2m, h2, hs2b, hm]
        refine ⟨rfl, ?_⟩
        simp [MoveCtl.issued, m0, h]
      | some b =>
        have hm : m = (MoveCtl.deal (decide ((s.phantoms.get i).seq ≠ .idle)) b m0).1 := by
          simp only [m, ht, hp, MoveCtl.adopted, m0]
        have : u.dealPending i = u.handTarget i b := by
          unfold State.dealPending
          rw [hu]
          simp only [m0, h, hp]
        rw [this, State.handTarget_idle _ _ _ (by rw [hu]; exact h), hu, huh]
        simp [hm, h1, h2, hs2m, hs2b]
    intro u h1 h2 h3
    cases hl : s.levelOfOwner (s.own.get i).owner i with
    | none =>
      refine direct hl u ?_ ?_ h3
      · rw [h1]
        unfold State.arbiterAdopts
        split
        · rfl
        · unfold State.handOwnerTarget
          rw [State.ownerLevel_eq, hs2l, hl]
      · rw [h2]
        unfold State.arbiterAdopts
        split
        · rfl
        · unfold State.handOwnerTarget
          rw [State.ownerLevel_eq, hs2l, hl]
    | some g =>
      have ho : ∃ who, (s2.own.get i).owner = some who := by
        rw [hs2o]
        cases hw : (s.own.get i).owner with
        | none => rw [hw] at hl; simp [State.levelOfOwner] at hl
        | some who => exact ⟨who, rfl⟩
      obtain ⟨who, hw⟩ := ho
      have ha : s2.arbiterAdopts i = s2.handTarget i (analogTarget g (s.own.get i).padChoice) := by
        unfold State.arbiterAdopts
        rw [hw]
        simp only [State.handOwnerTarget]
        rw [State.ownerLevel_eq, hs2l, hl, hs2o]
      have hd := State.dealPending_handTarget s2 i (analogTarget g (s.own.get i).padChoice) hidle hfail
      have hm : m = (MoveCtl.deal (decide ((s.phantoms.get i).seq ≠ .idle))
          (analogTarget g (s.own.get i).padChoice) m0).1 := by
        simp only [m, State.adoptedTarget, hl, MoveCtl.adopted, m0]
      rw [ha] at h1 h2
      have e1 : (u.dealPending i).moves = (((s2.handTarget i (analogTarget g (s.own.get i).padChoice)).dealPending i)).moves
          ∧ (u.dealPending i).bus = (((s2.handTarget i (analogTarget g (s.own.get i).padChoice)).dealPending i)).bus := by
        unfold State.dealPending
        rw [h1]
        split
        · simp only [State.handTarget, State.holds, h1, h2, h3]
          exact ⟨rfl, rfl⟩
        all_goals exact ⟨h1, h2⟩
      rw [e1.1, e1.2, hd, State.handTarget_idle _ _ _ hidle, hm0, hh2, ← hm]
      simp [hs2m, hs2b]
  exact hgoal (s2.arbiterAdopts i) rfl rfl (by simp)

/-- One input's adoption touches moves, bus, own, phantoms, pairs and the records queued. -/
theorem State.adopt_frame (startUp : Bool) (i : Input) (w : Byte) (s : State) :
    s.adopt startUp i w = { s with
      moves := (s.adopt startUp i w).moves, bus := (s.adopt startUp i w).bus, own := (s.adopt startUp i w).own
      phantoms := (s.adopt startUp i w).phantoms, pairs := (s.adopt startUp i w).pairs
      comm := (s.adopt startUp i w).comm } := by
  have h : ∀ t u : State, t.pending = u.pending → t.rate = u.rate → t.align = u.align → t.rx = u.rx → t.ports = u.ports →
      t.streams = u.streams → t.entries = u.entries → t.restart = u.restart → t.clock = u.clock → t.draws = u.draws →
      t = { u with moves := t.moves, bus := t.bus, own := t.own, phantoms := t.phantoms, pairs := t.pairs
                   comm := t.comm } := by
    rintro ⟨⟩ ⟨⟩
    intros
    simp_all
  apply h <;> simp

/-- The phantom state after one input's adoption (R95). -/
theorem State.adopt_phantoms (startUp : Bool) (i : Input) (w : Byte) (s : State) :
    (s.adopt startUp i w).phantoms = s.phantoms.modify i fun q => { q with phantom := phantomOf (wordPhantom w) } := by
  unfold State.adopt
  dsimp only
  split <;> simp [State.modPhantom]

/-- The arbiter's state after one input's adoption (R56). -/
theorem State.adopt_own (startUp : Bool) (i : Input) (w : Byte) (s : State) :
    (s.adopt startUp i w).own = s.own.modify i fun o =>
      if o.owner = none then { o with padChoice := wordPad w } else o := by
  have h : ∀ u : State, u.own = s.own → (u.moves.get i).setting.pad = wordPad w →
      (u.arbiterAdopts i).own = s.own.modify i fun o =>
        if o.owner = none then { o with padChoice := wordPad w } else o := by
    intro u h1 h2
    unfold State.arbiterAdopts
    rw [h1]
    cases ho : (s.own.get i).owner with
    | none => simp [State.modOwn, h1, h2, Tab.modify, ho]
    | some who =>
      rw [Tab.modify_id _ _ (by rw [ho]; simp)]
      simp [h1]
  unfold State.adopt
  dsimp only
  rw [show ∀ (u : State) f, (State.modPhantom i f u).own = u.own from fun _ _ => rfl, State.dealPending_own]
  apply h <;> split <;> simp [State.becomeKnown, State.modMove, wordSetting]

/-- The pairs after one input's adoption: retargeted and released on that input (R7, R75). -/
theorem State.adopt_pair? (startUp : Bool) (i j : Input) (w : Byte) (s : State) (who : Party) :
    (s.adopt startUp i w).pair? who j =
      if j = i then (s.pair? who j).map (Pair.retarget .known (wordSetting w).value) else s.pair? who j := by
  have h : (s.adopt startUp i w).pairs = (s.becomeKnown i (wordSetting w)).pairs := by
    unfold State.adopt
    dsimp only
    split <;> simp [State.modPhantom]
  rw [State.pair?_congr h]
  unfold State.becomeKnown
  rw [State.pair?_updatePairs]
  rfl

/-- The events of one input's adoption (R8, R80): its LIMIT events, and MOVED outside the start-up pass. -/
theorem State.adopt_comm (startUp : Bool) (i : Input) (w : Byte) (s t : State)
    (ht : (t.moves.get i).setting = wordSetting w)
    (h : ∀ who, t.pair? who i = (s.pair? who i).map (Pair.retarget .known (wordSetting w).value)) :
    (s.adopt startUp i w).comm = s.comm.tells (s.limitsTold t i ++
      if startUp then [] else [(s.partyLanes, .moved i .adopted (wordSetting w))]) := by
  have h1 : (s.becomeKnown i (wordSetting w)).comm = s.comm.tells (s.limitsTold t i) := by
    unfold State.becomeKnown
    refine (State.updatePairs_comm _ _ _ t ?_ fun who q hq => ?_).trans ?_
    · simp [State.analog, State.modMove, ht]
    · rw [h, show s.pair? who i = some q from hq]
      exact ⟨_, rfl, rfl, rfl, rfl⟩
    · rfl
  have h2 : ∀ u : State, ((u.arbiterAdopts i).dealPending i).comm = u.comm := fun u => by simp
  unfold State.adopt
  dsimp only
  rw [show ∀ (u : State) f, (State.modPhantom i f u).comm = u.comm from fun _ _ => rfl, h2, Comm.tells_append]
  cases startUp with
  | true => simpa using h1
  | false =>
    simp only [Bool.false_eq_true, if_false]
    rw [State.raiseMoved_comm, h1]
    congr 3
    simp [State.becomeKnown, State.modMove]

/-- What one input's cells hold, for a fold over inputs. -/
def State.cells (s : State) (i : Input) : MoveCtl × PhantomCtl × Ownership × (Party → Option Pair) :=
  (s.moves.get i, s.phantoms.get i, s.own.get i, fun who => s.pair? who i)

theorem State.adoptedTarget_of_cells {s t : State} {i : Input} (h : t.cells i = s.cells i) :
    t.adoptedTarget i = s.adoptedTarget i := by
  simp only [State.cells, Prod.mk.injEq] at h
  obtain ⟨h1, -, h3, h4⟩ := h
  unfold State.adoptedTarget State.levelOfOwner State.levelOf
  rw [h3, h1]
  cases (s.own.get i).owner with
  | none => rfl
  | some who => dsimp only; rw [show t.pair? who i = s.pair? who i from congrFun h4 who]

/-- What an IDLE input's cells hold once it has been adopted with a word. -/
def State.adoptedCells (s : State) (w : Byte) (i : Input) :
    MoveCtl × PhantomCtl × Ownership × (Party → Option Pair) :=
  ((s.moves.get i).adopted (decide ((s.phantoms.get i).seq ≠ .idle)) (wordSetting w) (s.adoptedTarget i),
    { s.phantoms.get i with phantom := phantomOf (wordPhantom w) },
    if (s.own.get i).owner = none then { s.own.get i with padChoice := wordPad w } else s.own.get i,
    fun who => (s.pair? who i).map (Pair.retarget .known (wordSetting w).value))

theorem State.adoptedCells_of_cells {s t : State} {i : Input} (h : t.cells i = s.cells i) (w : Byte) :
    t.adoptedCells w i = s.adoptedCells w i := by
  unfold State.adoptedCells
  rw [State.adoptedTarget_of_cells h]
  simp only [State.cells, Prod.mk.injEq] at h
  obtain ⟨h1, h2, h3, h4⟩ := h
  rw [h1, h2, h3]
  congr
  funext who
  rw [show t.pair? who i = s.pair? who i from congrFun h4 who]

/-- Adoption of inputs without repeats, from IDLE inputs: the cells of each, and the gain commands issued. -/
theorem State.adopts_cells (startUp : Bool) (sh : Tab 48 Byte) (l : List Input) (hl : l.Nodup) (s : State)
    (hs : s.bus.shadow = sh) (hi : ∀ i ∈ l, (s.moves.get i).move = .idle) :
    let t := l.foldl (fun acc i => acc.adopt startUp i (acc.bus.shadow.get i)) s
    (∀ i ∈ l, t.cells i = s.adoptedCells (sh.get i) i) ∧
    (∀ i, i ∉ l → t.cells i = s.cells i) ∧
    t.bus = { s.bus with queue := s.bus.queue ++ l.flatMap fun i => (t.moves.get i).issued i } ∧
    t = { s with moves := t.moves, bus := t.bus, own := t.own, phantoms := t.phantoms, pairs := t.pairs
                 comm := t.comm } ∧
    t.comm = s.comm.tells (l.flatMap fun i => s.limitsTold t i ++
      if startUp then [] else [(s.partyLanes, .moved i .adopted (t.moves.get i).setting)]) := by
  induction l generalizing s with
  | nil => simp [Comm.tells]
  | cons a l ih =>
    obtain ⟨ha, hl⟩ := List.nodup_cons.mp hl
    have hia := hi a List.mem_cons_self
    obtain ⟨hm, hb⟩ := State.adopt_moves startUp a (s.bus.shadow.get a) s hia
    have hp := State.adopt_phantoms startUp a (s.bus.shadow.get a) s
    have ho := State.adopt_own startUp a (s.bus.shadow.get a) s
    have hq := State.adopt_pair? startUp a
    have hf := State.adopt_frame startUp a (s.bus.shadow.get a) s
    have hcm := State.adopt_comm startUp a (s.bus.shadow.get a) s
    intro t
    have ht : t = l.foldl (fun acc i => acc.adopt startUp i (acc.bus.shadow.get i))
        (s.adopt startUp a (s.bus.shadow.get a)) := rfl
    have hother : ∀ i, i ≠ a → (s.adopt startUp a (s.bus.shadow.get a)).cells i = s.cells i := by
      intro i hne
      unfold State.cells
      rw [hm, hp, ho]
      simp [Tab.get_set, Tab.get_modify, hne, hq]
    have hself : (s.adopt startUp a (s.bus.shadow.get a)).cells a = s.adoptedCells (s.bus.shadow.get a) a := by
      unfold State.cells State.adoptedCells
      rw [hm, hp, ho]
      simp only [Tab.get_set, Tab.get_modify, if_true, hq]
    generalize s.adopt startUp a (s.bus.shadow.get a) = u at *
    have hu := ih hl u (by rw [hb]; exact hs) (fun i hil => by
      have hne : i ≠ a := fun h => ha (h ▸ hil)
      have := hother i hne
      simp only [State.cells, Prod.mk.injEq] at this
      rw [this.1]
      exact hi i (List.mem_cons_of_mem _ hil))
    rw [← ht] at hu
    obtain ⟨h1, h2, h3, h4, h5⟩ := hu
    rw [hs] at *
    refine ⟨fun i hil => ?_, fun i hil => ?_, ?_, ?_, ?_⟩
    · rcases List.mem_cons.mp hil with rfl | hil
      · rw [h2 _ ha, hself]
      · have hne : i ≠ a := fun h => ha (h ▸ hil)
        rw [h1 i hil, State.adoptedCells_of_cells (hother i hne)]
    · simp only [List.mem_cons, not_or] at hil
      rw [h2 i hil.2, hother i hil.1]
    · have hta : t.moves.get a = u.moves.get a := by
        have := h2 a ha
        simp only [State.cells, Prod.mk.injEq] at this
        exact this.1
      rw [h3, hb]
      simp only [List.flatMap_cons, hta, hm, Tab.get_set, if_true, List.append_assoc]
    · rw [h4, hf]
    · have hta := (h2 a ha).trans hself
      simp only [State.cells, State.adoptedCells, Prod.mk.injEq] at hta
      have hset : (t.moves.get a).setting = wordSetting (sh.get a) := by
        rw [hta.1]
        unfold MoveCtl.adopted
        split
        · rw [MoveCtl.deal_setting]
        · rfl
      have hpl : u.partyLanes = s.partyLanes := by unfold State.partyLanes; rw [hf]
      rw [h5, hcm t hset (fun who => congrFun hta.2.2.2 who), List.flatMap_cons, hset, ← Comm.tells_append]
      refine congrArg (fun es => s.comm.tells es) (congrArg (List.append _) ?_)
      refine List.flatMap_congr fun i hil => ?_
      have hne : i ≠ a := fun h => ha (h ▸ hil)
      have hcell := hother i hne
      simp only [State.cells, Prod.mk.injEq] at hcell
      rw [hpl]
      congr 1
      unfold State.limitsTold
      congr 1
      funext who
      rw [show u.pair? who i = s.pair? who i from congrFun hcell.2.2.2 who,
        show u.lanesOf who = s.lanesOf who by unfold State.lanesOf; rw [hf]]

/-- The shadows after a chip's words have been taken (R100, R110). -/
theorem Bus.takeWords_shadow (c : Chip) (ws : List Byte) (b : Bus) :
    (∀ k w, ws[k.val]? = some w → (Bus.takeWords c ws b).shadow.get (inputAt c k) = w) ∧
      ∀ i, chipOf i ≠ c → (Bus.takeWords c ws b).shadow.get i = b.shadow.get i := by
  have h : ∀ (l : List Channel), l.Nodup → ∀ sh : Tab 48 Byte,
      (∀ k ∈ l, ∀ w, ws[k.val]? = some w → (l.foldl (fun sh k => match ws[k.val]? with
        | some w => sh.set (inputAt c k) w
        | none => sh) sh).get (inputAt c k) = w) ∧
      ∀ i, (∀ k ∈ l, i ≠ inputAt c k) → (l.foldl (fun sh k => match ws[k.val]? with
        | some w => sh.set (inputAt c k) w
        | none => sh) sh).get i = sh.get i := by
    intro l
    induction l with
    | nil => simp
    | cons a l ih =>
      intro hl sh
      obtain ⟨ha, hl⟩ := List.nodup_cons.mp hl
      obtain ⟨h1, h2⟩ := ih hl (match ws[a.val]? with
        | some w => sh.set (inputAt c a) w
        | none => sh)
      refine ⟨fun k hk w hw => ?_, fun i hi => ?_⟩
      · rcases List.mem_cons.mp hk with rfl | hk
        · rw [List.foldl_cons, h2 _ fun k' hk' he => by
            have : k = k' := by rw [← channelOf_inputAt c k, he, channelOf_inputAt]
            exact ha (this ▸ hk')]
          simp [hw]
        · rw [List.foldl_cons]
          exact h1 k hk w hw
      · rw [List.foldl_cons, h2 _ fun k hk => hi k (List.mem_cons_of_mem _ hk)]
        have := hi a List.mem_cons_self
        split
        · rw [Tab.get_set, if_neg this]
        · rfl
  obtain ⟨h1, h2⟩ := h (List.finRange 8) (List.nodup_finRange 8) b.shadow
  refine ⟨fun k w hw => h1 k (List.mem_finRange k) w hw, fun i hi => h2 i fun k _ he => hi ?_⟩
  rw [he, chipOf_inputAt]

/-- What a retarget on a KNOWN input does to a pair (R5, R6, R10). -/
theorem Pair.retarget_retargeted (a : Int) (q : Pair) : q.retargeted a (Pair.retarget .known a q) := by
  refine ⟨?_, rfl⟩
  unfold Pair.retarget Pair.settleTrim trimTarget
  rfl

/-- Everything the adoption of a chip's eight words does (R110). -/
theorem State.adoptChip_adopted (startUp : Bool) (c : Chip) (ws : List Byte) (s : State)
    (hi : ∀ i, chipOf i = c → (s.moves.get i).move = .idle) :
    s.chipAdopted startUp c ws (s.adoptChip startUp c ws) := by
  have hl := chipInputs_nodup c
  have hmem := mem_chipInputs c
  obtain ⟨hw1, hw2⟩ := Bus.takeWords_shadow c ws s.bus
  unfold State.adoptChip State.chipAdopted
  generalize chipInputs c = l at hl hmem
  have h := State.adopts_cells startUp (Bus.takeWords c ws s.bus).shadow l hl
    (s.modBus fun b => { Bus.takeWords c ws b with chips := b.chips.set c .ok, probe := [] }) rfl
    (fun i hil => hi i ((hmem i).mp hil))
  dsimp only at h ⊢
  generalize l.foldl (fun acc i => acc.adopt startUp i (acc.bus.shadow.get i))
    (s.modBus fun b => { Bus.takeWords c ws b with chips := b.chips.set c .ok, probe := [] }) = u at h ⊢
  obtain ⟨h1, h2, h3, h4, h5⟩ := h
  have hq : (l.flatMap fun i => (u.moves.get i).issued i) = l.filterMap fun i => match (u.moves.get i).move with
      | .queued a => some (.write (.gain i a.pad a.p))
      | .idle => none
      | .onWire _ => none
      | .landing _ _ => none := by
    clear h1 h2 h3 h4 h5 hi hmem hl
    induction l with
    | nil => rfl
    | cons a l ih =>
      rw [List.flatMap_cons, List.filterMap_cons, ih]
      unfold MoveCtl.issued
      cases (u.moves.get a).move <;> rfl
  have hbus : u.bus = { s.bus with
      chips := s.bus.chips.set c .ok, probe := [], shadow := (Bus.takeWords c ws s.bus).shadow
      queue := s.bus.queue ++ l.filterMap fun i => match (u.moves.get i).move with
        | .queued a => some (.write (.gain i a.pad a.p))
        | .idle => none
        | .onWire _ => none
        | .landing _ _ => none } := by
    rw [h3, hq]
    rfl
  refine ⟨?_, fun k w hk => ?_, fun i hc => ?_, ?_, ?_⟩
  · have hs : (u.raiseChip c).bus.shadow = (Bus.takeWords c ws s.bus).shadow := by
      show u.bus.shadow = _
      rw [hbus]
    rw [hs]
    exact hbus
  · have hc := h1 (inputAt c k) ((hmem _).mpr (chipOf_inputAt c k))
    rw [hw1 k w hk] at hc
    simp only [State.cells, State.adoptedCells, Prod.mk.injEq] at hc
    obtain ⟨c1, c2, c3, c4⟩ := hc
    refine ⟨?_, ?_, c2, c3, fun who q hq => ?_⟩
    · show u.bus.shadow.get _ = _
      rw [hbus]
      exact hw1 k w hk
    · exact c1
    · have hp := congrFun c4 who
      refine ⟨Pair.retarget .known (wordSetting w).value q, ?_, Pair.retarget_retargeted _ q⟩
      refine Eq.trans hp ?_
      rw [show (s.modBus fun b => { Bus.takeWords c ws b with chips := b.chips.set c .ok, probe := [] }).pair? who
        (inputAt c k) = some q from hq]
      rfl
  · have hn : i ∉ l := fun h => hc ((hmem i).mp h)
    have hcell := h2 i hn
    simp only [State.cells, Prod.mk.injEq] at hcell
    obtain ⟨c1, c2, c3, c4⟩ := hcell
    refine ⟨?_, c1, c2, c3, fun who => congrFun c4 who⟩
    show u.bus.shadow.get i = _
    rw [hbus]
    exact hw2 i hc
  · rw [State.raiseChip_comm, h5, Comm.tells_append, show u.bus.chips.get c = .ok by rw [hbus]; simp]
    rfl
  · rw [State.raiseChip, State.raise]
    rw [h4]
    rfl

end Sys2Proof.Machine
end

