-- ==== Sys2Proof/Laws/Links.lean ====
section
/-! SUPPORT. What the operations of a lane and of a link negotiator leave in the fields they change. -/

namespace Sys2Proof.Machine

/-- A receiving side after a lane flush (R161). -/
def RxSide.flushed (r : RxSide) : RxSide :=
  { r with queue := [], overrunPending := false, gapRef := none, framer := .hunt }

theorem State.flushLane_rx (l : LaneId) (s : State) : (s.flushLane l).rx = s.rx.modify l.idx RxSide.flushed := rfl

theorem State.flushLane_comm (l : LaneId) (s : State) :
    (s.flushLane l).comm = { s.comm with tx := s.comm.tx.modify l.idx fun t => { t with queue := [] } } := rfl

theorem State.enterHold_rx (p : Port) (flags : Tab 12 Bool) (stamp : Nat) (s : State) :
    (s.enterHold p flags stamp).rx = s.rx.modify (LaneId.split p).idx RxSide.flushed := by
  simp [State.enterHold, State.flushLane_rx]

theorem State.enterHold_ports (p : Port) (flags : Tab 12 Bool) (stamp : Nat) (s : State) :
    (s.enterHold p flags stamp).ports =
      s.ports.modify p fun q => { q.discardAll.goTo .hold with timer := some (.hold, s.clock) } := by
  simp [State.enterHold, State.modPort]

theorem State.enterDown_rx (p : Port) (flags : Tab 12 Bool) (stamp : Nat) (s : State) :
    (s.enterDown p flags stamp).rx = s.rx.modify (LaneId.split p).idx RxSide.flushed := by
  simp [State.enterDown, State.flushLane_rx]

theorem State.enterDown_ports (p : Port) (flags : Tab 12 Bool) (stamp : Nat) (s : State) :
    (s.enterDown p flags stamp).ports = s.ports.modify p fun q => q.discardAll.goTo .down := by
  simp [State.enterDown, State.modPort]

theorem State.enterOffer_ports (p : Port) (s : State) :
    (s.enterOffer p).ports = s.ports.modify p fun q =>
      { q.discardAll.goTo .offer with nonce := some (Config.freeNonce s.draws), timer := some (.offerWait, s.clock) } :=
  rfl

theorem State.enterOffer_draws (p : Port) (s : State) : (s.enterOffer p).draws = s.draws + 1 := rfl

theorem State.enterFault_ports (p : Port) (why : Reason) (tag : Byte) (nonce : BitVec 32) (s : State) :
    (s.enterFault p why tag nonce).ports = s.ports.modify p fun q =>
      { (LinkPort.latch why.flag q).discardAll.goTo .fault with timer := some (.rebindInhibit, s.clock) } := by
  simp [State.enterFault, State.modPort]

theorem State.leaveBound_streams (p : Port) (stamp : Nat) (s : State) :
    (s.leaveBound p stamp).streams = s.streams.set p Stream.atPowerOn := rfl

theorem State.leaveBound_entries (p : Port) (stamp : Nat) (s : State) :
    (s.leaveBound p stamp).entries = (s.unbind p stamp).entries := rfl

theorem State.leaveBound_own (p : Port) (stamp : Nat) (s : State) :
    (s.leaveBound p stamp).own = (s.unbind p stamp).own := rfl

/-! ## Entries and exits -/

/-- The entry that `seatOf` finds holds the port. -/
theorem seatOf_get (e : Tab 6 (Option Consumer)) (p : Port) (k : Seat) (h : seatOf e p = some k) :
    ∃ c, e.get k = some c ∧ p ∈ c.ports := by
  have := List.find?_some h
  split at this
  · rename_i c hc; exact ⟨c, hc, by simpa using this⟩
  · cases this

/-- The next stamp is later than that of every keep timer that runs (R24). -/
theorem State.nextStamp_later (s : State) : s.laterStamp s.nextStamp := by
  have hmax : ∀ (l : List Seat) (f : Seat → Nat) (acc : Nat),
      acc ≤ l.foldl (fun acc k => max acc (f k)) acc ∧ ∀ k ∈ l, f k ≤ l.foldl (fun acc k => max acc (f k)) acc := by
    intro l f
    induction l with
    | nil => simp
    | cons a l ih =>
      intro acc
      obtain ⟨h1, h2⟩ := ih (max acc (f a))
      exact ⟨le_trans (le_max_left _ _) h1,
        List.forall_mem_cons.mpr ⟨le_trans (le_max_right _ _) h1, h2⟩⟩
  intro k c since n hc hp
  have h := (hmax allSeats (fun k => (keepStampOf s.entries k).getD 0) 0).2 k (List.mem_finRange k)
  have hn : (keepStampOf s.entries k).getD 0 = n := by
    simp [keepStampOf, hc, hp, Presence.isKeeping, Presence.stamp]
  unfold State.nextStamp
  omega

/-- What a port that may have been BOUND leaves behind (R28, R124, R143). -/
theorem State.leaveIfBound_portLeft (p : Port) (stamp : Nat) (s : State) (hst : s.laterStamp stamp) :
    s.portLeft p (s.leaveIfBound p stamp) := by
  unfold State.portLeft State.leaveIfBound
  split
  · rename_i hb
    refine ⟨rfl, ?_⟩
    cases hk : seatOf s.entries p with
    | none => simp [State.leaveBound, State.unbind, hk]
    | some k =>
      intro c hc
      simp only [State.leaveBound, State.unbind, hk, hc, Option.map_some, Consumer.losePort]
      refine ⟨fun h => ?_, fun h => ⟨stamp, hst, ?_⟩⟩
      · simp [List.isEmpty_iff, h]
      · simp only [h]
        exact ⟨rfl, rfl⟩
  · exact ⟨rfl, rfl, rfl⟩

/-- `portLeft` depends on the second state through the fields named here. -/
theorem State.portLeft.congr_right {p : Port} {s t t' : State} (h : s.portLeft p t)
    (h1 : t'.streams = t.streams) (h2 : t'.entries = t.entries) (h3 : t'.own = t.own) : s.portLeft p t' := by
  unfold State.portLeft at *
  rw [h1, h2, h3]; exact h

/-- `portLeft` depends on the first state through the fields named here. -/
theorem State.portLeft.congr_left {p : Port} {s s' t : State} (h : s.portLeft p t)
    (h0 : (s'.ports.get p).state = (s.ports.get p).state) (h1 : s'.streams = s.streams) (h2 : s'.entries = s.entries)
    (h3 : s'.own = s.own) (h4 : s'.clock = s.clock) : s'.portLeft p t := by
  unfold State.portLeft State.laterStamp at *
  rw [h0, h1, h2, h3, h4]; exact h

/-- The lane and the stale set of a port that leaves for HOLD or DOWN, before its LINK event (R161, R177). -/
theorem State.leaving_comm (p : Port) (stamp : Nat) (b : Bool) (s : State) :
    ((((s.leaveIfBound p stamp).flushLane (.split p)).driveBreak (.split p) b).clearStale p).comm =
      s.comm.flushed p b := by
  have h : (s.leaveIfBound p stamp).comm.tx = s.comm.tx ∧
      (s.leaveIfBound p stamp).comm.stale.set p (Tab.const 48 false) = s.comm.stale.set p (Tab.const 48 false) ∧
      (s.leaveIfBound p stamp).comm =
        { s.comm with tx := s.comm.tx, stale := (s.leaveIfBound p stamp).comm.stale } := by
    unfold State.leaveIfBound
    split
    · refine ⟨rfl, ?_, rfl⟩
      apply Tab.ext_get
      intro q
      by_cases hq : q = p <;> simp [State.leaveBound, Tab.get_set, hq]
    · exact ⟨rfl, rfl, rfl⟩
  obtain ⟨h1, h2, h3⟩ := h
  simp only [State.clearStale, State.driveBreak, State.modTx, State.flushLane, State.modRx, Comm.flushed]
  rw [h2, h3]
  congr 1
  apply Tab.ext_get
  intro n
  by_cases hn : n = p.succ <;> simp [Tab.get_set, Tab.get_modify, LaneId.idx, hn]

/-- Everything an entry to HOLD does (R133). -/
theorem State.enterHold_entered (p : Port) (flags : Tab 12 Bool) (stamp : Nat) (s : State)
    (hst : s.laterStamp stamp) :
    s.enteredHold p (s.ports.get p) flags (s.enterHold p flags stamp) := by
  refine ⟨?_, ?_, ?_, ?_, ?_⟩
  · rw [State.enterHold_ports]; rfl
  · rw [State.enterHold_rx]; rfl
  · unfold State.enterHold
    rw [State.raiseLink_comm]
    rw [← State.leaving_comm p stamp true s]
    simp [State.modPort, LinkPort.goTo]
  · apply State.portLeft.congr_right (State.leaveIfBound_portLeft p stamp s hst) <;> simp [State.enterHold]
  · simp [State.enterHold, State.raiseLink, State.raise, State.modPort, State.clearStale, State.driveBreak,
    State.modTx, State.flushLane, State.modRx]

/-- Everything an entry to HOLD does after a flag has been latched (R133, R144). -/
theorem State.enterHold_latched (p : Port) (f : LinkFlag) (flags : Tab 12 Bool) (stamp : Nat) (s : State)
    (hst : s.laterStamp stamp) :
    s.enteredHold p { s.ports.get p with flags := (s.ports.get p).flags.set f.bit true } flags
      ((s.modPort p (LinkPort.latch f)).enterHold p flags stamp) := by
  obtain ⟨a, b, c, e, g⟩ := State.enterHold_entered p flags stamp (s.modPort p (LinkPort.latch f)) hst
  refine ⟨?_, b, ?_, ?_, ?_⟩
  · rw [a]; simp [State.modPort, Tab.modify, LinkPort.latch]
  · rw [c]; simp [State.modPort, LinkPort.latch]
  · apply State.portLeft.congr_left e <;> simp [State.modPort, LinkPort.latch]
  · rw [g]; simp [State.modPort]

/-- Everything an entry to DOWN does (R131). -/
theorem State.enterDown_entered (p : Port) (flags : Tab 12 Bool) (stamp : Nat) (s : State)
    (hst : s.laterStamp stamp) :
    s.enteredDown p (s.ports.get p) flags (s.enterDown p flags stamp) := by
  refine ⟨?_, ?_, ?_, ?_, ?_⟩
  · rw [State.enterDown_ports]; rfl
  · rw [State.enterDown_rx]; rfl
  · unfold State.enterDown
    rw [State.raiseLink_comm]
    rw [← State.leaving_comm p stamp false s]
    simp [State.modPort, LinkPort.goTo]
  · apply State.portLeft.congr_right (State.leaveIfBound_portLeft p stamp s hst) <;> simp [State.enterDown]
  · simp [State.enterDown, State.raiseLink, State.raise, State.modPort, State.clearStale, State.driveBreak,
    State.modTx, State.flushLane, State.modRx]

/-- Everything an entry to OFFER does (R134). -/
theorem State.enterOffer_entered (p : Port) (s : State) : s.enteredOffer p (s.ports.get p) (s.enterOffer p) := by
  refine ⟨?_, rfl, ?_, ?_⟩
  · rw [State.enterOffer_ports]; rfl
  · unfold State.enterOffer State.send
    dsimp only
    rw [State.raiseLink_comm]
    simp [State.modPort, LinkPort.goTo]
  · simp [State.enterOffer, State.raiseLink, State.raise, State.modPort, State.send]

/-- Everything an entry to FAULT does from a port that is not BOUND (R135, R142). -/
theorem State.enterFault_entered (p : Port) (why : Reason) (tag : Byte) (nonce : BitVec 32) (s : State)
    (h : (s.ports.get p).state ≠ .bound) :
    s.enterFault p why tag nonce =
      { s with
        ports := s.ports.set p
          { s.ports.get p with
            state := .fault, timer := some (.rebindInhibit, s.clock), nonce := none, page := none, resolved := none
            history := (s.ports.get p).history.set 5 true
            flags := (s.ports.get p).flags.set why.flag.bit true }
        comm := (s.comm.queueFrame (.split p) (refuseBody tag why nonce)).tells
          [([.panel], .link p .fault (s.ports.get p).state (oneFlag why.flag))] } := by
  have hl : (s.send (.split p) (refuseBody tag why nonce)).leaveIfBound p s.nextStamp =
      s.send (.split p) (refuseBody tag why nonce) := by
    unfold State.leaveIfBound
    exact if_neg h
  unfold State.enterFault
  rw [hl]
  simp [State.raiseLink, State.raise, State.modPort, State.send, Comm.tells, Tab.modify, LinkPort.goTo,
    LinkPort.latch, LinkPort.discardAll, PortState.bit]

end Sys2Proof.Machine
end

