-- ==== Sys2Proof/Laws/Records.lean ====
section
/-! SUPPORT. The taking of a record: what keeps a property through it, and what a record that is taken at once leaves. -/

namespace Sys2Proof.Machine

/-- What every reply and every request's own part keep, the order of checks keeps. -/
theorem State.checkRequest_inv (P : State → Prop) (hr : ∀ l body (s : State), P s → P (s.send l body))
    (hrun : ∀ l tag who k fields (s : State), P s → s.boundRequester l = some who →
      P (s.runRequest l tag who k fields)) (l : LaneId) (kind tag : Byte)
    (fields : List Byte) (s : State) (hs : P s) : P (s.checkRequest l kind tag fields) := by
  unfold State.checkRequest
  split
  · exact hr _ _ _ hs
  · split
    · exact hr _ _ _ hs
    · split
      · exact hr _ _ _ hs
      · split
        · exact hr _ _ _ hs
        · split
          · exact hr _ _ _ hs
          · exact hrun _ _ _ _ _ _ hs ‹_›

/-- What every reply, every request's own part and every act of a link negotiator on a record keep, the taking of a
record keeps. -/
theorem State.takeRecord_inv (P : State → Prop) (hr : ∀ l body (s : State), P s → P (s.send l body))
    (hrun : ∀ l tag who k fields (s : State), P s → s.boundRequester l = some who →
      P (s.runRequest l tag who k fields))
    (hignore : ∀ l (s : State), P s → P (s.ignore l))
    (hreoffer : ∀ p tag o (s : State), P s → (s.ports.get p).state = .bound → P (s.reoffer p tag o))
    (hresolve : ∀ p tag o (s : State), P s → ((s.ports.get p).state = .offer ∨ (s.ports.get p).state = .confirm) →
      P (s.resolveOffer p tag o))
    (hmatch : ∀ p tag c (s : State), P s → (s.ports.get p).state = .confirm → P (s.matchConfirm p tag c)) (l : LaneId) (kind tag : Byte)
    (fields : List Byte) (s : State) (hs : P s) : P (s.takeRecord l kind tag fields) := by
  have hc := fun l s hs => State.checkRequest_inv P hr hrun l kind tag fields s hs
  have ho : ∀ p (s : State), P s → ((s.ports.get p).state = .offer ∨ (s.ports.get p).state = .confirm ∨
      (s.ports.get p).state = .bound) → P (s.takeOffer p tag fields) := by
    intro p s hs hst
    unfold State.takeOffer
    split
    · exact hr _ _ _ hs
    · split
      · rename_i hb
        exact hreoffer _ _ _ _ hs hb
      · rename_i hb
        refine hresolve _ _ _ _ hs ?_
        rcases hst with h | h | h
        · exact .inl h
        · exact .inr h
        · exact absurd h hb
  have hf : ∀ p (s : State), P s → (s.ports.get p).state = .confirm → P (s.takeConfirm p tag fields) := by
    intro p s hs hst
    unfold State.takeConfirm
    split
    · exact hr _ _ _ hs
    · exact hmatch _ _ _ _ hs hst
  cases l with
  | panel => exact hc _ _ hs
  | split p =>
    unfold State.takeRecord State.takeOnSplit
    dsimp only
    split
    · exact hignore _ _ hs
    · exact hignore _ _ hs
    · exact hignore _ _ hs
    · rename_i hst
      split
      · exact ho _ _ hs (.inl hst)
      · split
        · exact hignore _ _ hs
        · exact hc _ _ hs
    · rename_i hst
      split
      · exact ho _ _ hs (.inr (.inl hst))
      · split
        · exact hf _ _ hs hst
        · exact hc _ _ hs
    · rename_i hst
      split
      · exact ho _ _ hs (.inr (.inr hst))
      · split
        · exact hignore _ _ hs
        · exact hc _ _ hs

/-- A record that arrives on a lane that takes it at once: it is handled, and the framer reads on. -/
theorem State.deliver_taken (l : LaneId) (kind tag : Byte) (fields : List Byte) (s : State) (h : s.takesAtOnce l) :
    s.deliver l kind tag fields =
      State.modRx l (fun r => { r with framer := .hunt })
        ((s.modRx l fun r => { r with framer := .held (kind :: tag :: fields) }).takeRecord l kind tag fields) := by
  obtain ⟨hf, hq, hc, hd⟩ := h
  have hd : s.deliver l kind tag fields =
      (s.modRx l fun r => { r with framer := .held (kind :: tag :: fields) }).service l := by
    unfold State.deliver
    rw [hd, if_neg (by decide)]
    split
    · rename_i b hb; rw [hb] at hf; simp [Framer.isFree] at hf
    · rfl
  have hq1 : ((s.modRx l fun r => { r with framer := .held (kind :: tag :: fields) }).rx.get l.idx).queue = [] := by
    simp [State.modRx, hq]
  have hf1 : ((s.modRx l fun r => { r with framer := .held (kind :: tag :: fields) }).rx.get l.idx).framer =
      .held (kind :: tag :: fields) := by simp [State.modRx]
  have hc1 : (s.modRx l fun r => { r with framer := .held (kind :: tag :: fields) }).canTake l = true := by
    exact hc
  rw [hd]
  unfold State.service
  rw [hq1]
  simp only [List.length_nil, Nat.mul_zero, State.readOn, hf1, hc1, if_true]
  rfl

/-- What a lane that takes a record at once leaves, where the handling depends on nothing of the lane's framer. -/
theorem State.deliver_eq (l : LaneId) (kind tag : Byte) (fields : List Byte) (s t : State) (h : s.takesAtOnce l)
    (ht : (s.modRx l fun r => { r with framer := .held (kind :: tag :: fields) }).takeRecord l kind tag fields = t) :
    s.deliver l kind tag fields = t.modRx l fun r => { r with framer := .hunt } := by
  rw [State.deliver_taken _ _ _ _ _ h, ht]

end Sys2Proof.Machine
end

