-- ==== Sys2Proof/Laws/Waiting.lean ====
section
/-! SUPPORT. The handling of a record reads and changes the receiving sides of the lanes nowhere but in QUERY_LANE and in the
flushes of split lanes: `State.op_mapRx` says that the operation `op` goes past a change of the receiving sides. What a held
record does is therefore the same whatever characters wait behind it on its lane (`State.takeHeld_withQueue`). -/

namespace Sys2Proof.Machine

/-- The receiving sides of the lanes changed, and nothing else. -/
def State.mapRx (g : Tab 7 RxSide → Tab 7 RxSide) (s : State) : State := { s with rx := g s.rx }

variable (g : Tab 7 RxSide → Tab 7 RxSide)

/-! ## What the operations read -/

@[simp] theorem State.mapRx_pending (s : State) : (s.mapRx g).pending = s.pending := rfl
@[simp] theorem State.mapRx_rate (s : State) : (s.mapRx g).rate = s.rate := rfl
@[simp] theorem State.mapRx_align (s : State) : (s.mapRx g).align = s.align := rfl
@[simp] theorem State.mapRx_comm (s : State) : (s.mapRx g).comm = s.comm := rfl
@[simp] theorem State.mapRx_ports (s : State) : (s.mapRx g).ports = s.ports := rfl
@[simp] theorem State.mapRx_streams (s : State) : (s.mapRx g).streams = s.streams := rfl
@[simp] theorem State.mapRx_entries (s : State) : (s.mapRx g).entries = s.entries := rfl
@[simp] theorem State.mapRx_pairs (s : State) : (s.mapRx g).pairs = s.pairs := rfl
@[simp] theorem State.mapRx_own (s : State) : (s.mapRx g).own = s.own := rfl
@[simp] theorem State.mapRx_moves (s : State) : (s.mapRx g).moves = s.moves := rfl
@[simp] theorem State.mapRx_phantoms (s : State) : (s.mapRx g).phantoms = s.phantoms := rfl
@[simp] theorem State.mapRx_bus (s : State) : (s.mapRx g).bus = s.bus := rfl
@[simp] theorem State.mapRx_restart (s : State) : (s.mapRx g).restart = s.restart := rfl
@[simp] theorem State.mapRx_clock (s : State) : (s.mapRx g).clock = s.clock := rfl
@[simp] theorem State.mapRx_draws (s : State) : (s.mapRx g).draws = s.draws := rfl
@[simp] theorem State.mapRx_rx (s : State) : (s.mapRx g).rx = g s.rx := rfl
@[simp] theorem State.mapRx_pair (who : Party) (i : Input) (s : State) : (s.mapRx g).pair? who i = s.pair? who i := rfl
@[simp] theorem State.mapRx_requester (l : LaneId) (s : State) : (s.mapRx g).requester l = s.requester l := rfl
@[simp] theorem State.mapRx_identityOf (who : Party) (s : State) : (s.mapRx g).identityOf who = s.identityOf who := rfl
@[simp] theorem State.mapRx_ownerCode (o : Option Party) (s : State) : (s.mapRx g).ownerCode o = s.ownerCode o := rfl
@[simp] theorem State.mapRx_lanesOf (who : Party) (s : State) : (s.mapRx g).lanesOf who = s.lanesOf who := rfl
@[simp] theorem State.mapRx_partyLanes (s : State) : (s.mapRx g).partyLanes = s.partyLanes := rfl
@[simp] theorem State.mapRx_analog (i : Input) (s : State) : (s.mapRx g).analog i = s.analog i := rfl
@[simp] theorem State.mapRx_stateBlock (who : Party) (i : Input) (s : State) :
    (s.mapRx g).stateBlock who i = s.stateBlock who i := rfl
@[simp] theorem State.mapRx_nextStamp (s : State) : (s.mapRx g).nextStamp = s.nextStamp := rfl
@[simp] theorem State.mapRx_ownerLevel (i : Input) (s : State) : (s.mapRx g).ownerLevel i = s.ownerLevel i := rfl
@[simp] theorem State.mapRx_roleOf (who : Party) (s : State) : (s.mapRx g).roleOf who = s.roleOf who := rfl
@[simp] theorem State.mapRx_consumerPayload (b : Byte) (s : State) :
    (s.mapRx g).consumerPayload b = s.consumerPayload b := rfl
@[simp] theorem State.mapRx_busyInput (i : Input) (s : State) : (s.mapRx g).busyInput i = s.busyInput i := rfl
@[simp] theorem State.mapRx_resolve (o : PartnerOffer) (s : State) : (s.mapRx g).resolve o = s.resolve o := rfl
@[simp] theorem State.mapRx_twinTest (c : Consumer) (twin : Bool) (format : Format) (slots : Nat) (role : Role) (s : State) :
    (s.mapRx g).twinTest c twin format slots role = s.twinTest c twin format slots role := rfl
@[simp] theorem State.mapRx_boundRequester (l : LaneId) (s : State) :
    (s.mapRx g).boundRequester l = s.boundRequester l := rfl
@[simp] theorem State.mapRx_holds (i : Input) (s : State) : (s.mapRx g).holds i = s.holds i := rfl
@[simp] theorem State.mapRx_freshPairs (s : State) : (s.mapRx g).freshPairs = s.freshPairs := rfl

/-! ## What the operations change -/

@[simp] theorem State.modOwn_mapRx (i : Input) (f : Ownership → Ownership) (s : State) :
    (s.mapRx g).modOwn i f = (s.modOwn i f).mapRx g := rfl
@[simp] theorem State.modMove_mapRx (i : Input) (f : MoveCtl → MoveCtl) (s : State) :
    (s.mapRx g).modMove i f = (s.modMove i f).mapRx g := rfl
@[simp] theorem State.modPhantom_mapRx (i : Input) (f : PhantomCtl → PhantomCtl) (s : State) :
    (s.mapRx g).modPhantom i f = (s.modPhantom i f).mapRx g := rfl
@[simp] theorem State.modPort_mapRx (p : Port) (f : LinkPort → LinkPort) (s : State) :
    (s.mapRx g).modPort p f = (s.modPort p f).mapRx g := rfl
@[simp] theorem State.modTx_mapRx (l : LaneId) (f : TxSide → TxSide) (s : State) :
    (s.mapRx g).modTx l f = (s.modTx l f).mapRx g := rfl
@[simp] theorem State.modBus_mapRx (f : Bus → Bus) (s : State) : (s.mapRx g).modBus f = (s.modBus f).mapRx g := rfl
@[simp] theorem State.raise_mapRx (lanes : List LaneId) (n : Notice) (s : State) :
    (s.mapRx g).raise lanes n = (s.raise lanes n).mapRx g := rfl
@[simp] theorem State.broadcast_mapRx (n : Notice) (s : State) : (s.mapRx g).broadcast n = (s.broadcast n).mapRx g := rfl
@[simp] theorem State.send_mapRx (l : LaneId) (body : List Byte) (s : State) :
    (s.mapRx g).send l body = (s.send l body).mapRx g := rfl
@[simp] theorem State.updatePair_mapRx (who : Party) (i : Input) (f : Pair → Pair) (s : State) :
    (s.mapRx g).updatePair who i f = (s.updatePair who i f).mapRx g := rfl
@[simp] theorem State.updateAllPairs_mapRx (f : Input → Pair → Pair) (s : State) :
    (s.mapRx g).updateAllPairs f = (s.updateAllPairs f).mapRx g := rfl
@[simp] theorem State.turnGates_mapRx (i : Input) (s : State) : (s.mapRx g).turnGates i = (s.turnGates i).mapRx g := rfl
theorem State.flushList_mapRx (l : LaneId) (subs : List Subject) (c : Comm) (s : State) :
    (s.mapRx g).flushList l subs c = s.flushList l subs c := by
  induction subs generalizing c with
  | nil => rfl
  | cons sub subs ih => simp only [State.flushList, ih]; rfl

@[simp] theorem State.flush_mapRx (l : LaneId) (s : State) : (s.mapRx g).flush l = (s.flush l).mapRx g := by
  unfold State.flush
  rw [State.flushList_mapRx]
  rfl

@[simp] theorem State.handTarget_mapRx (i : Input) (t : Setting) (s : State) :
    (s.mapRx g).handTarget i t = (s.handTarget i t).mapRx g := rfl
@[simp] theorem State.raisePhantom_mapRx (i : Input) (o : PhantomOutcome) (s : State) :
    (s.mapRx g).raisePhantom i o = (s.raisePhantom i o).mapRx g := rfl
@[simp] theorem State.startSequence_mapRx (i : Input) (on : Bool) (s : State) :
    (s.mapRx g).startSequence i on = (s.startSequence i on).mapRx g := rfl
@[simp] theorem State.enterFadeIn_mapRx (i : Input) (s : State) :
    (s.mapRx g).enterFadeIn i = (s.enterFadeIn i).mapRx g := rfl
@[simp] theorem State.phantomInFadeOut_mapRx (i : Input) (on : Bool) (s : State) :
    (s.mapRx g).phantomInFadeOut i on = (s.phantomInFadeOut i on).mapRx g := by
  unfold State.phantomInFadeOut
  repeat' split
  all_goals simp_all

@[simp] theorem State.phantomReversal_mapRx (i : Input) (on : Bool) (s : State) :
    (s.mapRx g).phantomReversal i on = (s.phantomReversal i on).mapRx g := rfl
@[simp] theorem State.phantomRequest_mapRx (i : Input) (on : Bool) (s : State) :
    (s.mapRx g).phantomRequest i on = (s.phantomRequest i on).mapRx g := by
  unfold State.phantomRequest
  repeat' split
  all_goals simp_all

@[simp] theorem State.handOwnerTarget_mapRx (i : Input) (s : State) :
    (s.mapRx g).handOwnerTarget i = (s.handOwnerTarget i).mapRx g := by
  unfold State.handOwnerTarget
  repeat' split
  all_goals simp_all

@[simp] theorem State.raiseOwner_mapRx (i : Input) (before : Option Party) (s : State) :
    (s.mapRx g).raiseOwner i before = (s.raiseOwner i before).mapRx g := rfl
@[simp] theorem State.changeOwner_mapRx (i : Input) (who : Option Party) (s : State) :
    (s.mapRx g).changeOwner i who = (s.changeOwner i who).mapRx g := by simp [State.changeOwner]
@[simp] theorem State.passOn_mapRx (i : Input) (s : State) :
    (s.mapRx g).passOn i = (s.passOn i).mapRx g := by simp [State.passOn]
@[simp] theorem State.passToPanel_mapRx (k : Seat) (i : Input) (s : State) :
    (s.mapRx g).passToPanel k i = (s.passToPanel k i).mapRx g := by simp [State.passToPanel]
@[simp] theorem State.handOn_mapRx (k : Seat) (i : Input) (s : State) :
    (s.mapRx g).handOn k i = (s.handOn k i).mapRx g := by
  unfold State.handOn
  repeat' split
  all_goals simp_all

@[simp] theorem State.choosePad_mapRx (i : Input) (pad : Bool) (s : State) :
    (s.mapRx g).choosePad i pad = (s.choosePad i pad).mapRx g := by
  unfold State.choosePad
  repeat' split
  all_goals simp_all

@[simp] theorem State.erase_mapRx (k : Seat) (s : State) : (s.mapRx g).erase k = (s.erase k).mapRx g := by
  have h (l : List Input) (s : State) :
      l.foldl (fun acc i => acc.handOn k i) (s.mapRx g) = (l.foldl (fun acc i => acc.handOn k i) s).mapRx g := by
    induction l generalizing s with
    | nil => rfl
    | cons i l ih => simp only [List.foldl_cons, State.handOn_mapRx, ih]
  unfold State.erase
  rw [h]
  generalize List.foldl _ s allInputs = u
  rfl

@[simp] theorem State.createConsumer_mapRx (k : Seat) (r : BindReport) (s : State) :
    (s.mapRx g).createConsumer k r = (s.createConsumer k r).mapRx g := rfl
@[simp] theorem State.rebind_mapRx (k : Seat) (r : BindReport) (s : State) :
    (s.mapRx g).rebind k r = (s.rebind k r).mapRx g := rfl
@[simp] theorem State.joinTwin_mapRx (k : Seat) (r : BindReport) (s : State) :
    (s.mapRx g).joinTwin k r = (s.joinTwin k r).mapRx g := rfl
@[simp] theorem State.unbind_mapRx (p : Port) (stamp : Nat) (s : State) :
    (s.mapRx g).unbind p stamp = (s.unbind p stamp).mapRx g := by
  unfold State.unbind
  simp only [State.mapRx_entries, State.mapRx_clock, State.mapRx_own]
  repeat' split
  all_goals rfl

@[simp] theorem State.driveBreak_mapRx (l : LaneId) (b : Bool) (s : State) :
    (s.mapRx g).driveBreak l b = (s.driveBreak l b).mapRx g := rfl
@[simp] theorem State.clearStale_mapRx (p : Port) (s : State) : (s.mapRx g).clearStale p = (s.clearStale p).mapRx g := rfl
@[simp] theorem State.raiseLink_mapRx (p : Port) (before : PortState) (flags : Tab 12 Bool) (s : State) :
    (s.mapRx g).raiseLink p before flags = (s.raiseLink p before flags).mapRx g := rfl
@[simp] theorem State.leaveBound_mapRx (p : Port) (stamp : Nat) (s : State) :
    (s.mapRx g).leaveBound p stamp = (s.leaveBound p stamp).mapRx g := by
  unfold State.leaveBound
  rw [State.unbind_mapRx]
  rfl

@[simp] theorem State.leaveIfBound_mapRx (p : Port) (stamp : Nat) (s : State) :
    (s.mapRx g).leaveIfBound p stamp = (s.leaveIfBound p stamp).mapRx g := by
  unfold State.leaveIfBound
  repeat' split
  all_goals simp_all

@[simp] theorem State.enterOffer_mapRx (p : Port) (s : State) : (s.mapRx g).enterOffer p = (s.enterOffer p).mapRx g := rfl
@[simp] theorem State.enterFault_mapRx (p : Port) (why : Reason) (tag : Byte) (nonce : BitVec 32) (s : State) :
    (s.mapRx g).enterFault p why tag nonce = (s.enterFault p why tag nonce).mapRx g := by simp [State.enterFault]
@[simp] theorem State.acceptOffer_mapRx (p : Port) (tag : Byte) (o : PartnerOffer) (r : Resolved) (s : State) :
    (s.mapRx g).acceptOffer p tag o r = (s.acceptOffer p tag o r).mapRx g := by
  unfold State.acceptOffer
  repeat' split
  all_goals simp_all

@[simp] theorem State.resolveOffer_mapRx (p : Port) (tag : Byte) (o : PartnerOffer) (s : State) :
    (s.mapRx g).resolveOffer p tag o = (s.resolveOffer p tag o).mapRx g := by
  unfold State.resolveOffer
  repeat' split
  all_goals simp_all

@[simp] theorem State.reoffer_mapRx (p : Port) (tag : Byte) (o : PartnerOffer) (s : State) :
    (s.mapRx g).reoffer p tag o = (s.reoffer p tag o).mapRx g := by simp [State.reoffer]
@[simp] theorem State.bindAccepted_mapRx (p : Port) (r : Resolved) (s : State) :
    (s.mapRx g).bindAccepted p r = (s.bindAccepted p r).mapRx g := by
  unfold State.bindAccepted
  exact State.flush_mapRx g (.split p)
    { s with
      streams := s.streams.set p
        { layout := some { format := r.format, slots := r.slots, rate := s.rate }, frame := none
          map := match seatOf s.entries p with
            | none => []
            | some k => match s.entries.get k with
              | none => []
              | some c => c.map.take r.slots }
      comm := { s.comm with stale := s.comm.stale.set p (Tab.const 48 true) } }

theorem State.bind_mapRx (r : BindReport) (s : State) :
    (s.mapRx g).bind r = ((s.bind r).1.mapRx g, (s.bind r).2) := by
  unfold State.bind
  simp only [State.mapRx_entries, State.mapRx_twinTest]
  repeat' split
  all_goals simp only [State.createConsumer_mapRx, State.erase_mapRx, State.rebind_mapRx, State.joinTwin_mapRx]

@[simp] theorem State.enterBound_mapRx (p : Port) (tag : Byte) (pg : Page) (r : Resolved) (s : State) :
    (s.mapRx g).enterBound p tag pg r = (s.enterBound p tag pg r).mapRx g := by
  unfold State.enterBound
  simp only [State.modPort_mapRx, State.mapRx_ports, State.raiseLink_mapRx, State.bind_mapRx]
  generalize State.bind _ _ = x
  rcases x with ⟨u, _ | why⟩ <;> simp

@[simp] theorem State.matchConfirm_mapRx (p : Port) (tag : Byte) (c : PartnerConfirm) (s : State) :
    (s.mapRx g).matchConfirm p tag c = (s.matchConfirm p tag c).mapRx g := by
  unfold State.matchConfirm
  repeat' split
  all_goals simp_all

@[simp] theorem State.reply_mapRx (l : LaneId) (tag kind : Byte) (r : ResultCode) (payload : List Byte) (s : State) :
    (s.mapRx g).reply l tag kind r payload = (s.reply l tag kind r payload).mapRx g := rfl
@[simp] theorem State.refuse_mapRx (l : LaneId) (tag : Byte) (k : RequestKind) (r : ResultCode) (s : State) :
    (s.mapRx g).refuse l tag k r = (s.refuse l tag k r).mapRx g := rfl
@[simp] theorem State.setLevel_mapRx (who : Party) (i : Input) (level : Option Int) (s : State) :
    (s.mapRx g).setLevel who i level = (s.setLevel who i level).mapRx g := by
  unfold State.setLevel
  repeat' split
  all_goals simp_all

@[simp] theorem State.doLevel_mapRx (l : LaneId) (tag : Byte) (who : Party) (i : Input) (field : Option Int) (s : State) :
    (s.mapRx g).doLevel l tag who i field = (s.doLevel l tag who i field).mapRx g := by
  unfold State.doLevel
  simp only [State.mapRx_own, State.refuse_mapRx, State.mapRx_moves, State.reply_mapRx, State.setLevel_mapRx]
  split <;> rfl

@[simp] theorem State.setMute_mapRx (who : Party) (i : Input) (on : Bool) (s : State) :
    (s.mapRx g).setMute who i on = (s.setMute who i on).mapRx g := rfl
@[simp] theorem State.doMute_mapRx (l : LaneId) (tag : Byte) (who : Party) (i : Input) (on : Bool) (s : State) :
    (s.mapRx g).doMute l tag who i on = (s.doMute l tag who i on).mapRx g := rfl
@[simp] theorem State.storeMap_mapRx (k : Seat) (m : List Input) (s : State) :
    (s.mapRx g).storeMap k m = (s.storeMap k m).mapRx g := rfl
@[simp] theorem State.doMap_mapRx (l : LaneId) (tag : Byte) (who : Party) (list : List Input) (s : State) :
    (s.mapRx g).doMap l tag who list = (s.doMap l tag who list).mapRx g := by
  cases who with
  | panel => simp [State.doMap]
  | consumer k => cases h : s.entries.get k <;> simp [State.doMap, h]

@[simp] theorem State.doTake_mapRx (l : LaneId) (tag : Byte) (who : Party) (i : Input) (s : State) :
    (s.mapRx g).doTake l tag who i = (s.doTake l tag who i).mapRx g := by
  unfold State.doTake
  dsimp only
  split_ifs <;> first | rfl | simp_all

@[simp] theorem State.doRelease_mapRx (l : LaneId) (tag : Byte) (who : Party) (i : Input) (s : State) :
    (s.mapRx g).doRelease l tag who i = (s.doRelease l tag who i).mapRx g := by
  unfold State.doRelease
  dsimp only
  split_ifs <;> first | rfl | simp_all

@[simp] theorem State.doPad_mapRx (l : LaneId) (tag : Byte) (who : Party) (i : Input) (on : Bool) (s : State) :
    (s.mapRx g).doPad l tag who i on = (s.doPad l tag who i on).mapRx g := by
  unfold State.doPad
  dsimp only
  split_ifs <;> first | rfl | simp_all

@[simp] theorem State.doPhantom_mapRx (l : LaneId) (tag : Byte) (who : Party) (i : Input) (on : Bool) (s : State) :
    (s.mapRx g).doPhantom l tag who i on = (s.doPhantom l tag who i on).mapRx g := by
  unfold State.doPhantom
  dsimp only
  split_ifs <;> first | rfl | simp_all

@[simp] theorem State.doQueryInput_mapRx (l : LaneId) (tag : Byte) (who : Party) (i : Input) (s : State) :
    (s.mapRx g).doQueryInput l tag who i = (s.doQueryInput l tag who i).mapRx g := rfl
@[simp] theorem State.doQueryLink_mapRx (l : LaneId) (tag : Byte) (p : Port) (clear : Bool) (s : State) :
    (s.mapRx g).doQueryLink l tag p clear = (s.doQueryLink l tag p clear).mapRx g := by
  unfold State.doQueryLink
  repeat' split
  all_goals simp_all

@[simp] theorem State.doQueryConsumer_mapRx (l : LaneId) (tag index : Byte) (s : State) :
    (s.mapRx g).doQueryConsumer l tag index = (s.doQueryConsumer l tag index).mapRx g := rfl
@[simp] theorem State.doLock_mapRx (l : LaneId) (tag : Byte) (i : Input) (on : Bool) (s : State) :
    (s.mapRx g).doLock l tag i on = (s.doLock l tag i on).mapRx g := rfl
@[simp] theorem State.doForce_mapRx (l : LaneId) (tag : Byte) (i : Input) (s : State) :
    (s.mapRx g).doForce l tag i = (s.doForce l tag i).mapRx g := by
  unfold State.doForce
  repeat' split
  all_goals simp_all

@[simp] theorem State.restPairs_mapRx (s : State) : (s.mapRx g).restPairs = (s.restPairs).mapRx g := rfl
@[simp] theorem State.doSetAlign_mapRx (l : LaneId) (tag : Byte) (d : Nat) (s : State) :
    (s.mapRx g).doSetAlign l tag d = (s.doSetAlign l tag d).mapRx g := rfl
@[simp] theorem State.doRestart_mapRx (l : LaneId) (tag : Byte) (s : State) :
    (s.mapRx g).doRestart l tag = (s.doRestart l tag).mapRx g := rfl
@[simp] theorem State.takeOffer_mapRx (p : Port) (tag : Byte) (fields : List Byte) (s : State) :
    (s.mapRx g).takeOffer p tag fields = (s.takeOffer p tag fields).mapRx g := by
  unfold State.takeOffer
  repeat' split
  all_goals simp_all

@[simp] theorem State.takeConfirm_mapRx (p : Port) (tag : Byte) (fields : List Byte) (s : State) :
    (s.mapRx g).takeConfirm p tag fields = (s.takeConfirm p tag fields).mapRx g := by
  unfold State.takeConfirm
  repeat' split
  all_goals simp_all

/-! ## The characters that wait -/

/-- The characters that wait on a lane replaced, and nothing else changed. -/
def State.withQueue (l : LaneId) (q : List RxChar) (s : State) : State :=
  s.mapRx fun t => t.modify l.idx fun r => { r with queue := q }

/-- Changes of two lanes go past one another. -/
theorem Tab.modify_comm {α : Type} {n : Nat} (t : Tab n α) {i j : Fin n} (h : i ≠ j) (f h' : α → α) :
    (t.modify i f).modify j h' = (t.modify j h').modify i f := by
  refine Tab.ext_get fun k => ?_
  simp only [Tab.get_modify]
  by_cases h1 : k = i <;> by_cases h2 : k = j <;> simp_all

/-- A change of another lane goes past the characters that wait. -/
theorem State.modRx_withQueue_ne (l m : LaneId) (h : m.idx ≠ l.idx) (f : RxSide → RxSide) (q : List RxChar) (s : State) :
    (s.withQueue l q).modRx m f = (s.modRx m f).withQueue l q := by
  unfold State.withQueue State.modRx State.mapRx
  simp only [Tab.modify_comm _ h]

/-- A change of the lane goes past the characters that wait, where it does not touch them. -/
theorem State.modRx_withQueue (l : LaneId) (f : RxSide → RxSide) (q : List RxChar) (s : State)
    (hf : ∀ r : RxSide, f { r with queue := q } = { f r with queue := q }) :
    (s.withQueue l q).modRx l f = (s.modRx l f).withQueue l q := by
  unfold State.withQueue State.modRx State.mapRx
  simp only [Tab.modify_modify, hf]

theorem State.flushLane_withQueue (p : Port) (q : List RxChar) (s : State) :
    (s.withQueue .panel q).flushLane (.split p) = (s.flushLane (.split p)).withQueue .panel q := by
  unfold State.flushLane
  rw [State.modRx_withQueue_ne _ _ (by simp [LaneId.idx])]
  rfl

theorem State.enterHold_withQueue (p : Port) (flags : Tab 12 Bool) (stamp : Nat) (q : List RxChar) (s : State) :
    (s.withQueue .panel q).enterHold p flags stamp = (s.enterHold p flags stamp).withQueue .panel q := by
  unfold State.enterHold
  rw [show (s.withQueue .panel q).leaveIfBound p stamp = (s.leaveIfBound p stamp).withQueue .panel q from
    State.leaveIfBound_mapRx ..]
  rw [State.flushLane_withQueue]
  rfl

theorem State.changeRate_withQueue (r : BoxRate) (q : List RxChar) (s : State) :
    (s.withQueue .panel q).changeRate r = (s.changeRate r).withQueue .panel q := by
  have h (l : List Port) (f : State → Port → State)
      (hf : ∀ u p, f (u.withQueue .panel q) p = (f u p).withQueue .panel q) (u : State) :
      l.foldl f (u.withQueue .panel q) = (l.foldl f u).withQueue .panel q := by
    induction l generalizing u with
    | nil => rfl
    | cons p l ih => simp only [List.foldl_cons, hf, ih]
  unfold State.changeRate State.holdLivePorts
  have hp : State.restPairs { s.withQueue .panel q with rate := r } =
      (State.restPairs { s with rate := r }).withQueue .panel q := State.restPairs_mapRx
        (fun t => t.modify LaneId.panel.idx fun r => { r with queue := q }) { s with rate := r }
  rw [hp]
  refine h _ _ (fun u p => ?_) _
  show (if (u.ports.get p).state = .down then _ else _) = _
  split
  · rfl
  · exact State.enterHold_withQueue ..

theorem State.doSetRate_withQueue (l : LaneId) (tag : Byte) (r : BoxRate) (q : List RxChar) (s : State) :
    (s.withQueue .panel q).doSetRate l tag r = (s.doSetRate l tag r).withQueue .panel q := by
  have hp (c : ResultCode) (b : Byte) : (s.withQueue .panel q).reply l tag RequestKind.setRate.code c [b] =
      (s.reply l tag RequestKind.setRate.code c [b]).withQueue .panel q := rfl
  unfold State.doSetRate
  rw [show (s.withQueue .panel q).rate = s.rate from rfl,
    show (s.withQueue .panel q).busyInput = s.busyInput from rfl, hp, hp, hp]
  split
  · rfl
  · split
    · rfl
    · exact State.changeRate_withQueue ..

theorem State.doResetPort_withQueue (l : LaneId) (tag : Byte) (p : Port) (q : List RxChar) (s : State) :
    (s.withQueue .panel q).doResetPort l tag p = (s.doResetPort l tag p).withQueue .panel q := by
  have hc (u : State) : ((u.withQueue .panel q).modRx (.split p) fun r => { r with counters := Counters.zero }) =
      (u.modRx (.split p) fun r => { r with counters := Counters.zero }).withQueue .panel q :=
    State.modRx_withQueue_ne _ _ (by simp [LaneId.idx]) _ _ _
  have hr : (s.withQueue .panel q).reply l tag RequestKind.resetPort.code .ok [] =
      (s.reply l tag RequestKind.resetPort.code .ok []).withQueue .panel q := rfl
  unfold State.doResetPort
  simp only [hr]
  generalize s.reply l tag RequestKind.resetPort.code .ok [] = u
  rw [show (s.withQueue .panel q).bus = s.bus from rfl]
  cases s.bus.pass
  · simp only [State.flushLane_withQueue, hc]
    rfl
  · simp only [show (u.withQueue .panel q).nextStamp = u.nextStamp from rfl, State.enterHold_withQueue, hc]
    rfl

theorem State.doQueryLane_withQueue (l m : LaneId) (tag : Byte) (n : LaneId) (clear : Bool) (q : List RxChar) (s : State) :
    (s.withQueue m q).doQueryLane l tag n clear = (s.doQueryLane l tag n clear).withQueue m q := by
  have hc : ((s.withQueue m q).rx.get n.idx).counters = (s.rx.get n.idx).counters := by
    simp only [State.withQueue, State.mapRx_rx, Tab.get_modify]
    split
    · rename_i h
      rw [h]
    · rfl
  have hm (u : State) : ((u.withQueue m q).modRx n fun r => if clear then { r with counters := Counters.zero } else r) =
      (u.modRx n fun r => if clear then { r with counters := Counters.zero } else r).withQueue m q := by
    by_cases h : n.idx = m.idx
    · have e : n = m := by
        cases n <;> cases m <;> simp_all [LaneId.idx, Fin.succ_ne_zero, eq_comm]
      subst e
      exact State.modRx_withQueue _ _ _ _ fun r => by cases clear <;> rfl
    · exact State.modRx_withQueue_ne _ _ h _ _ _
  unfold State.doQueryLane
  rw [hc]
  split
  · exact (congrArg _ (State.reply_mapRx ..)).trans (hm _)
  · rfl

/-- A request's input test goes past what its refusal and the rest of the request go past. -/
theorem State.withInput_comm (w : State → State) (l : LaneId) (tag : Byte) (k : RequestKind) (b : Byte)
    (f : Input → State → State) (s : State) (h0 : (w s).refuse l tag k .badInput = w (s.refuse l tag k .badInput))
    (h : ∀ i, f i (w s) = w (f i s)) : (w s).withInput l tag k b f = w (s.withInput l tag k b f) := by
  unfold State.withInput
  split
  · exact h0
  · exact h _

/-- A request's switch test goes past what its refusal and the rest of the request go past. -/
theorem State.withSwitch_comm (w : State → State) (l : LaneId) (tag : Byte) (k : RequestKind) (b : Byte)
    (f : Bool → State → State) (s : State) (h0 : (w s).refuse l tag k .badValue = w (s.refuse l tag k .badValue))
    (h : ∀ on, f on (w s) = w (f on s)) : (w s).withSwitch l tag k b f = w (s.withSwitch l tag k b f) := by
  unfold State.withSwitch
  split
  · exact h0
  · exact h _

theorem State.runRequest_withQueue (l : LaneId) (tag : Byte) (who : Party) (k : RequestKind) (fields : List Byte)
    (q : List RxChar) (s : State) (hk : k.panelOnly = true → l = .panel) :
    (s.withQueue l q).runRequest l tag who k fields = (s.runRequest l tag who k fields).withQueue l q := by
  have hr (k : RequestKind) (r : ResultCode) (u : State) :
      (u.withQueue l q).refuse l tag k r = (u.refuse l tag k r).withQueue l q := rfl
  have hi (k : RequestKind) (b : Byte) (f : Input → State → State)
      (h : ∀ i, f i (s.withQueue l q) = (f i s).withQueue l q) :
      (s.withQueue l q).withInput l tag k b f = (s.withInput l tag k b f).withQueue l q :=
    State.withInput_comm (State.withQueue l q) _ _ _ _ _ _ rfl h
  have hs (k : RequestKind) (b : Byte) (f : Bool → State → State)
      (h : ∀ on, f on (s.withQueue l q) = (f on s).withQueue l q) :
      (s.withQueue l q).withSwitch l tag k b f = (s.withSwitch l tag k b f).withQueue l q :=
    State.withSwitch_comm (State.withQueue l q) _ _ _ _ _ _ rfl h
  cases k <;> simp only [State.runRequest]
  case level => unfold State.runLevel; split; exact hi _ _ _ fun i => State.doLevel_mapRx ..; rfl
  case mute => unfold State.runMute; split; exact hi _ _ _ fun i => hs _ _ _ fun on => State.doMute_mapRx ..; rfl
  case map =>
    unfold State.runMap
    split
    · rfl
    · split
      · exact State.doMap_mapRx ..
      · rfl
  case take => unfold State.runTake; split; exact hi _ _ _ fun i => State.doTake_mapRx ..; rfl
  case release => unfold State.runRelease; split; exact hi _ _ _ fun i => State.doRelease_mapRx ..; rfl
  case pad => unfold State.runPad; split; exact hi _ _ _ fun i => hs _ _ _ fun on => State.doPad_mapRx ..; rfl
  case phantom =>
    unfold State.runPhantom; split; exact hi _ _ _ fun i => hs _ _ _ fun on => State.doPhantom_mapRx ..; rfl
  case queryInput => unfold State.runQueryInput; split; exact hi _ _ _ fun i => State.doQueryInput_mapRx ..; rfl
  case queryLink =>
    unfold State.runQueryLink
    split
    · split
      · rfl
      · exact hs _ _ _ fun on => State.doQueryLink_mapRx ..
    · rfl
  case queryLane =>
    unfold State.runQueryLane
    split
    · split
      · rfl
      · exact hs _ _ _ fun on => State.doQueryLane_withQueue ..
    · rfl
  case queryConsumer => unfold State.runQueryConsumer; split; split; exact State.doQueryConsumer_mapRx ..; rfl; rfl
  case lock => unfold State.runLock; split; exact hi _ _ _ fun i => hs _ _ _ fun on => State.doLock_mapRx ..; rfl
  case force => unfold State.runForce; split; exact hi _ _ _ fun i => State.doForce_mapRx ..; rfl
  case setRate =>
    obtain rfl := hk rfl
    unfold State.runSetRate
    split
    · split
      · rfl
      · exact State.doSetRate_withQueue ..
    · rfl
  case setAlign => unfold State.runSetAlign; split; exact State.doSetAlign_mapRx ..; rfl
  case resetPort =>
    obtain rfl := hk rfl
    unfold State.runResetPort
    split
    · split
      · rfl
      · exact State.doResetPort_withQueue ..
    · rfl
  case restart => unfold State.runRestart; split; exact State.doRestart_mapRx ..; rfl

theorem State.checkRequest_withQueue (l : LaneId) (kind tag : Byte) (fields : List Byte) (q : List RxChar) (s : State) :
    (s.withQueue l q).checkRequest l kind tag fields = (s.checkRequest l kind tag fields).withQueue l q := by
  unfold State.checkRequest
  rw [show (s.withQueue l q).boundRequester l = s.boundRequester l from rfl, show (s.withQueue l q).bus = s.bus from rfl]
  split
  · rfl
  · split
    · rfl
    · split
      · rfl
      · rename_i hp
        split
        · rfl
        · split
          · rfl
          · exact State.runRequest_withQueue _ _ _ _ _ _ _ fun h => by simpa [h] using hp

/-- What the taking of a held record does is the same whatever characters wait behind it, and they wait on. -/
theorem State.takeHeld_withQueue (l : LaneId) (body : List Byte) (q : List RxChar) (s : State) :
    (s.withQueue l q).takeHeld l body = (s.takeHeld l body).withQueue l q := by
  have hr (kind tag : Byte) (fields : List Byte) :
      (s.withQueue l q).takeRecord l kind tag fields = (s.takeRecord l kind tag fields).withQueue l q := by
    have hc (l : LaneId) := State.checkRequest_withQueue l kind tag fields q s
    have hg (l : LaneId) : (s.withQueue l q).ignore l = (s.ignore l).withQueue l q :=
      State.modRx_withQueue _ _ _ _ fun _ => rfl
    cases l with
    | panel => exact hc _
    | split p =>
      simp only [State.takeRecord, State.takeOnSplit]
      rw [show (s.withQueue (.split p) q).ports = s.ports from rfl]
      repeat' split
      all_goals first
        | exact hg _
        | exact State.takeOffer_mapRx ..
        | exact State.takeConfirm_mapRx ..
        | exact hc _
  have hh (u : State) : (u.withQueue l q).modRx l (fun r => { r with framer := .hunt }) =
      (u.modRx l fun r => { r with framer := .hunt }).withQueue l q := State.modRx_withQueue _ _ _ _ fun _ => rfl
  unfold State.takeHeld
  split
  · rw [hr, hh]
  · rw [hh]

/-- The taking of a held record leaves the characters that wait behind it, and the framer in HUNT. -/
theorem State.takeHeld_leaves (l : LaneId) (body : List Byte) (s : State) :
    ((s.takeHeld l body).rx.get l.idx).queue = (s.rx.get l.idx).queue ∧
      ((s.takeHeld l body).rx.get l.idx).framer = .hunt := by
  refine ⟨?_, by simp [State.takeHeld, State.modRx]⟩
  have e : s.withQueue l (s.rx.get l.idx).queue = s :=
    congrArg (fun t => { s with rx := t }) (Tab.modify_id s.rx l.idx rfl)
  have h := State.takeHeld_withQueue l body (s.rx.get l.idx).queue s
  rw [e] at h
  rw [h]
  simp [State.withQueue]

/-- What the taking of a held record does, said by a record that a lane takes at once. -/
theorem State.takeHeld_delivered (l : LaneId) (kind tag : Byte) (fields : List Byte) (q : List RxChar) (s : State)
    (h : s.takesAtOnce l) :
    State.takeHeld l (kind :: tag :: fields)
        { s with
          rx := s.rx.set l.idx { s.rx.get l.idx with queue := q, framer := .held (kind :: tag :: fields) } } =
      (s.deliver l kind tag fields).withQueue l q := by
  rw [State.deliver_taken _ _ _ _ _ h]
  refine Eq.trans ?_ (State.takeHeld_withQueue l (kind :: tag :: fields) q
    (s.modRx l fun r => { r with framer := .held (kind :: tag :: fields) }))
  refine congrArg _ ?_
  unfold State.withQueue State.mapRx State.modRx
  simp only [Tab.modify_modify]
  rfl

end Sys2Proof.Machine
end

