-- ==== Sys2Proof/Laws/Lanes.lean ====
section
/-! SUPPORT. The reading of a lane: how it goes on, and what keeps a property through it: if each turn keeps it, so do the
receipt of a character and the arrival of a record. -/

namespace Sys2Proof.Machine

/-- What the taking of a record and the return to HUNT keep, the taking of a held record keeps. -/
theorem State.takeHeld_inv (P : State → Prop)
    (hrec : ∀ l kind tag fields (s : State), P s → P (s.takeRecord l kind tag fields))
    (hhunt : ∀ l (s : State), P s → P (s.modRx l fun r => { r with framer := .hunt })) (l : LaneId) (body : List Byte)
    (s : State) (hs : P s) : P (s.takeHeld l body) := by
  unfold State.takeHeld
  apply hhunt
  split
  · exact hrec _ _ _ _ _ hs
  · exact hs

/-- What each character read and each record taken keep, the reading of a lane keeps. -/
theorem State.service_inv (P : State → Prop)
    (hread : ∀ l c rest (s : State), P s → (s.rx.get l.idx).queue = c :: rest →
      P (s.modRx l fun r => RxSide.readChar c { r with queue := rest }))
    (hrec : ∀ l kind tag fields (s : State), P s → P (s.takeRecord l kind tag fields))
    (hhunt : ∀ l (s : State), P s → P (s.modRx l fun r => { r with framer := .hunt })) (l : LaneId) (s : State)
    (hs : P s) : P (s.service l) := by
  unfold State.service
  generalize 2 * (s.rx.get l.idx).queue.length + 1 = n
  induction n generalizing s with
  | zero => exact hs
  | succ n ih =>
    unfold State.readOn
    split
    · split
      · exact ih _ (State.takeHeld_inv P hrec hhunt _ _ _ hs)
      · exact hs
    · split
      · exact hs
      · rename_i c rest hq
        exact ih _ (hread _ _ _ _ hs hq)

/-- The reading of a character stores none (R154). -/
theorem RxSide.readChar_queue (c : RxChar) (r : RxSide) : (RxSide.readChar c r).queue = r.queue := by
  unfold RxSide.readChar RxSide.recordChar RxSide.keepChar
  repeat' split
  all_goals rfl

/-- The reading of a lane is the reading on of `State.ReadsOn`: its turns are as many as it needs, two for each character
that waits and one for a record that is held. -/
theorem State.service_readsOn (l : LaneId) (s : State) : State.ReadsOn l s (s.service l) := by
  unfold State.service
  suffices h : ∀ n (u : State),
      2 * (u.rx.get l.idx).queue.length + (if (u.rx.get l.idx).framer.isFree then 0 else 1) ≤ n →
      State.ReadsOn l u (State.readOn l n u) from h _ _ (by split <;> omega)
  intro n
  induction n with
  | zero =>
    intro u h
    exact .stops (by split at h <;> first | assumption | omega) (List.length_eq_zero_iff.mp (by omega))
  | succ n ih =>
    intro u h
    unfold State.readOn
    split
    · rename_i body hb
      split
      · rename_i hc
        refine .takes hb hc (ih _ ?_)
        rw [(State.takeHeld_leaves l body u).1, (State.takeHeld_leaves l body u).2]
        rw [hb] at h
        simp [Framer.isFree] at h ⊢
        omega
      · rename_i hc
        exact .waits hb (Bool.eq_false_iff.mpr hc)
    · rename_i hb
      have hf : (u.rx.get l.idx).framer.isFree = true := by
        unfold Framer.isFree
        split <;> simp_all
      split
      · rename_i hq
        exact .stops hf hq
      · rename_i c rest hq
        refine .reads hf hq (ih _ ?_)
        simp only [Tab.get_set_self, RxSide.readChar_queue]
        simp only [hq, List.length_cons, hf, if_true] at h
        split <;> omega

/-- What the storing of characters, their reading and the taking of records keep, the arrival of a record keeps. -/
theorem State.deliver_inv (P : State → Prop)
    (hstore : ∀ l (vs : List Byte) (s : State), P s →
      P (s.modRx l fun r => vs.foldl (fun r v => r.store v false false false) r))
    (hhold : ∀ l body (s : State), P s → P (s.modRx l fun r => { r with framer := .held body }))
    (hservice : ∀ l (s : State), P s → P (s.service l)) (l : LaneId) (kind tag : Byte) (fields : List Byte) (s : State)
    (hs : P s) : P (s.deliver l kind tag fields) := by
  unfold State.deliver
  split
  · exact hs
  · split
    · exact hstore _ _ _ hs
    · exact hservice _ _ (hhold _ _ _ hs)

/-- What a break, the storing of a character and the reading of the lane keep, the receipt of a character keeps. -/
theorem State.characterReceived_inv (P : State → Prop) (hbreak : ∀ l (s : State), P s → P (s.breakOn l))
    (hstore : ∀ l v framing parity gap moment (s : State), P s →
      P (s.modRx l fun r => { RxSide.store v framing parity gap r with gapRef := some moment }))
    (hservice : ∀ l (s : State), P s → P (s.service l)) (l : LaneId) (v : Byte) (parity stop : Bool) (start : Nat)
    (s : State) (hs : P s) : P (s.characterReceived l v parity stop start) := by
  unfold State.characterReceived
  split
  · exact hs
  · split
    · exact hbreak _ _ hs
    · apply hservice
      have h := hstore l v (!stop) (parityMark v parity) (gapMark (s.rx.get l.idx).gapRef start)
        (start + Config.characterTime) s hs
      have e : (s.modRx l fun r => { RxSide.store v (!stop) (parityMark v parity) (gapMark r.gapRef start) r with
          gapRef := some (start + Config.characterTime) }) =
          s.modRx l fun r => { RxSide.store v (!stop) (parityMark v parity)
            (gapMark (s.rx.get l.idx).gapRef start) r with gapRef := some (start + Config.characterTime) } := rfl
      rw [e]
      exact h

/-- What the departure of a byte, a restart and the reading of the lane keep, `byteSent` keeps. -/
theorem State.byteSent_inv (P : State → Prop)
    (htx : ∀ (c : Comm) (r : Option Nat) (s : State), P s → P { s with comm := c, restart := r })
    (hrestart : ∀ s : State, P s → P s.restartNow) (hservice : ∀ l (s : State), P s → P (s.service l)) (l : LaneId)
    (s : State) (hs : P s) : P (s.byteSent l) := by
  have hroom : ∀ l (s : State), P s → P (s.roomGained l) := fun l s hs => hservice l _ (htx _ s.restart s hs)
  unfold State.byteSent
  split
  · exact hs
  · exact hs
  · dsimp only
    split
    · split
      · exact hrestart _ (htx _ s.restart s hs)
      · exact hroom _ _ (htx _ _ s hs)
    · exact hroom _ _ (htx _ s.restart s hs)
    · exact hroom _ _ (htx _ s.restart s hs)

end Sys2Proof.Machine
end

