-- ==== Sys2Proof/Laws/Requests.lean ====
section
/-! SUPPORT. How a request that a lane takes at once comes to its own part, and what the field codings read back. -/

namespace Sys2Proof.Machine

/-! ## Field codings -/

theorem byteOf_toNat (n : Nat) (h : n < 256) : (byteOf n).toNat = n := by
  simp [byteOf, Nat.mod_eq_of_lt h]

@[simp] theorem inputOf_inputByte (i : Input) : inputOf (inputByte i) = some i := by
  have h : (inputByte i).toNat = i.val + 1 := byteOf_toNat _ (by omega)
  unfold inputOf
  rw [dif_pos (by omega)]
  simp [h]

@[simp] theorem portOf_portByte (p : Port) : portOf (portByte p) = some p := by
  have h : (portByte p).toNat = p.val + 1 := byteOf_toNat _ (by omega)
  unfold portOf
  rw [dif_pos (by omega)]
  simp [h]

@[simp] theorem laneOf_laneByte (l : LaneId) : laneOf (laneByte l) = some l := by
  cases l with
  | panel => rfl
  | split p =>
    have h : laneByte (.split p) = portByte p := by simp [laneByte, portByte, LaneId.idx]
    have hne : portByte p ≠ 0#8 := fun h0 => by
      have := byteOf_toNat (p.val + 1) (by omega)
      rw [show byteOf (p.val + 1) = portByte p from rfl, h0] at this
      simp at this
    simp [laneOf, h, hne]

@[simp] theorem switchOf_switchByte (on : Bool) : switchOf (if on then 1#8 else 0#8) = some on := by
  cases on <;> rfl

/-- A byte outside 1 to 48 names no input. -/
theorem inputOf_none (b : Byte) (h : b = 0#8 ∨ 48 < b.toNat) : inputOf b = none := by
  unfold inputOf
  rw [dif_neg]
  rcases h with h | h
  · simp [h]
  · omega

/-- A byte other than 0 and 1 names no switch value. -/
theorem switchOf_none (v : Byte) (h0 : v ≠ 0#8) (h1 : v ≠ 1#8) : switchOf v = none := by simp [switchOf, h0, h1]

/-- A byte outside 1 to 6 names no port. -/
theorem portOf_none (b : Byte) (h : b = 0#8 ∨ 6 < b.toNat) : portOf b = none := by
  unfold portOf
  rw [dif_neg]
  rcases h with h | h
  · simp [h]
  · omega

/-- A byte above 6 names no lane. -/
theorem laneOf_none (b : Byte) (h : 6 < b.toNat) : laneOf b = none := by
  unfold laneOf
  rw [if_neg (by rintro rfl; simp at h), portOf_none b (.inr h)]
  rfl

/-- A list that names inputs reads back as it was. -/
theorem mapInputs_inputByte (is : List Input) : mapInputs (is.map inputByte) = some is := by
  induction is with
  | nil => rfl
  | cons i is ih => simp [mapInputs, ih]

/-- A list with a byte that names no input reads as none. -/
theorem mapInputs_none (bs : List Byte) (h : ∃ b ∈ bs, b = 0#8 ∨ 48 < b.toNat) : mapInputs bs = none := by
  induction bs with
  | nil => simp at h
  | cons b bs ih =>
    obtain ⟨x, hx, hb⟩ := h
    rcases List.mem_cons.mp hx with rfl | hx
    · simp [mapInputs, inputOf_none _ hb]
    · rw [mapInputs, ih ⟨x, hx, hb⟩]
      split <;> simp_all

/-- The bits of four bytes read as one number. -/
theorem u32_bit (a b c d : Byte) (i : Nat) : (u32 a b c d).getLsbD i =
    if i < 8 then d.getLsbD i else if i < 16 then c.getLsbD (i - 8) else if i < 24 then b.getLsbD (i - 16)
      else a.getLsbD (i - 24) := by
  show BitVec.getLsbD (a ++ b ++ c ++ d) i = _
  simp only [BitVec.getLsbD_append]
  split_ifs <;> first | rfl | omega

/-- What is written as four bytes reads back as it was. -/
theorem u32_bytes (x : BitVec 32) :
    u32 (x.extractLsb' 24 8) (x.extractLsb' 16 8) (x.extractLsb' 8 8) (x.extractLsb' 0 8) = x := by
  refine BitVec.eq_of_getLsbD_eq fun i hi => ?_
  rw [u32_bit]
  simp only [BitVec.getLsbD_extractLsb']
  split
  · simp [*]
  · split
    · simp [show i - 8 < 8 by omega, show 8 + (i - 8) = i by omega]
    · split
      · simp [show i - 16 < 8 by omega, show 16 + (i - 16) = i by omega]
      · simp [show i - 24 < 8 by omega, show 24 + (i - 24) = i by omega]

/-- What four bytes read as is written as those bytes. -/
theorem bytes_u32 (a b c d : Byte) : (u32 a b c d).extractLsb' 24 8 = a ∧ (u32 a b c d).extractLsb' 16 8 = b ∧
    (u32 a b c d).extractLsb' 8 8 = c ∧ (u32 a b c d).extractLsb' 0 8 = d := by
  refine ⟨?_, ?_, ?_, ?_⟩ <;>
  · refine BitVec.eq_of_getLsbD_eq fun i hi => ?_
    rw [BitVec.getLsbD_extractLsb', u32_bit]
    split_ifs <;> first
      | omega
      | simp [hi]

/-! ## Kinds -/

@[simp] theorem kindOf_code (k : RequestKind) : kindOf k.code = some k := by cases k <;> rfl

theorem RequestKind.code_ne_offer (k : RequestKind) : k.code ≠ offerKind := by cases k <;> decide

theorem RequestKind.code_ne_confirm (k : RequestKind) : k.code ≠ confirmKind := by cases k <;> decide

/-- The command of a request is the arrival of its record. -/
theorem exec_request (k : RequestKind) (l : LaneId) (tag : Byte) (fields : List Byte) (s : State) :
    exec (k.request l tag fields) s = .next (s.deliver l k.code tag fields) := by cases k <;> rfl

/-! ## From arrival to the order of checks -/

/-- The state in which a lane's framer holds a record. -/
def State.holding (s : State) (l : LaneId) (body : List Byte) : State := s.modRx l fun r => { r with framer := .held body }

/-- The state in which a lane's framer reads on. -/
def State.hunting (s : State) (l : LaneId) : State := s.modRx l fun r => { r with framer := .hunt }

/-- A record that reaches the order of checks is handled by it. -/
theorem State.takeRecord_checks (l : LaneId) (kind tag : Byte) (fields : List Byte) (s : State)
    (h : s.reachesChecks l kind) : s.takeRecord l kind tag fields = s.checkRequest l kind tag fields := by
  cases l with
  | panel => rfl
  | split p =>
    obtain ⟨hs, ho, hc⟩ := h
    unfold State.takeRecord State.takeOnSplit
    rcases hs with hs | hs | hs <;> simp [hs, ho, hc]

/-- A record that a lane takes at once and that reaches the order of checks. -/
theorem State.deliver_checks (l : LaneId) (kind tag : Byte) (fields : List Byte) (s : State) (h : s.takesAtOnce l)
    (hr : s.reachesChecks l kind) :
    s.deliver l kind tag fields = ((s.holding l (kind :: tag :: fields)).checkRequest l kind tag fields).hunting l := by
  have hr' : (s.holding l (kind :: tag :: fields)).reachesChecks l kind := by cases l <;> exact hr
  rw [State.deliver_taken _ _ _ _ _ h, ← State.takeRecord_checks _ _ _ _ _ hr']
  rfl

/-- A reply and nothing else. -/
theorem State.holding_reply (s : State) (l : LaneId) (body : List Byte) (tag kind : Byte) (r : ResultCode)
    (payload : List Byte) : ((s.holding l body).reply l tag kind r payload).hunting l =
      s.answered l (replyBody tag kind r payload) := by
  simp [State.holding, State.hunting, State.reply, State.send, State.answered, State.modRx, Tab.modify_modify]

/-- A request that is served reaches the order of checks. -/
theorem State.serves.reaches {s : State} {l : LaneId} {k : RequestKind} {who : Party} (h : s.serves l k who) :
    s.reachesChecks l k.code := by
  cases l with
  | panel => trivial
  | split p =>
    refine ⟨.inr (.inr ?_), k.code_ne_offer, k.code_ne_confirm⟩
    have hb := h.2.1
    simp only [State.boundRequester] at hb
    split at hb
    · assumption
    · cases hb

/-- A request that is served and whose length fits comes to its own part. -/
theorem State.serves.exec_eq {s : State} {l : LaneId} {k : RequestKind} {who : Party} (h : s.serves l k who)
    (tag : Byte) (fields : List Byte) (hf : k.fits fields.length = true) :
    exec (k.request l tag fields) s =
      .next (((s.holding l (k.code :: tag :: fields)).runRequest l tag who k fields).hunting l) := by
  rw [exec_request, State.deliver_checks _ _ _ _ _ h.1 h.reaches]
  obtain ⟨-, hb, hp, hr⟩ := h
  have hb' : (s.holding l (k.code :: tag :: fields)).boundRequester l = some who := by rw [← hb]; rfl
  have hp' : (k.panelOnly && decide (l ≠ LaneId.panel)) = false := by
    cases hk : k.panelOnly
    · rfl
    · simp [hp hk]
  have hr' : (k.touchesInput && decide ((s.holding l (k.code :: tag :: fields)).bus.pass = .starting)) = false := by
    cases hk : k.touchesInput
    · rfl
    · simp [State.holding, State.modRx, hr hk]
  unfold State.checkRequest
  simp only [kindOf_code, hf, hp', hb', hr']
  rfl

end Sys2Proof.Machine
end

