-- ==== Sys2Proof/Laws/StartUp.lean ====
section
/-! SUPPORT. How the start-up pass goes on from chip to chip and what READY does (R112, R114). -/

namespace Sys2Proof.Machine

/-- A port that READY raises: it has carrier and is DOWN. -/
def LinkPort.rises (q : LinkPort) : Bool := q.carrier && decide (q.state = .down)

/-- READY over any ports without repeats: those that rise enter OFFER one after the other, each with a nonce of its own. -/
theorem State.offers_ports (l : List Port) (hl : l.Nodup) (s : State) :
    let t := l.foldl (fun acc p =>
      if (acc.ports.get p).carrier = true ∧ (acc.ports.get p).state = .down then acc.enterOffer p else acc) s
    let rising := l.filter fun p => (s.ports.get p).rises
    (∀ n p, rising[n]? = some p → t.ports.get p =
      { s.ports.get p with
        state := .offer, timer := some (.offerWait, s.clock), nonce := some (Config.freeNonce (s.draws + n))
        page := none, resolved := none, history := (s.ports.get p).history.set 2 true }) ∧
    (∀ p, p ∉ rising → t.ports.get p = s.ports.get p) ∧
    t.draws = s.draws + rising.length ∧
    t.comm = s.comm.offers s.rate s.draws rising ∧
    t = { s with ports := t.ports, draws := t.draws, comm := t.comm } := by
  induction l generalizing s with
  | nil => simp [Comm.offers]
  | cons a l ih =>
    obtain ⟨ha, hl⟩ := List.nodup_cons.mp hl
    intro t rising
    by_cases hc : (s.ports.get a).carrier = true ∧ (s.ports.get a).state = .down
    · obtain ⟨e1, e2, e3, e4⟩ := State.enterOffer_entered a s
      have ht : t = l.foldl (fun acc p =>
          if (acc.ports.get p).carrier = true ∧ (acc.ports.get p).state = .down then acc.enterOffer p else acc)
          (s.enterOffer a) := by
        show List.foldl _ s (a :: l) = _
        rw [List.foldl_cons, if_pos hc]
      generalize s.enterOffer a = u at e1 e2 e3 e4 ht
      obtain ⟨h1, h2, h3, h4, h5⟩ := ih hl u
      have hclock : u.clock = s.clock := by rw [e4]
      have hrate : u.rate = s.rate := by rw [e4]
      have hother : ∀ p, p ≠ a → u.ports.get p = s.ports.get p := by
        intro p hp
        rw [e1, Tab.get_set, if_neg hp]
      have hne : ∀ p ∈ l, p ≠ a := fun p hp h => ha (h ▸ hp)
      have hfil : l.filter (fun p => (u.ports.get p).rises) = l.filter fun p => (s.ports.get p).rises :=
        List.filter_congr fun p hp => by rw [hother p (hne p hp)]
      have hr : rising = a :: l.filter fun p => (s.ports.get p).rises := by
        show List.filter _ (a :: l) = _
        rw [List.filter_cons, if_pos (by simp [LinkPort.rises, hc.1, hc.2])]
      rw [← ht] at h1 h2 h3 h4 h5
      rw [hfil] at h1 h2 h3 h4
      have hna : a ∉ l.filter fun p => (s.ports.get p).rises := fun h => ha (List.mem_of_mem_filter h)
      refine ⟨fun n p hp => ?_, fun p hp => ?_, ?_, ?_, by rw [h5, e4]⟩
      · rw [hr] at hp
        cases n with
        | zero =>
          injection hp with hp
          subst hp
          rw [h2 a hna, e1, Tab.get_set, if_pos rfl]
          rfl
        | succ n =>
          have hp : (l.filter fun p => (s.ports.get p).rises)[n]? = some p := hp
          have hm := List.mem_of_getElem? hp
          rw [h1 n p hp, hother p (hne p (List.mem_of_mem_filter hm)), hclock, e2]
          rw [show s.draws + 1 + n = s.draws + (n + 1) by omega]
      · rw [hr, List.mem_cons, not_or] at hp
        rw [h2 p hp.2, hother p hp.1]
      · rw [hr, h3, e2, List.length_cons]
        exact (Nat.add_right_comm _ _ _).trans rfl
      · rw [h4, hr, Comm.offers, e3, hrate, e2, hc.2]
    · have ht : t = l.foldl (fun acc p =>
          if (acc.ports.get p).carrier = true ∧ (acc.ports.get p).state = .down then acc.enterOffer p else acc) s := by
        show List.foldl _ s (a :: l) = _
        rw [List.foldl_cons, if_neg hc]
      have hr : rising = l.filter fun p => (s.ports.get p).rises := by
        show List.filter _ (a :: l) = _
        rw [List.filter_cons, if_neg]
        intro h
        simp only [LinkPort.rises, Bool.and_eq_true, decide_eq_true_eq] at h
        exact hc h
      have := ih hl s
      rw [← ht, ← hr] at this
      exact this

/-- Everything the pass does after a chip (R112, R114). -/
theorem State.nextChip_passedOn (c : Chip) (s : State) : s.passedOn c (s.nextChip c) := by
  unfold State.passedOn State.nextChip
  split
  · rfl
  · obtain ⟨h1, h2, h3, h4, h5⟩ := State.offers_ports allPorts (List.nodup_finRange 6)
      (s.modBus fun b => { b with pass := .ready, pollPos := 0 })
    unfold State.becomeReady State.readyPorts
    generalize List.foldl (fun acc p =>
      if (acc.ports.get p).carrier = true ∧ (acc.ports.get p).state = .down then acc.enterOffer p else acc)
      (s.modBus fun b => { b with pass := .ready, pollPos := 0 }) allPorts = u at h1 h2 h3 h4 h5
    exact ⟨u, rfl, by rw [h5]; rfl, h1, h2, h3, h4, by rw [h5]; rfl⟩

end Sys2Proof.Machine
end

