-- ==== Sys2Proof/Tests/Slice0.lean ====
section
/-! SUPPORT. Tests of the part, one step each: the manual's worked cases and example exchanges, the refusal of ill-formed
commands, and, for every statement with hypotheses, concrete states that meet them, clause by clause. Every expected value
is the manual's, or is worked out by hand from the rule named. -/

set_option Elab.async false

namespace Sys2Proof.Tests

open Sys2Proof.Machine

/-! ## Small states -/

/-- The part READY, every chip OK, every input KNOWN, no port up, a status read of input 1 on the wire. -/
def ready : State :=
  { State.reset with
    moves := Tab.const 48 { MoveCtl.atPowerOn with status := .known }
    pairs := { panel := Tab.const 48 { Pair.atPowerOn with trimState := .settled }, seats := Tab.const 6 none }
    bus := { Bus.atPowerOn with pass := .ready, chips := Tab.const 6 .ok
                                flight := some { txn := .status 0, discard := false } } }

/-- The party of identity 7, bound on S1 with two slots. -/
def foh : Consumer :=
  { identity := 7#32, name := [0x41#8], role := .claimant, presence := .present, ports := [0], format := .w32l,
    slots := 2, map := [0, 1] }

/-- What that party's OFFER said. -/
def fohPage : Page :=
  { nonce := 9#32, identity := 7#32, role := .claimant, rates := 3#8, formats := 5#8, maxChannels := 2#8, twin := true,
    name := [0x41#8] }

/-- What bring-up resolved for it. -/
def fohResolved : Resolved := { format := .w32l, slots := 2, role := .claimant }

/-- A port that has got as far as a state. -/
def linkIn (st : PortState) (timer : Option (TimerKind × Nat)) : LinkPort :=
  { LinkPort.atPowerOn with
    state := st, timer := timer, carrier := true, nonce := some 5#32, page := some fohPage, resolved := some fohResolved }

/-- `ready` with S1 in a state, no consumer in the table. -/
def portIn (st : PortState) (timer : Option (TimerKind × Nat)) : State :=
  { ready with ports := ready.ports.set 0 (linkIn st timer) }

/-- `ready` with that party bound on S1. -/
def bound : State :=
  { ready with
    ports := ready.ports.set 0 (linkIn .bound none)
    entries := ready.entries.set 0 (some foh)
    pairs := { ready.pairs with seats := ready.pairs.seats.set 0 (some (Tab.const 48 (Pair.fresh 960 .known .idle))) }
    streams := ready.streams.set 0
      { layout := some { format := .w32l, slots := 2, rate := .khz48 }, map := [0, 1], frame := none } }

/-- `bound` after its link has gone: the party is KEEPING since moment 0. -/
def keeping : State :=
  { bound with
    ports := ready.ports
    entries := ready.entries.set 0 (some { foh with ports := [], presence := .keeping 0 1 })
    streams := ready.streams }

/-- The owner, waiting list and lock of input 1 are set. -/
def owned (who : Option Party) (waiting : List Party) (lock : Bool) (s : State) : State :=
  s.modOwn 0 fun o => { o with owner := who, waiting := waiting, lock := lock }

/-- The transaction in flight is set. -/
def flying (t : Txn) (s : State) : State := s.modBus fun b => { b with flight := some { txn := t, discard := false } }

/-- The move state of input 1 is set. -/
def moving (m : Move) (s : State) : State := s.modMove 0 fun x => { x with move := m }

/-- The phantom sequence of input 1 is set. -/
def sequence (seq : SeqState) (target reversal : Option Bool) (s : State) : State :=
  s.modPhantom 0 fun q => { q with seq := seq, target := target, reversal := reversal, origin := some q.phantom }

/-- Every pair of input 1 is changed. -/
def pairsOf1 (f : Pair → Pair) (s : State) : State := { s with pairs := s.pairs.mapInput 0 f }

/-- The state that a command leaves. -/
def after (r : Result) : State :=
  match r with
  | .next t => t
  | .fault _ => State.reset
  | .refused _ => State.reset

/-- The bytes that stand in a lane's transmit queue. -/
def sent (l : LaneId) (s : State) : List Byte := (s.comm.tx.get l.idx).queue

/-- The setting pad off, p. -/
def off (p : Nat) : Setting := { pad := false, p := p }

/-! ## Quantifiers over what a state holds -/

/-- Every party is one of the seven. -/
theorem mem_allParties (who : Party) : who ∈ allParties := by
  cases who with
  | panel => exact List.mem_cons_self
  | consumer k => exact List.mem_cons_of_mem _ (List.mem_map_of_mem (List.mem_finRange k))

/-- A property of every pair of an input, from the list of those pairs. -/
theorem each_pair {s : State} {i : Input} {P : Pair → Prop} (h : ∀ q ∈ s.pairs.ofInput i, P q) (who : Party) (q : Pair)
    (hq : s.pair? who i = some q) : P q :=
  h q (List.mem_filterMap.mpr ⟨who, mem_allParties who, hq⟩)

/-- A property of every entry in use, from the six cells. -/
theorem each_entry {s : State} {P : Seat → Consumer → Prop} (h : ∀ k, ∀ c ∈ (s.entries.get k).toList, P k c) (k : Seat)
    (c : Consumer) (hc : s.entries.get k = some c) : P k c :=
  h k c (Option.mem_toList.mpr hc)

/-! ## Ill-formed commands (R153, R141, R167) -/

/-- Every record command, with fields. -/
def recordCommands (fields : List Byte) : List Instr :=
  [.unknownKind .panel 0x50#8 0#8 fields, .offer (.split 0) 0#8 fields, .confirm (.split 0) 0#8 fields] ++
    allKinds.map fun k => k.request .panel 0#8 fields

theorem test_long_fields_are_ill_formed :
    (recordCommands (List.replicate 199 0#8)).all (fun c => !c.wf) = true ∧
      (recordCommands (List.replicate 198 0#8)).all Instr.wf = true := by decide +kernel

theorem test_known_kinds_are_no_unknown_kinds :
    Instr.wf (.unknownKind .panel 0x10#8 0#8 []) = false ∧ Instr.wf (.unknownKind (.split 0) 0x01#8 0#8 []) = false ∧
      Instr.wf (.unknownKind (.split 0) 0x02#8 0#8 []) = false ∧ Instr.wf (.unknownKind .panel 0x01#8 0#8 []) = true ∧
      Instr.wf (.unknownKind (.split 0) 0x50#8 0#8 []) = true := by decide +kernel

theorem test_events_are_well_formed : Instr.wf .powerOn = true ∧ Instr.wf (.byteSent .panel) = true := by decide

/-! ## The arithmetic (the manual's tables) -/

/-- R3's table of analog targets: G, pad, p, A_target. -/
theorem test_analog_targets :
    [((347 : Int), false), (-35, true), (-5, false), (-203, true), (205, true), (840, false), (840, true), (-500, false),
      (-600, true)].map (fun c => ((analogTarget c.1 c.2).p, (analogTarget c.1 c.2).value)) =
    [(34, 340), (16, -40), (0, 0), (0, -200), (40, 200), (60, 600), (40, 200), (0, 0), (0, -200)] := by decide +kernel

/-- R5's table of trim targets at A = 340: target, clamped. -/
theorem test_trim_targets :
    [some (347 : Int), some 300, some (-60), some (-150), some 600, none].map
      (fun l => (trimTarget l 340, targetClamped l 340)) =
    [(7, false), (-40, false), (-400, false), (-400, true), (240, true), (0, false)] := by decide

/-- R12's reference values. -/
theorem test_gain_multipliers :
    [(-400 : Int), -200, -60, 0, 1, 60, 200, 240].map gainMultiplier =
      [10486, 104858, 525533, 1048576, 1060718, 2092184, 10485760, 16618810] := by decide +kernel

/-- R13's table. -/
theorem test_gated_multipliers :
    [((0 : Int), 660, 960), (60, 480, 960), (0, 1, 960), (0, 1, 1920), (240, 0, 960)].map
      (fun c => gatedMultiplier c.2.2 { Pair.atPowerOn with trim := c.1, gate := c.2.1 }) =
      [720896, 1046092, 1092, 546, 0] := by decide +kernel

/-- R15's tables: output sample, clamped. -/
theorem test_output_samples :
    [((1000000 : Int), 2092184), (-1000000, 2092184), (5000000, 2092184), (-8388608, 2092184), (1, 524288), (-1, 524288),
      (3, 524288), (-3, 524288), (8388607, 10486), (8388607, 1092)].map (fun c => (outputSample c.1 c.2, clips c.1 c.2)) =
    [(1995262, false), (-1995262, false), (8388607, true), (-8388608, true), (1, false), (0, false), (2, false),
      (-1, false), (83888, false), (8736, false)] := by decide +kernel

/-- R121's table of slot bytes. -/
theorem test_slot_bytes :
    slotBytes .p24 0x1E71FE#24 = [0x1E#8, 0x71#8, 0xFE#8] ∧ slotBytes .w32m 0xE18E02#24 = [0xE1#8, 0x8E#8, 0x02#8, 0#8] ∧
      slotBytes .w32l 0xE18E02#24 = [0#8, 0x02#8, 0x8E#8, 0xE1#8] ∧
      slotBytes .x32m 0x7FFFFF#24 = [0#8, 0x7F#8, 0xFF#8, 0xFF#8] ∧
      slotBytes .x32m 0x800000#24 = [0xFF#8, 0x80#8, 0#8, 0#8] := by decide

/-- R153: the CRC of the characters "123456789" is 0x29B1. -/
theorem test_crc : crcOf [0x31#8, 0x32#8, 0x33#8, 0x34#8, 0x35#8, 0x36#8, 0x37#8, 0x38#8, 0x39#8] = 0x29B1#16 := by
  decide +kernel

/-- R99's worked example: the write 0x62, 2, 0x21 and the verify read 0x63, 2 of input 3, and the poll reads 0x65, 8 and
0x65, 9 of inputs 9 and 10. -/
theorem test_wire_bytes :
    Command.word (.gain 2 false 33) 0x1F#8 = 0x21#8 ∧
      (Txn.write (.gain 2 false 33) 0x1F#8 0x21#8).wire = [0x62#8, 2#8, 0x21#8] ∧
      (Txn.verify (.gain 2 false 33) 0x1F#8 0x21#8).wire = [0x63#8, 2#8] ∧
      (Txn.status 8).wire = [0x65#8, 8#8] ∧ (Txn.status 9).wire = [0x65#8, 9#8] := by decide +kernel

/-! ## Requests (the example exchanges of R167 and the worked sequences) -/

/-- What a request on lane P leaves in its transmit queue. -/
def asks (c : Instr) (s : State) : List Byte := sent .panel (after (exec c s))

/-- What a request on lane S1 leaves in its transmit queue. -/
def asksS1 (c : Instr) (s : State) : List Byte := sent (.split 0) (after (exec c s))

/-- LEVEL with a body of 4 bytes is BAD_LENGTH; LEVEL of input 0 is BAD_INPUT. -/
theorem test_level_refused :
    asksS1 (.level (.split 0) 3#8 [0#8, 1#8]) bound = frameOf [0x40#8, 3#8, 0x10#8, 17#8] ∧
      asksS1 (.level (.split 0) 3#8 [0#8, 1#8, 44#8]) bound = frameOf [0x40#8, 3#8, 0x10#8, 21#8] := by decide +kernel

/-- LEVEL input 9 at 900 is CLAMPED to 840. -/
theorem test_level_clamped :
    asksS1 (.level (.split 0) 3#8 [9#8, 0x03#8, 0x84#8]) bound =
        frameOf [0x40#8, 3#8, 0x10#8, 1#8, 0x03#8, 0x48#8] ∧
      ((after (exec (.level (.split 0) 3#8 [9#8, 0x03#8, 0x84#8]) bound)).pair? (.consumer 0) 8).map Pair.level =
        some (some 840) := by decide +kernel

/-- RESTART from a split lane is PANEL_ONLY. -/
theorem test_restart_panel_only :
    asksS1 (.restart (.split 0) 3#8 []) bound = frameOf [0x40#8, 3#8, 0x35#8, 18#8] := by decide +kernel

/-- MUTE on a lane whose port is in CONFIRM is NOT_BOUND; SET_ALIGN there is PANEL_ONLY. -/
theorem test_mute_not_bound :
    asksS1 (.mute (.split 0) 3#8 [5#8, 1#8]) (portIn .confirm none) = frameOf [0x40#8, 3#8, 0x11#8, 19#8] ∧
      asksS1 (.setAlign (.split 0) 3#8 [0#8, 10#8]) (portIn .confirm none) = frameOf [0x40#8, 3#8, 0x33#8, 18#8] := by
  decide +kernel

/-- MUTE on: the gate turns CLOSING at 960 (R18's worked case). -/
theorem test_mute_turns_the_gate :
    ((after (exec (.mute (.split 0) 3#8 [1#8, 1#8]) bound)).pair? (.consumer 0) 0).map (fun q => (q.dir, q.gate)) =
      some (.closing, 960) := by decide +kernel

/-- R34's cases: a repeated input is BAD_VALUE, an input of 49 BAD_INPUT. -/
theorem test_map_refused :
    asksS1 (.map (.split 0) 3#8 [5#8, 7#8, 5#8]) bound = frameOf [0x40#8, 3#8, 0x12#8, 22#8] ∧
      asksS1 (.map (.split 0) 3#8 [5#8, 49#8]) bound = frameOf [0x40#8, 3#8, 0x12#8, 21#8] := by decide +kernel

/-- R34: a list longer than the slot count (2 here) is CLAMPED. -/
theorem test_map_clamped :
    asksS1 (.map (.split 0) 3#8 [33#8, 34#8, 35#8]) bound = frameOf [0x40#8, 3#8, 0x12#8, 1#8, 2#8] ∧
      ((after (exec (.map (.split 0) 3#8 [33#8, 34#8, 35#8]) bound)).entries.get 0).map Consumer.map =
        some [32, 33] := by decide +kernel

/-- R41: TAKE of a free input, and of one that another party owns. -/
theorem test_take :
    ((after (exec (.take (.split 0) 3#8 [1#8]) bound)).own.get 0).owner = some (.consumer 0) ∧
      asksS1 (.take (.split 0) 3#8 [1#8]) (owned (some .panel) [] false bound) =
        frameOf [0x40#8, 3#8, 0x13#8, 2#8, 1#8] := by decide +kernel

/-- R43: RELEASE passes the input to the oldest waiter. -/
theorem test_release :
    ((after (exec (.release .panel 3#8 [1#8]) (owned (some .panel) [.consumer 0] true bound))).own.get 0).owner =
      some (.consumer 0) := by decide +kernel

/-- The pad sequence of the manual, step 1: at level 250 the pad on gives (on, 40). -/
theorem test_pad :
    let s := (owned (some .panel) [] false bound).modMove 0 fun m => { m with setting := off 25 }
    ((after (exec (.pad .panel 3#8 [1#8, 1#8])
      { s with pairs := s.pairs.modify .panel 0 fun q => { q with level := some 250 } })).moves.get 0).move =
      .queued { pad := true, p := 40 } := by decide +kernel

/-- R83, R84: PHANTOM ON from the panel starts a sequence, with every gate closing. -/
theorem test_phantom :
    let t := after (exec (.phantom .panel 3#8 [1#8, 1#8]) bound)
    (t.phantoms.get 0).seq = .fadeOut ∧ (t.phantoms.get 0).target = some true ∧
      (t.pair? (.consumer 0) 0).map Pair.dir = some .closing := by decide +kernel

/-- R16: QUERY_INPUT returns the saturation count to 0, of the requester's pair alone. -/
theorem test_query_input_clears :
    let s := pairsOf1 (fun q => { q with sat := 9 }) bound
    let t := after (exec (.queryInput (.split 0) 3#8 [1#8]) s)
    (t.pair? (.consumer 0) 0).map Pair.sat = some 0 ∧ (t.pair? .panel 0).map Pair.sat = some 9 ∧
      (sent (.split 0) t).length = 39 := by decide +kernel

/-- R145: QUERY_LINK for another port is PANEL_ONLY; with the clear flag the history becomes the state alone. -/
theorem test_query_link :
    asksS1 (.queryLink (.split 0) 3#8 [2#8, 0#8]) bound = frameOf [0x40#8, 3#8, 0x21#8, 18#8] ∧
      marksValue ((after (exec (.queryLink .panel 3#8 [1#8, 1#8]) bound)).ports.get 0).history = 16 := by decide +kernel

/-- The example exchanges: QUERY_LANE of lane 9 is BAD_VALUE, of lane 2 PANEL_ONLY. -/
theorem test_query_lane :
    asksS1 (.queryLane (.split 0) 3#8 [9#8, 0#8]) bound = frameOf [0x40#8, 3#8, 0x22#8, 22#8] ∧
      asksS1 (.queryLane (.split 0) 3#8 [2#8, 0#8]) bound = frameOf [0x40#8, 3#8, 0x22#8, 18#8] := by decide +kernel

/-- R38: right after its keep timer has started a consumer has 100 units of 100 ms left. -/
theorem test_query_consumer :
    asks (.queryConsumer .panel 3#8 [1#8]) keeping =
      frameOf [0x40#8, 3#8, 0x23#8, 0#8, 1#8, 0#8, 0#8, 0#8, 7#8, 2#8, 1#8, 0#8, 0#8, 100#8, 2#8, 2#8, 2#8, 1#8, 0x41#8] ∧
      asks (.queryConsumer .panel 3#8 [7#8]) keeping = frameOf [0x40#8, 3#8, 0x23#8, 22#8] := by decide +kernel

/-- R46, R45: LOCK sets the lock; FORCE makes the panel owner. -/
theorem test_lock_and_force :
    ((after (exec (.lock .panel 3#8 [1#8, 1#8]) bound)).own.get 0).lock = true ∧
      ((after (exec (.force .panel 3#8 [1#8]) (owned (some (.consumer 0)) [.panel] true bound))).own.get 0) =
        { owner := some .panel, waiting := [], lock := true, padChoice := false } := by decide +kernel

/-- The example exchanges: SET_RATE 96 while a move is LANDING is BUSY with 48. -/
theorem test_set_rate_busy :
    asks (.setRate .panel 3#8 [96#8]) (moving (.landing (off 3) 7) bound) =
      frameOf [0x40#8, 3#8, 0x32#8, 27#8, 48#8] := by decide +kernel

/-- R127: at rest, SET_RATE takes effect, the gates stand at the new N, and a bound port is in HOLD. -/
theorem test_set_rate :
    let t := after (exec (.setRate .panel 3#8 [96#8]) bound)
    t.rate = .khz96 ∧ (t.pair? .panel 5).map Pair.gate = some 1920 ∧ (t.ports.get 0).state = .hold := by decide +kernel

/-- The example exchanges: SET_ALIGN 300 is CLAMPED to 255. -/
theorem test_set_align :
    asks (.setAlign .panel 3#8 [0x01#8, 0x2C#8]) bound = frameOf [0x40#8, 3#8, 0x33#8, 1#8, 255#8] ∧
      (after (exec (.setAlign .panel 3#8 [0x01#8, 0x2C#8]) bound)).align = 255 := by decide +kernel

/-- R146: RESET_PORT of a DOWN port while READY takes it to HOLD. -/
theorem test_reset_port :
    ((after (exec (.resetPort .panel 3#8 [6#8]) bound)).ports.get 5).state = .hold ∧
      asks (.resetPort .panel 3#8 [0#8]) bound = frameOf [0x40#8, 3#8, 0x34#8, 22#8] := by decide +kernel

/-- R172, R173: the restart takes effect with the last byte of its reply, which is the eighth. -/
theorem test_restart :
    (after (exec (.restart .panel 3#8 []) bound)).restart = some 8 ∧
      ((after (exec (.byteSent .panel) { after (exec (.restart .panel 3#8 []) bound) with restart := some 1 })).ports.get
        0).state = .down := by decide +kernel

/-- R167 step 1: kind 0x50 is UNKNOWN, and its code is echoed. -/
theorem test_unknown_kind :
    asksS1 (.unknownKind (.split 0) 0x50#8 3#8 []) bound = frameOf [0x40#8, 3#8, 0x50#8, 16#8] := by decide +kernel

/-! ## Bring-up (the worked sequence "a console binds") -/

/-- The console's OFFER: rates 48 and 96, formats W32L and P24, 48 channels, CLAIMANT, no twin, identity 0x4D. -/
def monOffer : List Byte :=
  [0#8, 0#8, 0#8, 9#8, 0#8, 0#8, 0#8, 0x4D#8, 1#8, 3#8, 5#8, 48#8, 0#8, 3#8, 0x4D#8, 0x4F#8, 0x4E#8]

/-- What that OFFER says. -/
def monPartner : PartnerOffer :=
  { nonce := 9#32, identity := 0x4D#32, role := 1#8, rates := 3#8, formats := 5#8, maxChannels := 48#8, twin := false,
    name := [0x4D#8, 0x4F#8, 0x4E#8] }

/-- What it resolves to: W32L with 48 slots. -/
def monResolved : Resolved := { format := .w32l, slots := 48, role := .claimant }

/-- Carrier arrival on a DOWN port while READY: OFFER, with the part's OFFER of 20 body bytes queued. -/
theorem test_carrier_arrival :
    let t := after (exec (.carrierArrival 1) ready)
    (t.ports.get 1).state = .offer ∧ (sent (.split 1) t).length = 24 := by decide +kernel

/-- The OFFER is accepted with CONFIRM (W32L, 48, CLAIMANT, the partner's nonce). -/
theorem test_offer :
    let t := after (exec (.offer (.split 0) 6#8 monOffer) (portIn .offer (some (.offerWait, 0))))
    (t.ports.get 0).state = .confirm ∧
      sent (.split 0) t = frameOf [0x02#8, 6#8, 0#8, 0#8, 0#8, 9#8, 2#8, 48#8, 1#8] := by decide +kernel

/-- The port waiting for that console's CONFIRM. -/
def awaiting : State :=
  { ready with
    ports := ready.ports.set 0
      { linkIn .confirm (some (.confirmWait, 0)) with
        page := some (monPartner.page .claimant), resolved := some monResolved } }

/-- The console's CONFIRM with the part's nonce, W32L and 48 binds the port to a fresh consumer in the lowest seat, and
eleven STATE notices of 37 bytes are queued at once (the worked sequence of R179). -/
theorem test_confirm :
    let t := after (exec (.confirm (.split 0) 6#8 [0#8, 0#8, 0#8, 5#8, 2#8, 48#8, 1#8]) awaiting)
    (t.ports.get 0).state = .bound ∧ (t.entries.get 0).map Consumer.identity = some 0x4D#32 ∧
      (sent (.split 0) t).length = 407 ∧ (t.comm.stale.get 0).get 10 = false ∧ (t.comm.stale.get 0).get 11 = true := by
  decide +kernel

/-- A CONFIRM with slot count 32 is refused MISMATCH, and the port enters FAULT. -/
theorem test_confirm_mismatch :
    let t := after (exec (.confirm (.split 0) 6#8 [0#8, 0#8, 0#8, 5#8, 2#8, 32#8, 1#8]) awaiting)
    (t.ports.get 0).state = .fault ∧ sent (.split 0) t = frameOf [0x03#8, 6#8, 8#8, 0#8, 0#8, 0#8, 9#8] := by
  decide +kernel

/-- R131: carrier loss takes a bound port DOWN, latches CARRIER_LOST, and leaves its consumer KEEPING. -/
theorem test_carrier_loss :
    let t := after (exec (.carrierLoss 0) bound)
    (t.ports.get 0).state = .down ∧ (t.ports.get 0).flags.get 8 = true ∧
      (t.entries.get 0).map (fun c => c.presence.isKeeping) = some true := by decide +kernel

/-- R24: a keep timer that starts later carries a larger stamp (notes/assumptions/6.md). -/
theorem test_later_keep_timer :
    let first := some { foh with identity := 8#32, ports := [], presence := .keeping 0 7 }
    ((after (exec (.carrierLoss 0) { bound with entries := bound.entries.set 5 first })).entries.get 0).map
      Consumer.presence = some (.keeping 0 8) := by decide +kernel

/-- R132: a break takes a bound port to HOLD, driving a break, with BREAK_SEEN latched; its drive ends. -/
theorem test_break :
    let t := after (exec (.breakReceived (.split 0)) bound)
    (t.ports.get 0).state = .hold ∧ (t.ports.get 0).flags.get 9 = true ∧ (t.comm.tx.get 1).breaking = true ∧
      ((after (exec (.breakDriveEnd 0) t)).comm.tx.get 1).breaking = false := by decide +kernel

/-- R133, R134, R137, R142: where each timer's expiry leads. -/
theorem test_timer_expiries :
    ((after (exec (.holdExpiry 0) (portIn .hold (some (.hold, 0))))).ports.get 0).state = .offer ∧
      ((after (exec (.offerWaitExpiry 0) (portIn .offer (some (.offerWait, 0))))).ports.get 0).state = .hold ∧
      ((after (exec (.confirmWaitExpiry 0) (portIn .confirm (some (.confirmWait, 0))))).ports.get 0).flags.get 11 =
        true ∧
      ((after (exec (.rebindInhibitExpiry 0) (portIn .fault (some (.rebindInhibit, 0))))).ports.get 0).state =
        .hold := by decide +kernel

/-- R30, R54: the expiry of a keep timer hands a locked input to the panel (step 12 of the claims on one input). -/
theorem test_keep_expiry :
    let t := after (exec (.keepExpiry 0) (owned (some (.consumer 0)) [] true keeping))
    (t.own.get 0).owner = some .panel ∧ t.entries.get 0 = none := by decide +kernel

/-! ## Characters (the worked sequence "a cut record and a waiting record") -/

/-- A marker after a pause starts a record; one inside a record after a pause raises GAP and starts another. -/
theorem test_characters :
    let s1 := after (exec (.characterReceived .panel 0xB7#8 false true 1200) ready)
    (s1.rx.get 0).framer = .length ∧
      ((after (exec (.characterReceived .panel 0xB7#8 false true 5000) s1)).rx.get 0).framer = .length ∧
      ((after (exec (.characterReceived .panel 0xB7#8 false true 5000) s1)).rx.get 0).counters.gap = 1 := by
  decide +kernel

/-- R159: a byte leaves the queue, first in first out. -/
theorem test_byte_sent :
    sent .panel (after (exec (.byteSent .panel) (after (exec (.setAlign .panel 3#8 [0#8, 10#8]) ready)))) =
      (frameOf [0x40#8, 3#8, 0x33#8, 0#8, 10#8]).tail := by decide +kernel

/-! ## The audio path -/

/-- R10, R14, R119: a sample period forms the frame of a bound port; open gates at trim 0 pass the sample unchanged. -/
theorem test_sample_period :
    ((after (exec (.samplePeriod (Tab.const 48 0xE18E02#24)) bound)).streams.get 0).frame =
      some [0#8, 0x02#8, 0x8E#8, 0xE1#8, 0#8, 0x02#8, 0x8E#8, 0xE1#8] := by decide +kernel

/-- R10's worked case: from -40 toward +25 the sixteenth period steps to -39. -/
theorem test_ramp_step :
    let q : Pair := { Pair.atPowerOn with level := some 365, trim := -40, target := 25, trimState := .ramping, phase := 15 }
    ((after (exec (.rampStep .panel 0) (pairsOf1 (fun _ => q) ready))).pair? .panel 0).map
      (fun q => (q.trim, q.phase, q.trimState)) = some (-39, 0, .ramping) := by decide +kernel

/-- The recovery after a chip reset: a landing of +280 takes MON's trim from +2 to -278 toward 0. -/
theorem test_landing :
    let q : Pair := { Pair.atPowerOn with level := some 280, trim := 2, target := 240, trimState := .ramping, phase := 13 }
    let t := after (exec (.landing 0) (moving (.landing (off 28) 0) (pairsOf1 (fun _ => q) ready)))
    (t.pair? .panel 0).map (fun q => (q.trim, q.target, q.trimState)) = some (-278, 0, .ramping) ∧
      (t.moves.get 0).setting = off 28 := by decide +kernel

/-- R85: the end of a fade out queues the phantom command. -/
theorem test_fade_out_end :
    let s := sequence .fadeOut (some true) none (pairsOf1 (fun q => { q with gate := 0, dir := .closed }) bound)
    let t := after (exec (.fadeOutEnd 0) s)
    (t.phantoms.get 0).seq = .writing ∧ t.bus.queue = [.write (.phantom 0 true)] := by decide +kernel

/-- R88: a muted pair does not hold up the end of a fade in. -/
theorem test_fade_in_end :
    let s := sequence .fadeIn (some true) none ({ bound with pairs := bound.pairs.modify .panel 0 fun q =>
      { q with mute := true, gate := 0, dir := .closed } })
    ((after (exec (.fadeInEnd 0) s)).phantoms.get 0).seq = .idle := by decide +kernel

/-- R87, and the change of mind of the phantom chapter: the settle ends in WRITING with the reversal as the target. -/
theorem test_settle_expiry :
    let t := after (exec (.settleExpiry 0) (sequence .settling (some true) (some false) bound))
    (t.phantoms.get 0).seq = .writing ∧ (t.phantoms.get 0).target = some false := by decide +kernel

/-! ## The preamp bus -/

/-- R112: power-on reads chip 1's identity; 0x5A leads to the write of 0 to channel 0; none leaves the chip FAULTED. -/
theorem test_power_on :
    let s := after (exec .powerOn bound)
    s.bus.flight = some { txn := .startIdentity 0, discard := false } ∧
      (after (exec (.startUpIdentityRead (.bytes 6#8 (some 0x5A#8))) s)).bus.flight =
        some { txn := .startWrite 0 0, discard := false } ∧
      (after (exec (.startUpIdentityRead .silent) s)).bus.chips.get 0 = .faulted := by decide +kernel

/-- R112: the eighth write of chip 6 ends the pass, and the poll begins at input 1. -/
theorem test_start_up_write :
    let s := flying (.startWrite 5 7) (after (exec .powerOn ready))
    let t := after (exec (.startUpWrite (some 6#8) .silent) s)
    t.bus.pass = .ready ∧ (t.moves.get 47).status = .known ∧ t.bus.chips.get 5 = .ok := by decide +kernel

/-- R113: the eighth adoption read makes the inputs KNOWN at the settings read. -/
theorem test_start_up_adoption_read :
    let s := (flying (.startAdoption 0 7) (after (exec .powerOn ready))).modBus fun b =>
      { b with adopting := true, probe := List.replicate 7 0x9F#8 }
    let t := after (exec (.startUpAdoptionRead (.bytes 6#8 (some 0x48#8))) s)
    (t.moves.get 0).setting = off 31 ∧ (t.phantoms.get 0).phantom = .on ∧
      (t.moves.get 7).setting = { pad := true, p := 8 } := by decide +kernel

/-- R113: a transaction that a RESTART left on the wire has its result discarded, and the pass begins. -/
theorem test_restart_takes_effect :
    let s := after (exec .restartTakesEffect { bound with restart := some 8 })
    s.bus.flight = some { txn := .status 0, discard := true } ∧ s.bus.adopting = true ∧
      (after (exec .replyTimeout s)).bus.flight = some { txn := .startIdentity 0, discard := false } := by decide +kernel

/-- The worked example of a refused write: 0x15 queues the verify read, whose answer of the new word takes the write. -/
theorem test_write_decided_and_verify_read :
    let s := flying (.write (.gain 0 false 33) 0x1F#8 0x21#8) (moving (.onWire (off 33)) ready)
    let t := after (exec (.writeDecided 0x15#8) s)
    t.bus.flight = some { txn := .verify (.gain 0 false 33) 0x1F#8 0x21#8, discard := false } ∧
      ((after (exec (.verifyRead (.bytes 6#8 (some 0x21#8))) t)).moves.get 0).move = .landing (off 33) 40 := by
  decide +kernel

/-- The same example: the clip latch of input 9's status raises its clip count, and the poll moves to input 10. -/
theorem test_status_read :
    let t := after (exec (.statusRead (.bytes 6#8 (some 1#8))) (flying (.status 8) ready))
    t.bus.clips.get 8 = 1 ∧ t.bus.pollPos = 9 := by decide +kernel

/-- A chip that drops out and returns: an unanswered status read of input 12 faults chip 2; 0x5A begins eight adoption
reads; the poll stands at input 17. -/
theorem test_identity_read :
    let s := after (exec .replyTimeout (flying (.status 11) ready))
    let t := after (exec (.identityRead (.bytes 6#8 (some 0x5A#8)))
      (flying (.identity 1) (s.modBus fun b => { b with pollPos := 12 })))
    s.bus.chips.get 1 = .faulted ∧ (s.moves.get 11).status = .uncertain ∧ t.bus.chips.get 1 = .probing ∧
      t.bus.pollPos = 16 ∧ t.bus.queue.length = 7 := by decide +kernel

/-- The same example: an unanswered adoption read fails the probe. -/
theorem test_adoption_read :
    let s := (flying (.adoption 1 5) ready).modBus fun b =>
      { b with chips := b.chips.set 1 .probing, probe := List.replicate 5 0#8
               queue := [.adoption 1 6, .adoption 1 7, .write (.gain 29 false 3)] }
    let t := after (exec (.adoptionRead .silent) s)
    t.bus.chips.get 1 = .faulted ∧ t.bus.queue = [] := by decide +kernel

/-! ## Witnesses: for every statement with hypotheses, states and operands that meet them, clause by clause -/

/-- StepRunsTheFrontCommand: an empty queue. -/
theorem witness_step_idles : State.reset.pending = [] := by decide

/-- PowerOnAndRestartBeginAPass: a restart pending, with a transaction in flight and without, and none pending. -/
theorem witness_power_on_and_restart :
    { ready with restart := some 0 }.restart = some 0 ∧ State.reset.bus.flight = none ∧ ready.restart = none := by decide

/-- GainMultiplierIsRounded: both ends of the range. -/
theorem witness_gain_multiplier : (-400 : Int) ≤ -400 ∧ (-400 : Int) < 240 ∧ (240 : Int) ≤ 240 := by decide

/-- OutputSampleIsRoundedAndClamped: both ends of the samples. -/
theorem witness_output_sample : (-8388608 : Int) ≤ -8388608 ∧ (8388607 : Int) ≤ 8388607 ∧ Pair.atPowerOn.trim = 0 ∧
    Pair.atPowerOn.gate = 960 := by decide

/-- SlotBytesByFormat: the bytes named. -/
theorem witness_slot_bytes : slotBytes .w32m 1#24 = [0#8, 0#8, 1#8, 0#8] ∧ slotBytes .w32l 1#24 = [0#8, 1#8, 0#8, 0#8] ∧
    slotBytes .x32m 1#24 = [0#8, 0#8, 0#8, 1#8] := by decide

/-- GateTurnsTowardItsRequirement: closed and open, at both ends of the fade. -/
theorem witness_gate_turns :
    requiredClosed .idle true = true ∧ requiredClosed .settling false = true ∧ requiredClosed .fadeIn false = false ∧
      Pair.turnGate 960 .idle { Pair.atPowerOn with mute := true } =
        { Pair.atPowerOn with mute := true, dir := .closing } := by decide

/-- A pair that ramps, with its phase at a value. -/
def ramping (phase : Nat) : Pair :=
  { Pair.atPowerOn with level := some 365, trim := -40, target := 25, trimState := .ramping, phase := phase }

/-- SamplePeriodAdvancesEveryPair: a pair of an input without a landing, ramping one period short of the ramp interval and
at it, and closing and opening next to the ends of the fade; a landing count above 0 and one at 0; and a part in which nothing
lands and no sequence runs. -/
theorem witness_sample_period_pairs :
    (pairsOf1 (fun _ => ramping 14) ready).pair? .panel 0 = some (ramping 14) ∧
      (ramping 14).phase + 1 < ready.rate.rampInterval ∧ ready.rate.rampInterval ≤ (ramping 15).phase + 1 ∧
      (ready.moves.get 0).move = .idle ∧
      (pairsOf1 (fun q => { q with dir := .closing, gate := 1 }) bound).pair? (.consumer 0) 0 =
        some { Pair.fresh 960 .known .idle with dir := .closing, gate := 1 } ∧
      (pairsOf1 (fun q => { q with dir := .opening, gate := 959 }) bound).pair? (.consumer 0) 0 =
        some { Pair.fresh 960 .known .idle with dir := .opening, gate := 959 } ∧
      ((moving (.landing (off 28) 1) ready).moves.get 0).move = .landing (off 28) (0 + 1) ∧
      ((moving (.landing (off 28) 0) ready).moves.get 0).move = .landing (off 28) 0 ∧
      ∀ i, (ready.moves.get i).move = .idle ∧ (ready.phantoms.get i).seq = .idle := by decide +kernel

/-- Both fades one gate step short of their ends: input 1 fades out with every pair at g = 1, input 2 fades in with every
pair at g = 959 and a target held on it; input 3 fades out from g = 960, and a move is queued on input 4. -/
def fading : State :=
  let sequences : Tab 48 PhantomCtl := Tab.ofFn fun i =>
    match i with
    | 0 => { PhantomCtl.atPowerOn with seq := .fadeOut, origin := some .off, target := some true }
    | 1 => { PhantomCtl.atPowerOn with
      seq := .fadeIn, phantom := .on, origin := some .off, target := some true, outcome := some .switched }
    | 2 => { PhantomCtl.atPowerOn with seq := .fadeOut, origin := some .off, target := some true }
    | _ => PhantomCtl.atPowerOn
  { ready with
    phantoms := sequences
    moves := (ready.moves.modify 1 fun m => { m with pending := some (off 3) }).modify 3 fun m =>
      { m with move := .queued (off 9) }
    pairs := { ready.pairs with panel := ready.pairs.panel.imap fun i q =>
      match i with
      | 0 => { q with gate := 1, dir := .closing }
      | 1 => { q with gate := 959, dir := .opening }
      | 2 => { q with dir := .closing }
      | _ => q } }

/-- R85, R88: the sample period in which the last gate step is taken ends the fades: WRITING with the phantom command of
input 1 behind the queue, and IDLE with the gain command of the target held on input 2. -/
theorem test_sample_period_ends_fades :
    let t := after (exec (.samplePeriod (Tab.const 48 0#24)) fading)
    (t.phantoms.get 0).seq = .writing ∧ (t.phantoms.get 1).seq = .idle ∧ (t.phantoms.get 2).seq = .fadeOut ∧
      t.bus.queue = [.write (.phantom 0 true), .write (.gain 1 false 3)] := by decide +kernel

/-- SamplePeriodAdvancesEveryPair: a fade out that ends, one that does not, a fade in that ends on an idle input with a
target held and with none, and a move that is QUEUED. -/
theorem witness_sample_period_fades :
    let t := after (exec (.samplePeriod (Tab.const 48 0#24)) fading)
    ((fading.phantoms.get 0).seq = .fadeOut ∧ ∀ q ∈ t.pairs.ofInput 0, q.gate = 0) ∧
      (fading.moves.get 0).move = .idle ∧
      ((fading.phantoms.get 1).seq = .fadeIn ∧ (∀ q ∈ t.pairs.ofInput 1, q.dir = .opened) ∧
        (fading.moves.get 1).move = .idle ∧ (fading.moves.get 1).pending = some (off 3)) ∧
      ((fading.phantoms.get 2).seq = .fadeOut ∧ ∃ q ∈ t.pairs.ofInput 2, q.gate ≠ 0) ∧
      (fading.moves.get 3).move = .queued (off 9) ∧ (t.moves.get 3).move = .queued (off 9) := by decide +kernel

/-- SamplePeriodFormsFrames: a port with a layout, whose consumer has pairs after the period, and one without. -/
theorem witness_sample_period_frames :
    (bound.streams.get 0).layout = some { format := .w32l, slots := 2, rate := .khz48 } ∧
      seatOf bound.entries 0 = some 0 ∧ bound.entries.get 0 = some foh ∧
      (after (exec (.samplePeriod (Tab.const 48 0#24)) bound)).pairs.seats.get 0 =
        some (Tab.const 48 (Pair.fresh 960 .known .idle)) ∧
      (bound.streams.get 5).layout = none := by decide +kernel

/-- R68: while the landing of an input is due, a RAMP_STEP makes no step; after the landing it does. -/
theorem test_ramp_step_after_the_landing :
    let s := moving (.landing (off 28) 0) (pairsOf1 (fun _ => ramping 15) ready)
    let t := after (exec (.landing 0) s)
    after (exec (.rampStep .panel 0) s) = s ∧ (t.pair? .panel 0).map Pair.trim = some (-320) ∧
      ((after (exec (.rampStep .panel 0) t)).pair? .panel 0).map Pair.trim = some (-319) := by decide +kernel

/-- RampStepMovesTheTrim: a pair whose step is due where no landing is, a landing that is due, a pair that is not there, and
pairs whose step the next period does not bring. -/
theorem witness_ramp_step :
    (∀ j, ((pairsOf1 (fun _ => ramping 15) ready).moves.get j).move = .idle) ∧
    ((moving (.landing (off 28) 0) ready).moves.get 0).move = .landing (off 28) 0 ∧
    ready.pair? (.consumer 5) 47 = none ∧
    ((ramping 14).phase + 1 < ready.rate.rampInterval ∧ { ramping 15 with stepped := true }.stepped = true ∧
      ready.pair? .panel 0 = some { Pair.atPowerOn with trimState := .settled }) ∧
    (pairsOf1 (fun _ => ramping 15) ready).pair? .panel 0 = some (ramping 15) ∧ (ramping 15).trimState = .ramping ∧
      (ramping 15).stepped = false ∧ ready.rate.rampInterval ≤ (ramping 15).phase + 1 := by decide +kernel

/-- A pending target and a held phantom request on input 1. -/
def waiting (s : State) : State :=
  (s.modMove 0 fun m => { m with pending := some (off 3) }).modPhantom 0 fun q => { q with held := some true }

/-- LandingJumpsTheTrims: a move that is due, for pairs with and without a level, with and without a pending target and a
held request, and with both; and the first of two moves that are due. -/
theorem witness_landing :
    ((moving (.landing (off 60) 0) bound).moves.get 0).move = .landing (off 60) 0 ∧
      (moving (.landing (off 60) 0) bound).pair? (.consumer 0) 0 = some (Pair.fresh 960 .known .idle) ∧
      ((moving (.landing (off 60) 0) bound).moves.get 0).pending = none ∧
      ((moving (.landing (off 60) 0) bound).phantoms.get 0).held = none ∧
      (((moving (.landing (off 0) 0) bound).modMove 0 fun m => { m with pending := some (off 3) }).moves.get 0).pending =
        some (off 3) ∧
      (pairsOf1 (fun _ => ramping 3) bound).pair? .panel 0 = some (ramping 3) ∧
      (((waiting (moving (.landing (off 0) 0) bound)).moves.get 0).pending = some (off 3) ∧
        ((waiting (moving (.landing (off 0) 0) bound)).phantoms.get 0).held = some true) ∧
      (let due (a : Setting) (m : MoveCtl) : MoveCtl := { m with move := .landing a 0 }
       let two := (ready.modMove 3 (due (off 60))).modMove 47 (due (off 1))
       (two.moves.get 3).move = .landing (off 60) 0 ∧ ∀ j, j < 3 → (two.moves.get j).move = .idle) := by decide +kernel

/-- The end of a fade out: every pair of input 1 at 0. -/
def faded : State := sequence .fadeOut (some true) none (pairsOf1 (fun q => { q with gate := 0, dir := .closed }) bound)

/-- PhantomStepsFollowOneAnother: each of its three steps. -/
theorem witness_phantom_steps :
    ((faded.phantoms.get 0).seq = .fadeOut ∧ (faded.phantoms.get 0).target = some true ∧
      ∀ who q, faded.pair? who 0 = some q → q.gate = 0) ∧
    (((sequence .settling (some true) (some false) bound).phantoms.get 0).seq = .settling ∧
      ((sequence .settling (some true) (some false) bound).phantoms.get 0).reversal = some false) ∧
    (((sequence .settling (some true) none bound).phantoms.get 0).seq = .settling ∧
      ((sequence .settling (some true) none bound).phantoms.get 0).reversal = none) :=
  ⟨⟨by decide +kernel, by decide +kernel, each_pair (by decide +kernel)⟩, by decide +kernel, by decide +kernel⟩

/-- FadeInEndsTheSequence: every gate OPEN, with a pending target and without, on an idle input and a moving one, with an
outcome and without. -/
theorem witness_fade_in_ends :
    ((sequence .fadeIn (some true) none bound).phantoms.get 0).seq = .fadeIn ∧
      (∀ who q, (sequence .fadeIn (some true) none bound).pair? who 0 = some q → q.mute = false → q.dir = .opened) ∧
      (bound.moves.get 0).pending = none ∧ (bound.moves.get 0).move = .idle ∧
      ((waiting bound).moves.get 0).pending = some (off 3) ∧
      ((moving (.landing (off 3) 0) bound).moves.get 0).move.busy = true ∧
      ((sequence .fadeIn (some true) none bound).phantoms.get 0).outcome = none ∧
      ((bound.modPhantom 0 fun q => { q with outcome := some .switched }).phantoms.get 0).outcome = some .switched :=
  ⟨by decide +kernel, each_pair (by decide +kernel), by decide +kernel⟩

/-- TargetsAreDealtWithInOrder: the four cases of an idle input, and a moving one. -/
theorem witness_targets :
    (moving (.queued (off 5)) ready |>.moves.get 0).move.inFlight = some (off 5) ∧
      ((ready.moves.get 0).move = .idle ∧ off 0 = (ready.moves.get 0).setting) ∧
      (off 1 ≠ (ready.moves.get 0).setting ∧
        ((ready.modMove 0 fun m => { m with failed := some (off 1) }).moves.get 0).failed = some (off 1)) ∧
      ((ready.moves.get 0).failed ≠ some (off 1) ∧ (State.reset.moves.get 0).status = .uncertain) ∧
      ((ready.moves.get 0).status = .known ∧ (ready.phantoms.get 0).seq = .idle) := by decide +kernel

/-- A lane with a transmit queue of n bytes. -/
def full (l : LaneId) (n : Nat) (s : State) : State := s.modTx l fun t => { t with queue := List.replicate n 0#8 }

/-- NoticesAreComposedRoutedAndOffered: a CHIP notice of 4 body bytes leaves exactly 96 bytes free at 408 and one less at
409; a mark; a LINK notice with room; a party of the table, its port and an input of its map. -/
theorem witness_notices :
    (ready.comm.setMark .panel (.chip 5) true).marked .panel (.chip 5) = true ∧
      ready.comm.marked .panel (Notice.subject (.chip 5 .ok)) = false ∧
      ((full .panel 408 ready).comm.tx.get 0).queue.length + ((Notice.body (.chip 5 .ok)).length + 4) + 96 ≤ 512 ∧
      512 < ((full .panel 409 ready).comm.tx.get 0).queue.length + ((Notice.body (.chip 5 .ok)).length + 4) + 96 ∧
      (ready.comm.marked .panel (Notice.subject (.link 5 .hold .down noFlags)) = false ∧
        (ready.comm.tx.get 0).queue.length + ((Notice.body (.link 5 .hold .down noFlags)).length + 4) + 96 ≤ 512) ∧
      bound.entries.get 0 = some foh ∧ (0 : Port) ∈ foh.ports ∧ (1 : Input) ∈ (bound.streams.get 0).map := by
  decide +kernel

/-- The bytes of a CHIP notice and of a MOVED notice at pad on and p = 40, and where a CLIP of input 3, in no map, goes. -/
theorem test_notices :
    (Notice.chip 5 .ok).body = [0x57#8, 0#8, 6#8, 1#8] ∧
      (Notice.moved 8 .landed { pad := true, p := 40 }).body = [0x50#8, 0#8, 9#8, 0#8, 0#8, 0xC8#8, 1#8, 40#8] ∧
      bound.clipLanes 2 = [.panel] ∧ bound.clipLanes 1 = [.split 0, .panel] := by decide +kernel

/-- KeepExpiryErasesTheConsumer: a KEEPING consumer, an input it owns locked and one it owns unlocked with a waiter. -/
theorem witness_keep_expiry :
    keeping.entries.get 0 = some { foh with ports := [], presence := .keeping 0 1 } ∧
      Presence.isKeeping (.keeping 0 1) = true ∧ (∀ i, ((owned (some (.consumer 0)) [.panel] true keeping).own.get i).ok) ∧
      ((owned (some (.consumer 0)) [.panel] true keeping).own.get 0).lock = true ∧
      ((owned (some (.consumer 0)) [.panel] false keeping).own.get 0).lock = false ∧
      (keeping.own.get 47).owner ≠ some (.consumer 0) ∧ (keeping.moves.get 0).status = .known ∧
      ((keeping.modMove 0 fun m => { m with status := .uncertain }).moves.get 0).status = .uncertain :=
  ⟨by decide +kernel, by decide, by unfold Ownership.ok; decide +kernel, by decide +kernel⟩

/-- CarrierTakesAPortUpAndDown: a DOWN port while READY and while STARTING, and a port that is not DOWN. -/
theorem witness_carrier :
    ((ready.ports.get 5).state = .down ∧ ready.bus.pass = .ready) ∧ State.reset.bus.pass = .starting ∧
      (bound.ports.get 0).state ≠ .down := by decide +kernel

/-- HoldEndsInOfferOrDown and WaitsEndInHold: each timer running, with carrier and without. -/
theorem witness_timers :
    ((portIn .hold (some (.hold, 3))).ports.get 0).timer = some (.hold, 3) ∧
      ((portIn .hold (some (.hold, 3))).ports.get 0).carrier = true ∧
      ((ready.modPort 0 fun q => { q with state := .hold, timer := some (.hold, 3) }).ports.get 0).carrier = false ∧
      ((portIn .offer (some (.offerWait, 3))).ports.get 0).timer = some (.offerWait, 3) ∧
      ((portIn .confirm (some (.confirmWait, 3))).ports.get 0).timer = some (.confirmWait, 3) ∧
      ((portIn .fault (some (.rebindInhibit, 3))).ports.get 0).timer = some (.rebindInhibit, 3) := by decide +kernel

/-- BreakFlushesAndHolds: a port in each of the states it tells apart. -/
theorem witness_break :
    ((bound.ports.get 0).state ≠ .down ∧ (bound.ports.get 0).state ≠ .hold) ∧ (ready.ports.get 0).state = .down ∧
      ((portIn .hold none).ports.get 0).state = .hold := by decide +kernel

/-- `bound` after a restart has taken effect: S1 is DOWN with its carrier, and the adopting pass runs. -/
def restarted : State := after (exec .restartTakesEffect { bound with restart := some 8 })

/-- R174: while the pass that follows a RESTART runs, a DOWN lane with carrier stores neither a character nor a record; the
same record on a DOWN port while READY is counted IGNORED (R141). -/
theorem test_a_restarted_lane_stores_nothing :
    after (exec (.characterReceived (.split 0) 0xB7#8 false true 1200) restarted) = restarted ∧
      after (exec (.level (.split 0) 3#8 [1#8, 0#8, 0#8]) restarted) = restarted ∧
      ((after (exec (.level (.split 5) 3#8 [1#8, 0#8, 0#8]) ready)).rx.get 6).counters.ignored = 1 := by decide +kernel

/-- UnknownKindsAreAnsweredOrIgnored and CharactersGetTheirMarks: a lane that stores nothing. -/
theorem witness_restarted :
    (restarted.ports.get 0).state = .down ∧ (restarted.ports.get 0).carrier = true ∧ restarted.bus.pass = .starting ∧
      restarted.bus.adopting = true := by decide +kernel

/-- A lane that holds a record it may not take, with n characters waiting. -/
def stuck (n : Nat) : State :=
  (full .panel 417 ready).modRx .panel fun r =>
    { r with framer := .held [0x10#8, 0#8]
             queue := List.replicate n { value := 0#8, framing := false, parity := false, overrun := false, gap := false } }

/-- CharactersGetTheirMarks: a lane without carrier, one that hears, one that is stuck with the last place of its queue
free and with none free, and one in HUNT. -/
theorem witness_characters :
    (ready.ports.get 0).carrier = false ∧ ready.hears .panel = true ∧
      ((0xB7#8, false, true) : Byte × Bool × Bool) ≠ (0#8, false, false) ∧
      ((stuck 511).hears .panel = true ∧ ((stuck 511).rx.get 0).framer.isFree = false ∧
        (stuck 511).canTake .panel = false ∧ ((stuck 511).rx.get 0).queue.length < 512) ∧
      (((stuck 512).rx.get 0).framer.isFree = false ∧ (stuck 512).canTake .panel = false ∧
        512 ≤ ((stuck 512).rx.get 0).queue.length) ∧
      (ready.rx.get 0).framer = .hunt ∧ (ready.rx.get 0).queue = [] := by decide +kernel

/-- Lane P inside a record: the framer waits for the check's low byte of a frame with `body`, whose last character ended at
moment 1000. -/
def inside (body : List Byte) : State :=
  let crc := crcOf (byteOf body.length :: body)
  let high := crc.extractLsb' 8 8
  ready.modRx .panel fun r => { r with framer := .check body (some high) (crcByte crc high), gapRef := some 1000 }

/-- A clean character. -/
def clean (v : Byte) : RxChar := { value := v, framing := false, parity := false, overrun := false, gap := false }

/-- CharactersGetTheirMarks: the check's low byte of a RESTART completes the record, and after a pause it drops it. -/
theorem witness_characters_inside_a_record :
    let s := inside [0x35#8, 9#8]
    let r := s.rx.get 0
    let low := (crcOf [2#8, 0x35#8, 9#8]).extractLsb' 0 8
    (r.framer ≠ .hunt ∧ r.framer.isFree = true ∧ r.queue = [] ∧ s.hears .panel = true ∧ low ≠ 0#8) ∧
      (RxSide.readChar (clean low) r).framer = .held [0x35#8, 9#8] ∧
      (RxSide.readChar { clean low with gap := true } r).framer.isFree = true ∧ ¬(1000 + 44 * 12 < 1528) ∧
      1000 + 44 * 12 < 1529 := by decide +kernel

/-- FramerKeepsOrDrops: each state of the framer inside a record, at both ends of the body, and the marks. -/
theorem witness_framer :
    (Framer.length ≠ .hunt ∧ Framer.length.isFree = true) ∧ (Framer.body 2 [0#8] 0#16 ≠ .hunt) ∧
      (Framer.body 2 [0#8] 0#16).isFree = true ∧ ([] : List Byte).length + 1 < 2 ∧ [0#8].length + 1 = 2 ∧
      (Framer.check [0#8, 0#8] none 0#16 ≠ .hunt ∧ (Framer.check [0#8, 0#8] (some 0#8) 0#16).isFree = true) ∧
      ((clean 2#8).gap = false ∧ ((clean 2#8).framing || (clean 2#8).parity || (clean 2#8).overrun) = false) ∧
      ({ clean 2#8 with gap := true }).gap = true ∧
      ({ clean 2#8 with overrun := true }).overrun = true := by decide

/-- The hypotheses that a lane takes a record at once. -/
theorem takes_at_once {s : State} {l : LaneId}
    (h : (s.rx.get l.idx).framer.isFree = true ∧ (s.rx.get l.idx).queue = [] ∧ s.canTake l = true ∧ s.deaf l = false) :
    s.takesAtOnce l := h

/-- CharactersOfAFrameDeliverItsRecord: lane P and lane S1 in HUNT, the shortest and the longest record. -/
theorem witness_characters_of_a_frame :
    ([] : List Byte).length ≤ 198 ∧ (List.replicate 198 (0#8 : Byte)).length ≤ 198 ∧ ready.hears .panel = true ∧
      ready.takesAtOnce .panel ∧ (ready.rx.get 0).framer = .hunt ∧ (ready.rx.get 0).overrunPending = false ∧
      bound.hears (.split 0) = true ∧ bound.takesAtOnce (.split 0) :=
  ⟨by decide, by decide +kernel, by decide, takes_at_once (by decide +kernel), by decide +kernel, by decide +kernel,
    by decide +kernel, takes_at_once (by decide +kernel)⟩

/-- `stuck 0` with the characters of a RESTART and one marker more waiting behind the record held. -/
def behind : State :=
  (stuck 0).modRx .panel fun r => { r with queue := (frameOf [0x35#8, 9#8] ++ [0xB7#8]).map clean }

/-- R154, R158: with the byte that makes the room the LEVEL held is taken, and refused BAD_LENGTH; the framer then reads on
from where it stopped, holds the RESTART that waited, for which there is no room again, and leaves the rest. -/
theorem test_the_framer_reads_on :
    let t := after (exec (.byteSent .panel) behind)
    (sent .panel t).drop 416 = frameOf [0x40#8, 0#8, 0x10#8, 17#8] ∧ (t.rx.get 0).framer = .held [0x35#8, 9#8] ∧
      (t.rx.get 0).queue = [clean 0xB7#8] ∧ t.restart = none := by decide +kernel

/-- RecordsWaitForRoom and ByteSentFreesRoomAndFlushes: the commands that bring a record of each sort. -/
theorem witness_brings_record (l : LaneId) (tag : Byte) (fields : List Byte) :
    bringsRecord (.offer l tag fields) l 0x01#8 tag fields ∧ bringsRecord (.confirm l tag fields) l 0x02#8 tag fields ∧
      bringsRecord (.unknownKind l 0x7F#8 tag fields) l 0x7F#8 tag fields ∧
      bringsRecord (.level l tag fields) l 0x10#8 tag fields :=
  ⟨.inl ⟨rfl, rfl⟩, .inr (.inl ⟨rfl, rfl⟩), .inr (.inr (.inl rfl)), .inr (.inr (.inr ⟨.level, rfl, rfl⟩))⟩

/-- RecordsWaitForRoom: a lane that stores what it hears, of 417 bytes, that is free and one that holds a record, with room
for 512 characters and for the last one; and lanes that get their room with the next byte, with nothing and with characters
behind the record. -/
theorem witness_records_wait :
    (((full .panel 417 ready).rx.get 0).framer.isFree = true ∧ ((full .panel 417 ready).rx.get 0).queue = [] ∧
      (full .panel 417 ready).canTake .panel = false) ∧
    (((stuck 506).rx.get 0).framer = .held [0x10#8, 0#8] ∧ ((stuck 506).rx.get 0).overrunPending = false ∧
      ((stuck 506).rx.get 0).queue.length + ([0x35#8, 0#8].length + 4) ≤ 512) ∧
    ((full .panel 417 ready).deaf .panel = false ∧ (stuck 506).deaf .panel = false ∧ (stuck 0).deaf .panel = false) ∧
    (((stuck 0).comm.tx.get 0).queue = 0#8 :: List.replicate 416 0#8 ∧ ((stuck 0).comm.tx.get 0).breaking = false ∧
      (stuck 0).restart = none ∧ ((stuck 0).rx.get 0).framer = .held [RequestKind.level.code, 0#8] ∧
      (stuck 0).comm.marksOf .panel = []) ∧
    ((behind.comm.tx.get 0).queue = 0#8 :: List.replicate 416 0#8 ∧ (behind.comm.tx.get 0).breaking = false ∧
      behind.restart = none ∧ (behind.rx.get 0).framer = .held [0x10#8, 0#8] ∧ behind.deaf .panel = false ∧
      (behind.rx.get 0).queue.length = 7 ∧ behind.comm.marksOf .panel = []) := by decide +kernel

/-- A lane with one byte to send. -/
def oneByte : State := full .panel 1 ready

/-- Input 1, chip 6 and port S6 marked on lane P, with n bytes to send. -/
def marked (n : Nat) : State :=
  let s := full .panel n ready
  { s with comm := ((s.comm.setMark .panel (.input 0) true).setMark .panel (.chip 5) true).setMark .panel (.port 5) true }

/-- R179: the port's and the chip's notices are queued in this order, and the flush stops at the STATE that does not fit. -/
theorem test_flush_in_order :
    let t := after (exec (.byteSent .panel) (marked 390))
    (sent .panel t).drop 389 = frameOf [0x56#8, 0#8, 6#8, 0#8, 0#8, 0#8, 0#8] ++ frameOf [0x57#8, 0#8, 6#8, 1#8] ∧
      t.comm.marksOf .panel = [.input 0] ∧ (marked 390).comm.marksOf .panel = [.port 5, .chip 5, .input 0] := by
  decide +kernel

/-- ByteSentFreesRoomAndFlushes: an empty queue and a break; a byte to send, with marks and without, with a restart at its
last byte and before it; and a held record, with no mark standing, that gets its room with this byte or does not. What waits
behind a record, and a lane that takes its record at once, are those of `behind` and of witness_characters_of_a_frame. -/
theorem witness_byte_sent :
    ((ready.comm.tx.get 0).queue = [] ∧ ((ready.modTx .panel fun t => { t with breaking := true }).comm.tx.get 0).breaking =
      true) ∧
    ((oneByte.comm.tx.get 0).queue = [0#8] ∧ (oneByte.comm.tx.get 0).breaking = false ∧ oneByte.restart = none ∧
      (oneByte.rx.get 0).framer.isFree = true ∧ (oneByte.rx.get 0).queue = [] ∧ oneByte.comm.marksInOrder .panel = []) ∧
    ((marked 390).comm.marksInOrder .panel = [.port 5, .chip 5, .input 0] ∧
      ((marked 390).rx.get 0).framer.isFree = true ∧ ((marked 390).comm.tx.get 0).queue = 0#8 :: List.replicate 389 0#8) ∧
    ({ oneByte with restart := some 1 }.restart = some 1 ∧ { oneByte with restart := some 2 }.restart = some 2) ∧
    (((stuck 0).rx.get 0).framer = .held [0x10#8, 0#8] ∧ (stuck 0).deaf .panel = false ∧
      (stuck 0).comm.marksInOrder .panel = [] ∧ (stuck 0).restart = none ∧
      ((stuck 0).comm.tx.get 0).queue = 0#8 :: List.replicate 416 0#8 ∧
      (List.replicate 416 0#8).length + 96 ≤ 512 ∧ ¬((List.replicate 417 0#8).length + 96 ≤ 512) ∧
      ((full .panel 418 (stuck 0)).comm.tx.get 0).queue = 0#8 :: List.replicate 417 0#8) := by decide +kernel

/-- A whole frame written out: RESTART with tag 9, whose check is 0xC9B5 by R153's CRC. -/
theorem test_frame : frameOf [0x35#8, 9#8] = [0xB7#8, 2#8, 0x35#8, 9#8, 0xC9#8, 0xB5#8] := by decide +kernel

/-- OfferChecksInOrder: an OFFER that fails each check in turn, and ones that pass. -/
theorem witness_offer_checks :
    (∃ p, (((portIn .offer none).ports.get p).state = .offer ∨ ((portIn .offer none).ports.get p).state = .confirm) ∧
      ((portIn .offer none).ports.get p).nonce = some { monPartner with nonce := 5#32 }.nonce) ∧
    (¬∃ p, ((bound.ports.get p).state = .offer ∨ (bound.ports.get p).state = .confirm) ∧
      (bound.ports.get p).nonce = some monPartner.nonce) ∧
    ({ monPartner with role := 3#8 }.role ≠ 1#8 ∧ { monPartner with role := 3#8 }.role ≠ 2#8) ∧
    (monPartner.role = 1#8 ∧ { monPartner with identity := 0#32 }.identity = 0#32 ∧ monPartner.identity ≠ 0#32 ∧
      monPartner.identity ≠ 0xFFFFFFFF#32) ∧
    ({ monPartner with rates := 2#8 }.rates.getLsbD 0 = false ∧ monPartner.rates.getLsbD 0 = true) ∧
    ({ monPartner with formats := 0xF0#8 }.formats.getLsbD 3 = false ∧ monPartner.formats.getLsbD 2 = true ∧
      monPartner.maxChannels ≠ 0#8) ∧
    (seatNamed bound.entries 7#32 = some 0 ∧ bound.entries.get 0 = some foh ∧ foh.presence.isKeeping = false ∧
      foh.ports = [0] ∧ (bound.ports.get 0).page = some fohPage ∧ (true && fohPage.twin) = true ∧
      (false && fohPage.twin) = false ∧ 2 ≤ { foh with ports := [0, 5] }.ports.length) := by decide +kernel

/-- OfferChecksInOrder, the OFFER of a party that is not PRESENT. -/
theorem witness_offer_of_an_absent_party :
    ∀ k c, keeping.entries.get k = some c → c.identity = 7#32 → c.presence.isKeeping = true :=
  each_entry (by decide +kernel)

/-- OfferIsConfirmedOrRefused: an OFFER taken in OFFER and in CONFIRM that passes, and one that fails. -/
theorem witness_offer_taken :
    (portIn .offer none).takesAtOnce (.split 0) ∧ ((portIn .offer none).ports.get 0).state = .offer ∧
      ((portIn .confirm none).ports.get 0).state = .confirm ∧ parseOffer monOffer = some monPartner ∧
      (portIn .offer none).resolve monPartner = .ok monResolved ∧
      (portIn .offer none).resolve { monPartner with nonce := 5#32 } = .error .loop :=
  ⟨takes_at_once (by decide +kernel), by decide +kernel, by decide +kernel, by decide +kernel, by rfl, by rfl⟩

/-- The port of `bound` after it has left BOUND and entered OFFER. -/
def reoffered : State := (bound.leaveBound 0 bound.nextStamp).enterOffer 0

/-- A nonce that differs from the one drawn is not live there. -/
theorem reoffered_resolves (nonce : BitVec 32) (h : nonce ≠ Config.freeNonce 0) :
    reoffered.resolve { monPartner with nonce := nonce } = .ok monResolved := by
  have hp : ∀ p, p ≠ 0 → (reoffered.ports.get p).state = .down := by decide +kernel
  have h0 : (reoffered.ports.get 0).nonce = some (Config.freeNonce 0) := rfl
  have hlive : reoffered.liveNonce nonce = false := by
    refine List.any_eq_false.mpr fun p _ => ?_
    by_cases hz : p = 0
    · subst hz
      simp [h0, h.symm]
    · simp [hp p hz]
  have he : seatNamed reoffered.entries 0x4D#32 = none := by decide +kernel
  have hr : reoffered.rate = .khz48 := by decide +kernel
  simp only [State.resolve, hlive, hr, monPartner, he]
  rfl

/-- An OFFER of a role that is none is refused there, whatever nonce is drawn. -/
theorem reoffered_refuses : ∃ why, reoffered.resolve { monPartner with role := 3#8 } = .error why := by
  cases h : reoffered.liveNonce monPartner.nonce
  · exact ⟨.box, by simp only [State.resolve, h]; rfl⟩
  · exact ⟨.loop, by simp only [State.resolve, h]; rfl⟩

/-- OfferInBoundReoffers: an OFFER taken in BOUND that passes, and one, of a role that is none, that fails. Whatever nonce
is drawn, one of two OFFERs carries another. -/
theorem witness_offer_in_bound :
    bound.takesAtOnce (.split 0) ∧ (bound.ports.get 0).state = .bound ∧
      ∃ b : Byte, parseOffer ([0#8, 0#8, 0#8, b] ++ monOffer.drop 4) =
          some { monPartner with nonce := u32 0#8 0#8 0#8 b } ∧
        reoffered.resolve { monPartner with nonce := u32 0#8 0#8 0#8 b } = .ok monResolved ∧
        ∃ why, reoffered.resolve { monPartner with role := 3#8 } = .error why := by
  refine ⟨takes_at_once (by decide +kernel), by decide +kernel, ?_⟩
  by_cases h : u32 0#8 0#8 0#8 9#8 = Config.freeNonce 0
  · exact ⟨8#8, by decide +kernel, reoffered_resolves _ (by rw [← h]; decide), reoffered_refuses⟩
  · exact ⟨9#8, by decide +kernel, reoffered_resolves _ h, reoffered_refuses⟩

/-- ConfirmBindsOrFaults: a CONFIRM that matches and one that does not. -/
theorem witness_confirm :
    awaiting.takesAtOnce (.split 0) ∧ (awaiting.ports.get 0).state = .confirm ∧
      parseConfirm [0#8, 0#8, 0#8, 5#8, 2#8, 48#8, 1#8] =
        some { nonce := 5#32, format := 2#8, slots := 48#8, role := 1#8 } ∧
      (awaiting.ports.get 0).page = some (monPartner.page .claimant) ∧
      (awaiting.ports.get 0).resolved = some monResolved ∧
      ((awaiting.ports.get 0).nonce = some 5#32 ∧ (2#8 : Byte) = Format.code .w32l ∧ (48#8 : Byte).toNat = 48) ∧
      (48#8 : Byte).toNat ≠ 32 ∧ (awaiting.entries.get 0 = none) ∧
      (∀ k x, awaiting.entries.get k = some x → x.identity ≠ 0x4D#32) ∧
      (∀ k x, awaiting.entries.get k = some x → (0 : Port) ∉ x.ports) :=
  ⟨takes_at_once (by decide +kernel), by decide +kernel, by decide +kernel, by decide +kernel, by decide +kernel,
    by decide +kernel, by decide, by decide +kernel, each_entry (by decide +kernel), each_entry (by decide +kernel)⟩

/-- ConfirmBindsOrFaults: the CONFIRM of a party that is KEEPING. -/
theorem witness_confirm_of_a_keeping_party :
    let s : State := { keeping with ports := (portIn .confirm none).ports }
    (s.ports.get 0).page = some fohPage ∧ seatNamed s.entries fohPage.identity = some 0 ∧
      s.entries.get 0 = some { foh with ports := [], presence := .keeping 0 1 } ∧ foh.role = fohResolved.role ∧
      (∀ k y, s.entries.get k = some y → (0 : Port) ∈ y.ports → k = 0) ∧
      { foh with role := .listener }.role ≠ fohResolved.role :=
  ⟨by decide +kernel, by decide +kernel, by decide +kernel, by decide, each_entry (by decide +kernel), by decide⟩

/-- That party PRESENT on `ports`, with a CONFIRM to come on S1. -/
def present (ports : List Port) : State :=
  { ready with
    ports := ((ready.ports.set 5 (linkIn .bound none)).set 4 (linkIn .bound none)).set 0 (linkIn .confirm none)
    entries := ready.entries.set 0 (some { foh with ports := ports }) }

/-- ConfirmBindsOrFaults: the CONFIRM of a PRESENT party, on one other port and on two, with the twin mark and without, and
with values that agree and that do not. -/
theorem witness_confirm_of_a_present_party :
    seatNamed (present [5]).entries fohPage.identity = some 0 ∧
      (present [5]).entries.get 0 = some { foh with ports := [5] } ∧ foh.presence.isKeeping = false ∧
      (0 : Port) ∉ ([5] : List Port) ∧ ((present [5]).ports.get 5).page = some fohPage ∧
      (fohPage.twin && fohPage.twin) = true ∧ ({ fohPage with twin := false }.twin && fohPage.twin) = false ∧
      (fohResolved.format = foh.format ∧ fohResolved.slots = foh.slots ∧ fohResolved.role = foh.role) ∧
      { fohResolved with slots := 3 }.slots ≠ foh.slots ∧ (0 : Port) ∉ ([4, 5] : List Port) ∧
      (present [4, 5]).entries.get 0 = some { foh with ports := [4, 5] } ∧
      (∀ k x, (present [5]).entries.get k = some x → (0 : Port) ∈ x.ports → k = 0) :=
  ⟨by decide +kernel, by decide +kernel, by decide, by decide, by decide +kernel, by decide, by decide, by decide,
    by decide, by decide, by decide +kernel, each_entry (by decide +kernel)⟩

/-- `awaiting` with all six entries in use, each KEEPING, and the timer of the last one and of the first started first. -/
def crowded : State :=
  { awaiting with
    entries := Tab.ofFn fun k => some { foh with
      identity := BitVec.ofNat 32 (k.val + 1), ports := []
      presence := .keeping 0 (if k.val = 0 ∨ k.val = 5 then 1 else 2) } }

/-- ConfirmBindsOrFaults: the CONFIRM of an unknown party with every entry in use, and the party that it evicts. -/
theorem witness_confirm_that_evicts :
    (crowded.entries.get 0).map Consumer.presence = some (.keeping 0 1) ∧ (∀ k, crowded.entries.get k ≠ none) ∧
      (∀ k x since n, crowded.entries.get k = some x → x.presence = .keeping since n →
        1 < n ∨ (1 = n ∧ (0 : Seat) ≤ k)) ∧
      (∀ k x, crowded.entries.get k = some x → x.identity ≠ 0x4D#32) ∧
      (after (exec (.confirm (.split 0) 6#8 [0#8, 0#8, 0#8, 5#8, 2#8, 48#8, 1#8]) crowded)).entries.get 0 =
        some { identity := 0x4D#32, name := monPartner.name, role := .claimant, presence := .present, ports := [0]
               format := .w32l, slots := 48, map := allInputs } := by
  refine ⟨by decide +kernel, by decide +kernel, fun k x since n h hp => ?_, each_entry (by decide +kernel), by decide +kernel⟩
  have hk : ∀ k, 1 ≤ (keepStampOf crowded.entries k).getD 0 := by decide +kernel
  have h1 : 1 ≤ n := by simpa [keepStampOf, h, hp, Presence.isKeeping, Presence.stamp] using hk k
  exact (Nat.lt_or_eq_of_le h1).imp_right fun e => ⟨e, Nat.zero_le _⟩

/-- R27: the second port of a party with two twin ports joins its entry; R138: without the twin mark the bind is refused. -/
theorem test_confirm_twin :
    let confirm := Instr.confirm (.split 0) 6#8 [0#8, 0#8, 0#8, 5#8, 2#8, 2#8, 1#8]
    ((after (exec confirm (present [5]))).entries.get 0).map Consumer.ports = some [5, 0] ∧
      ((after (exec confirm (present [4, 5]))).ports.get 0).flags.get Reason.duplicate.flag.bit = true ∧
      ((after (exec confirm (present [4, 5]))).ports.get 0).state = .fault := by decide +kernel

/-- The hypotheses that a request is served. -/
theorem serves_request {s : State} {l : LaneId} {k : RequestKind} {who : Party}
    (h : ((s.rx.get l.idx).framer.isFree = true ∧ (s.rx.get l.idx).queue = [] ∧ s.canTake l = true ∧ s.deaf l = false) ∧
      s.boundRequester l = some who ∧ (k.panelOnly = true → l = .panel) ∧
      (k.touchesInput = true → s.bus.pass = .ready)) : s.serves l k who := h

/-- The panel's requests of every kind are served on lane P, and a consumer's of the kinds that it may send on S1. -/
theorem witness_served :
    (∀ k : RequestKind, ready.serves .panel k .panel) ∧
      ∀ k : RequestKind, k.panelOnly = false → bound.serves (.split 0) k (.consumer 0) := by
  refine ⟨fun k => serves_request ⟨by decide +kernel, by decide +kernel, fun _ => rfl, fun _ => by decide⟩,
    fun k h => serves_request ⟨by decide +kernel, by decide +kernel, fun h' => ?_, fun _ => by decide⟩⟩
  rw [h] at h'
  exact absurd h' (by decide)

/-- RequestChecksInOrder: a request that reaches the checks, and each check failing. -/
theorem witness_request_checks :
    ready.takesAtOnce .panel ∧ ready.reachesChecks .panel 0x10#8 ∧
      (portIn .offer none).reachesChecks (.split 0) 0x10#8 ∧ RequestKind.fits .level 2 = false ∧
      RequestKind.fits .level 3 = true ∧ (RequestKind.panelOnly .lock = true ∧ LaneId.split 0 ≠ .panel) ∧
      ((portIn .offer none).ports.get 0).state ≠ .bound ∧ bound.boundRequester (.split 0) = some (.consumer 0) ∧
      (RequestKind.touchesInput .level = true ∧ State.reset.bus.pass = .starting ∧ bound.bus.pass = .ready) ∧
      (48 < (49#8 : Byte).toNat ∧ (49#8 : Byte) ∈ [1#8, 49#8]) ∧ RequestKind.panelOnly .level = false ∧
      ((2#8 : Byte) ≠ 0#8 ∧ (2#8 : Byte) ≠ 1#8 ∧ 6 < (7#8 : Byte).toNat ∧ (47#8 : Byte) ≠ 48#8 ∧ (47#8 : Byte) ≠ 96#8) :=
  ⟨takes_at_once (by decide +kernel), trivial, ⟨Or.inl (by decide +kernel), by decide, by decide⟩, by decide, by decide,
    by decide, by decide +kernel, by decide +kernel, by decide +kernel, by decide, by decide, by decide⟩

/-- UnknownKindsAreAnsweredOrIgnored: an unknown kind on lane P, on a BOUND port's lane and on a DOWN port's lane. -/
theorem witness_unknown_kind :
    kindUnknown .panel 0x01#8 = true ∧ kindUnknown (.split 0) 0x50#8 = true ∧ bound.takesAtOnce (.split 0) ∧
      bound.reachesChecks (.split 0) 0x50#8 ∧ ready.takesAtOnce (.split 0) ∧ (ready.ports.get 0).state = .down ∧
      parseOffer (List.replicate 13 0#8) = none ∧ parseConfirm (List.replicate 8 0#8) = none ∧
      awaiting.takesAtOnce (.split 0) ∧ (awaiting.ports.get 0).state = .confirm :=
  ⟨by decide +kernel, by decide +kernel, takes_at_once (by decide +kernel),
    ⟨Or.inr (Or.inr (by decide +kernel)), by decide, by decide⟩, takes_at_once (by decide +kernel), by decide +kernel,
    by decide, by decide, takes_at_once (by decide +kernel), by decide +kernel⟩

/-- LevelOfANonOwnerStaysInItsPair and LevelOfTheOwnerIsPursued: a pair of a party that does not own the input, and of one
that does, with the lock on and off, the input KNOWN and UNCERTAIN. -/
theorem witness_level :
    ((bound.own.get 0).owner ≠ some (.consumer 0) ∧
      bound.pair? (.consumer 0) 0 = some (Pair.fresh 960 .known .idle) ∧ (bound.moves.get 0).status = .known) ∧
    (((owned (some (.consumer 0)) [] true bound).own.get 0).owner = some (.consumer 0) ∧
      ((owned (some (.consumer 0)) [] true bound).own.get 0).lock = true ∧ Party.consumer 0 ≠ .panel) ∧
    ((owned (some (.consumer 0)) [] false bound).own.get 0).lock = false ∧
    ((bound.modMove 0 fun m => { m with status := .uncertain }).moves.get 0).status = .uncertain := by decide +kernel

/-- MapIsStoredOrRefused: a list with a repeat and one without, from the panel and from a consumer. -/
theorem witness_map :
    (¬([4, 6, 4] : List Input).Nodup ∧ ([4, 6, 4] : List Input) ≠ []) ∧ (allInputs.Nodup ∧ allInputs ≠ []) ∧
      bound.entries.get 0 = some foh ∧ allInputs.length ≤ 198 := by decide +kernel

/-- TakeClaimsAnInput, ReleasePassesOwnershipOn and PadChoosesAndPursues: a locked input, a LISTENER, an owner, a free
input, a waiter and a party that is none of these. -/
theorem witness_claims :
    ((owned none [] true bound).own.get 0).lock = true ∧
      ({ bound with entries := bound.entries.set 0 (some { foh with role := .listener }) }.roleOf (.consumer 0) =
        .listener ∧ bound.roleOf (.consumer 0) ≠ .listener) ∧
      ((owned (some (.consumer 0)) [] false bound).own.get 0).owner = some (.consumer 0) ∧
      (bound.own.get 0).owner = none ∧
      (((owned (some .panel) [.consumer 3, .consumer 0] false bound).own.get 0).owner ≠ some (.consumer 0) ∧
        ((owned (some .panel) [.consumer 3, .consumer 0] false bound).own.get 0).waiting[1]? = some (.consumer 0) ∧
        Party.consumer 0 ∉ ((owned (some .panel) [.consumer 3, .consumer 0] false bound).own.get 0).waiting.take 1) ∧
      Party.consumer 0 ∉ ((owned (some .panel) [] false bound).own.get 0).waiting ∧
      ((owned (some .panel) [.consumer 3, .consumer 0] false bound).own.get 0).ok :=
  ⟨by decide +kernel, by decide +kernel, by decide +kernel, by decide +kernel, by decide +kernel, by decide +kernel,
    by unfold Ownership.ok; decide +kernel⟩

/-- PhantomIsCheckedAndRun: no authority, a lock, a chip that is not OK, and every step a request can meet. -/
theorem witness_phantom :
    (bound.own.get 0).owner ≠ some (.consumer 0) ∧
      ((owned (some (.consumer 0)) [] true bound).own.get 0).lock = true ∧
      (State.reset.bus.chips.get (chipOf 0) ≠ .ok ∧ ready.bus.chips.get (chipOf 0) = .ok) ∧
      ((ready.phantoms.get 0).seq = .idle ∧ (ready.phantoms.get 0).phantom = .off) ∧
      ((moving (.queued (off 3)) ready).moves.get 0).move ≠ .idle ∧
      (((sequence .fadeOut (some true) none ready).phantoms.get 0).target ≠ some false ∧
        ((sequence .fadeOut (some true) none ready).phantoms.get 0).origin = some .off ∧
        ((sequence .fadeOut (some false) none ready).phantoms.get 0).origin ≠ some .on) ∧
      (((sequence .writing (some true) none ready).phantoms.get 0).seq = .writing ∧
        ((sequence .settling (some true) none ready).phantoms.get 0).seq = .settling ∧
        ((sequence .fadeIn (some true) none ready).phantoms.get 0).seq = .fadeIn) := by decide +kernel

/-- QueryInputReportsAndClears: the requester's pair. -/
theorem witness_query_input : bound.pair? (.consumer 0) 47 = some (Pair.fresh 960 .known .idle) := by decide +kernel

/-- QueriesReportAndClear: another port than the lane's own, a free entry, and one in use. -/
theorem witness_queries :
    LaneId.split 0 ≠ .split 5 ∧ ready.takesAtOnce .panel ∧ bound.entries.get 5 = none ∧ bound.entries.get 0 = some foh :=
  ⟨by decide, takes_at_once (by decide +kernel), by decide +kernel, by decide +kernel⟩

/-- LockAndForce: an input that the panel owns, and one that it does not. -/
theorem witness_force :
    ((owned (some .panel) [] true ready).own.get 0).owner = some .panel ∧
      ((owned (some (.consumer 0)) [.panel] true bound).own.get 0).owner ≠ some .panel := by decide +kernel

/-- SetRateRestsAndHolds: the rate in force and another, a busy input and none, a bound port and a DOWN one. -/
theorem witness_set_rate :
    BoxRate.khz48 = ready.rate ∧ BoxRate.khz96 ≠ ready.rate ∧
      (∃ i, ((moving (.landing (off 3) 7) ready).moves.get i).move ≠ .idle ∨
        ((moving (.landing (off 3) 7) ready).phantoms.get i).seq ≠ .idle) ∧
      (¬∃ i, (bound.moves.get i).move ≠ .idle ∨ (bound.phantoms.get i).seq ≠ .idle) ∧
      (bound.ports.get 0).state = .bound ∧ (bound.ports.get 5).state = .down := by decide +kernel

/-- ResetPortHoldsAndClears: READY and STARTING. -/
theorem witness_reset_port : ready.bus.pass = .ready ∧ State.reset.bus.pass = .starting ∧
    State.reset.serves .panel .resetPort .panel :=
  ⟨by decide, by decide, serves_request (by decide +kernel)⟩

/-- WordsAndWireBytes: the commands and the replies it names. -/
theorem witness_words : Command.input (.gain (inputAt 5 7) false 60) = inputAt 5 7 ∧
    readWord (.bytes 6#8 (some 0x3C#8)) = some 0x3C#8 ∧ readWord (.bytes 6#8 (some 0x3D#8)) = none := by decide +kernel

/-- The queue of the bus is set. -/
def queued (q : List QueueEntry) (s : State) : State := s.modBus fun b => { b with queue := q }

/-- TheHeadOfTheQueueBegins: each kind of head, and an empty queue with the poll at an OK and at a FAULTED chip. -/
theorem witness_queue_heads :
    (queued [.write (.gain 0 false 33)] ready).bus.queue = .write (.gain 0 false 33) :: [] ∧
      (queued [.verify (.phantom 0 true) 0#8 0x80#8] ready).bus.queue = .verify (.phantom 0 true) 0#8 0x80#8 :: [] ∧
      (queued [.adoption 1 7] ready).bus.queue = .adoption 1 7 :: [] ∧
      (ready.bus.queue = [] ∧ ready.bus.pass = .ready ∧ ready.bus.chips.get (chipOf ready.bus.pollPos) = .ok) ∧
      ((ready.modBus fun b => { b with chips := b.chips.set 0 .faulted }).bus.chips.get (chipOf ready.bus.pollPos)) =
        .faulted := by decide +kernel

/-- WriteReplyDecidesOrVerifies and VerifyReadDecides: a gain write of an ON_WIRE move, a phantom write of a sequence in
WRITING, and a queue with reads ahead of writes. -/
theorem witness_writes :
    ((flying (.write (.gain 0 false 33) 0x1F#8 0x21#8) (moving (.onWire (off 33)) ready)).bus.flight =
        some { txn := .write (.gain 0 false 33) 0x1F#8 0x21#8, discard := false } ∧
      ((flying (.write (.gain 0 false 33) 0x1F#8 0x21#8) (moving (.onWire (off 33)) ready)).moves.get 0).move =
        .onWire (off 33)) ∧
    (((sequence .writing (some true) none ready).phantoms.get 0).seq = .writing ∧
      ((sequence .writing (some true) none ready).phantoms.get 0).target = some true) ∧
    ((0x15#8 : Byte) ≠ 0x06#8 ∧
      (queued [.adoption 1 7, .write (.gain 29 false 3)] ready).bus.queue =
        [.adoption 1 7] ++ [.write (.gain 29 false 3)] ∧
      (∀ e ∈ [QueueEntry.adoption 1 7], e.isWrite = false) ∧
      ∀ e, [QueueEntry.write (.gain 29 false 3)].head? = some e → e.isWrite = true) ∧
    (readWord (.bytes 6#8 (some 0x21#8)) = some 0x21#8 ∧ readWord (.bytes 6#8 (some 0x1F#8)) = some 0x1F#8 ∧
      (0x1F#8 : Byte) ≠ 0x21#8 ∧ readWord .silent ≠ some 0x1F#8 ∧ readWord .silent ≠ some 0x21#8) :=
  ⟨by decide +kernel, by decide +kernel,
    ⟨by decide, by decide +kernel, by decide, fun e he => by injection he with he; subst he; rfl⟩, by decide +kernel⟩

/-- StatusReadReportsItsLatches: a read unanswered, one without latches and one with both, and a settle toward ON. -/
theorem witness_status :
    (flying (.status 47) ready).bus.flight = some { txn := .status 47, discard := false } ∧ readValue .silent = none ∧
      readValue (.bytes 6#8 (some 3#8)) = some 3#8 ∧ (3#8 : Byte).getLsbD 1 = true ∧ (0#8 : Byte).getLsbD 1 = false ∧
      ((sequence .settling (some true) none ready).phantoms.get 0).seq = .settling ∧
      ((sequence .settling (some true) none ready).phantoms.get 0).target = some true := by decide +kernel

/-- ProbesRecoverAChip: the poll's identity read, and adoption reads up to the eighth. -/
theorem witness_probes :
    (flying (.identity 5) ready).bus.flight = some { txn := .identity 5, discard := false } ∧
      readValue (.bytes 6#8 (some 0x5A#8)) = some 0x5A#8 ∧ readValue .silent ≠ some 0x5A#8 ∧
      (flying (.adoption 5 7) ready).bus.flight = some { txn := .adoption 5 7, discard := false } ∧
      readWord .silent = none ∧ readWord (.bytes 6#8 (some 0#8)) = some 0#8 ∧
      ((ready.modBus fun b => { b with probe := List.replicate 7 0#8 }).bus.probe.length = 7) ∧
      (∀ j, chipOf j = 5 → (ready.moves.get j).move = .idle) := by decide +kernel

/-- R113: a write and a status read that a RESTART left on the wire change nothing, however they end. -/
theorem test_discarded_results :
    let left (t : Txn) : State := ready.modBus fun b => { b with flight := some { txn := t, discard := true } }
    let begun := flying (.startIdentity 0) ready
    after (exec (.writeDecided 0x15#8) (left (.write (.gain 0 false 33) 0x1F#8 0x21#8))) = begun ∧
      after (exec (.statusRead (.bytes 6#8 (some 3#8))) (left (.status 8))) = begun := by decide +kernel

/-- TheStartUpPassReadsItsChips, StartUpWritesMakeInputsKnown and TimeoutsEndByTheirOwnRule: each transaction of the pass,
writing and adopting, up to the last channel of the last chip, a transaction that a RESTART left on the wire, and no
transaction. -/
theorem witness_start_up :
    (flying (.startIdentity 5) State.reset).bus.flight = some { txn := .startIdentity 5, discard := false } ∧
      State.reset.bus.adopting = false ∧ (State.reset.modBus fun b => { b with adopting := true }).bus.adopting = true ∧
      (flying (.startAdoption 5 7) State.reset).bus.flight = some { txn := .startAdoption 5 7, discard := false } ∧
      (∀ j, chipOf j = 5 → (State.reset.moves.get j).move = .idle) ∧
      (flying (.startWrite 5 7) State.reset).bus.flight = some { txn := .startWrite 5 7, discard := false } ∧
      (flying (.startVerify 5 7) State.reset).bus.flight = some { txn := .startVerify 5 7, discard := false } ∧
      (∀ t : Txn, (ready.modBus fun b => { b with flight := some { txn := t, discard := true } }).bus.flight =
        some { txn := t, discard := true }) ∧
      (6 : Fin 8).val + 1 < 8 ∧ State.reset.bus.flight = none :=
  ⟨by decide +kernel, by decide +kernel, by decide +kernel, by decide +kernel, by decide +kernel, by decide +kernel,
    by decide +kernel, fun _ => rfl, by decide, by decide⟩

/-- `bound` with the loss of its carrier waiting in the queue. -/
def busy : State := { bound with pending := [.carrierLoss 0] }

theorem busy_entry : ∀ k c, busy.entries.get k = some c → k = 0 ∧ c = foh := each_entry (by decide +kernel)

theorem busy_pair (who : Party) (i : Input) (q : Pair) (h : busy.pair? who i = some q) :
    q = { Pair.atPowerOn with trimState := .settled } :=
  have all : ∀ i, ∀ q ∈ busy.pairs.ofInput i, q = { Pair.atPowerOn with trimState := .settled } := by decide +kernel
  each_pair (all i) who q h

/-- EveryStepKeepsOwnersAndTable: a bound consumer and a command that takes its link away. -/
theorem witness_owners_and_table :
    busy.ownersOk ∧ busy.tableOk ∧ busy.partiesOk ∧ busy.timersOk ∧ step busy = .next (after (step busy)) := by
  refine ⟨by unfold State.ownersOk Ownership.ok; decide +kernel, ⟨by decide +kernel, ?_, ?_, ?_⟩, ?_, ?_, rfl⟩
  · intro k k' c c' h h' _
    rw [(busy_entry k c h).1, (busy_entry k' c' h').1]
  · intro k c h
    obtain ⟨-, rfl⟩ := busy_entry k c h
    exact ⟨by decide, by decide, by decide, by decide +kernel⟩
  · intro k k' c c' _ h h' _ _
    rw [(busy_entry k c h).1, (busy_entry k' c' h').1]
  · intro i k
    have h : ∀ i, (busy.own.get i).owner = none ∧ (busy.own.get i).waiting = [] := by decide +kernel
    simp [h i]
  · intro p k since h
    have hn : ∀ p, (busy.ports.get p).timer = none := by decide +kernel
    rw [hn p] at h
    cases h

/-- EveryStepKeepsGates. -/
theorem witness_gates : busy.gatesOk ∧ step busy = .next (after (step busy)) := by
  refine ⟨fun who i q h => ?_, rfl⟩
  have hseq : ∀ i, (busy.phantoms.get i).seq = .idle := by decide +kernel
  rw [busy_pair who i q h, hseq i]
  exact ⟨rfl, Or.inr rfl, fun h => by rcases h with h | h <;> cases h⟩

/-- EveryStepKeepsNumbers. -/
theorem witness_numbers : busy.tableOk ∧ busy.timersOk ∧ busy.numbersOk ∧ step busy = .next (after (step busy)) := by
  refine ⟨witness_owners_and_table.2.1, witness_owners_and_table.2.2.2.1,
    ⟨fun who i q h => ?_, by decide, fun i a n h => ?_, by decide +kernel, by decide +kernel, fun k c h => ?_,
      fun p pg h => ?_, by decide +kernel, by decide +kernel⟩, rfl⟩
  · rw [busy_pair who i q h]
    exact ⟨fun l hl => (by cases hl), by decide, by decide, by decide, by decide⟩
  · have hm : ∀ i, (busy.moves.get i).move = .idle := by decide +kernel
    rw [hm i] at h
    cases h
  · rw [(busy_entry k c h).2]
    decide
  · have hp : ∀ p, ∀ pg ∈ (busy.ports.get p).page.toList, pg.name.length ≤ 16 := by decide +kernel
    exact hp p pg (Option.mem_toList.mpr h)

/-- EveryStepKeepsWords. -/
theorem witness_words_in_range : busy.wordsOk ∧ step busy = .next (after (step busy)) := by
  refine ⟨⟨fun i => ?_, by decide +kernel, by decide, fun e he => (by cases he), fun f hf => ?_⟩, rfl⟩
  · have h : ∀ i, busy.moves.get i = { MoveCtl.atPowerOn with status := .known } := by decide +kernel
    rw [h i]
    exact ⟨Nat.zero_le _, fun t ht => (by cases ht), fun t ht => (by cases ht)⟩
  · cases hf
    trivial

end Sys2Proof.Tests
end

section
/-! PROOF. The sample arithmetic of R12, R15 and R18: the gain multiplier as the floor of a real number, the output sample
as a clamped floor, and the turn of a gate. -/

namespace Sys2Proof.Machine

/-! ## The gain multiplier (R12) -/

/-- 2^20 · 10^(T/200), the real number that R12 rounds. -/
noncomputable def realGain (t : Int) : ℝ := (2 : ℝ) ^ 20 * (10 : ℝ) ^ ((t : ℝ) / 200)

theorem realGain_pos (t : Int) : 0 < realGain t := by
  unfold realGain
  positivity

/-- The integers that `gainReaches` compares are powers of the real gain, cleared of the negative exponent of ten. -/
theorem two_realGain_pow (t : Int) :
    (2 * realGain t) ^ 200 * (10 : ℝ) ^ (-t).toNat = (2 : ℝ) ^ 4200 * (10 : ℝ) ^ t.toNat := by
  have htwo : (2 * (2 : ℝ) ^ 20) ^ 200 = 2 ^ 4200 := by rw [← pow_succ', ← pow_mul]
  have hten : ((10 : ℝ) ^ ((t : ℝ) / 200)) ^ 200 = 10 ^ t := by
    rw [← Real.rpow_mul_natCast (by norm_num), ← Real.rpow_intCast]
    congr 1
    push_cast
    ring
  have hclear : (10 : ℝ) ^ t * 10 ^ (-t).toNat = 10 ^ t.toNat := by
    rw [← zpow_natCast, ← zpow_natCast, ← zpow_add₀ (by norm_num)]
    congr 1
    omega
  rw [realGain, ← mul_assoc, mul_pow, htwo, hten, mul_assoc, hclear]

/-- `gainReaches` decides m ≤ 2^20 · 10^(T/200) + 1/2: both sides of 2m - 1 ≤ 2 · realGain T are taken to the 200th power. -/
theorem gainReaches_iff (t : Int) (m : Nat) : gainReaches t m = true ↔ (m : ℝ) ≤ realGain t + 1 / 2 := by
  have hpos := realGain_pos t
  unfold gainReaches
  rw [Nat.ble_eq]
  cases m with
  | zero =>
    have hzero : Nat.pow (2 * 0 - 1) 200 = 0 := Nat.zero_pow (by norm_num)
    rw [hzero, Nat.zero_mul, Nat.cast_zero]
    exact iff_of_true (Nat.zero_le _) (by linarith)
  | succ k =>
    have hodd : 2 * (k + 1) - 1 = 2 * k + 1 := by omega
    have hten : (0 : ℝ) < 10 ^ (-t).toNat := by positivity
    rw [hodd]
    calc Nat.pow (2 * k + 1) 200 * Nat.pow 10 (-t).toNat ≤ Nat.pow 2 4200 * Nat.pow 10 t.toNat
        ↔ ((2 * k + 1 : ℕ) : ℝ) ^ 200 * 10 ^ (-t).toNat ≤ (2 * realGain t) ^ 200 * 10 ^ (-t).toNat := by
          rw [two_realGain_pow, ← Nat.cast_le (α := ℝ)]
          simp only [Nat.pow_eq, Nat.cast_mul, Nat.cast_pow, Nat.cast_ofNat]
      _ ↔ ((2 * k + 1 : ℕ) : ℝ) ≤ 2 * realGain t := by
          rw [mul_le_mul_iff_left₀ hten, pow_le_pow_iff_left₀ (by positivity) (by positivity) (by norm_num)]
      _ ↔ ((k + 1 : ℕ) : ℝ) ≤ realGain t + 1 / 2 := by
          push_cast
          constructor <;> intro h <;> linarith

/-- The search from the highest bit down ends at the greatest value that `gainReaches` accepts, where that value lies
within the bits left. -/
theorem gainSearch_eq {t : Int} {top : Nat} (hreach : ∀ m, gainReaches t m = true ↔ m ≤ top) (b acc : Nat)
    (hlow : acc ≤ top) (hhigh : top < acc + 2 ^ b) : gainSearch t b acc = top := by
  induction b generalizing acc with
  | zero => rw [gainSearch]; omega
  | succ b ih =>
    rw [gainSearch, Nat.pow_eq]
    rw [pow_succ] at hhigh
    by_cases hbit : acc + 2 ^ b ≤ top
    · rw [if_pos ((hreach _).mpr hbit)]
      exact ih _ hbit (by omega)
    · rw [if_neg (mt (hreach _).mp hbit)]
      exact ih _ hlow (by omega)

theorem realGain_add_one (t : Int) : realGain (t + 1) = realGain t * (10 : ℝ) ^ ((1 : ℝ) / 200) := by
  rw [realGain, realGain, mul_assoc, ← Real.rpow_add (by norm_num)]
  push_cast
  rw [add_div]

theorem realGain_mono {t u : Int} (h : t ≤ u) : realGain t ≤ realGain u := by
  have hexp : (t : ℝ) / 200 ≤ (u : ℝ) / 200 := by gcongr
  exact mul_le_mul_of_nonneg_left (Real.rpow_le_rpow_of_exponent_le (by norm_num) hexp) (by positivity)

/-- Even the lowest step of the trim range raises the real gain by 1 or more: a step multiplies it by more than 1.01. -/
theorem realGain_step {t : Int} (h : -400 ≤ t) : realGain t + 1 ≤ realGain (t + 1) := by
  have hlow : (10000 : ℝ) ≤ realGain t := by
    have hfloor : realGain (-400) = 2 ^ 20 * 10 ^ (-2 : ℝ) := by
      rw [realGain]
      norm_num
    calc (10000 : ℝ) ≤ realGain (-400) := by rw [hfloor, Real.rpow_neg (by norm_num)]; norm_num
      _ ≤ realGain t := realGain_mono h
  have hratio : (1.01 : ℝ) ≤ (10 : ℝ) ^ ((1 : ℝ) / 200) := by
    rw [one_div, Real.le_rpow_inv_iff_of_pos (by norm_num) (by norm_num) (by norm_num)]
    norm_num
  calc realGain t + 1 ≤ realGain t * 1.01 := by linarith
    _ ≤ realGain (t + 1) := by
      rw [realGain_add_one]
      exact mul_le_mul_of_nonneg_left hratio (realGain_pos t).le

/-- Over the trim range the rounded gain fits 24 bits: it does at the range's top. -/
theorem realGain_lt {t : Int} (h : t ≤ 240) : realGain t + 1 / 2 < ((2 ^ 24 : ℕ) : ℝ) := by
  have htop : ¬ gainReaches 240 (2 ^ 24) = true := by decide +kernel
  rw [gainReaches_iff, not_le] at htop
  linarith [realGain_mono h]

/-- R12: M(T) is the real gain rounded, halves up. -/
theorem gainMultiplier_eq_floor {t : Int} (h : t ≤ 240) : gainMultiplier t = ⌊realGain t + 1 / 2⌋₊ := by
  have hpos : 0 ≤ realGain t + 1 / 2 := by linarith [realGain_pos t]
  refine gainSearch_eq (fun m => ?_) 24 0 (Nat.zero_le _) ?_
  · rw [gainReaches_iff, Nat.le_floor_iff hpos]
  · rw [Nat.zero_add, Nat.floor_lt hpos]
    exact realGain_lt h

theorem gainMultiplier_lt {t : Int} (h : t ≤ 240) : gainMultiplier t < 2 ^ 24 := by
  rw [gainMultiplier_eq_floor h, Nat.floor_lt (by linarith [realGain_pos t])]
  exact realGain_lt h

theorem gainMultiplier_lt_add_one {t : Int} (hlow : -400 ≤ t) (hhigh : t < 240) :
    gainMultiplier t < gainMultiplier (t + 1) := by
  have hpos : 0 ≤ realGain t + 1 / 2 := by linarith [realGain_pos t]
  rw [gainMultiplier_eq_floor hhigh.le, gainMultiplier_eq_floor hhigh, ← Nat.add_one_le_iff, ← Nat.floor_add_one hpos]
  exact Nat.floor_le_floor (by linarith [realGain_step hlow])

/-- A trim of 0 dd is unity. -/
@[simp] theorem gainMultiplier_zero : gainMultiplier 0 = 2 ^ 20 := by decide +kernel

/-! ## The output sample (R15) -/

theorem roundedProduct_eq_floor (x : Int) (me : Nat) :
    roundedProduct x me = ⌊((x * (me : Int) + 2 ^ 19 : Int) : ℚ) / 2 ^ 20⌋ := by
  have hfloor := Rat.floor_intCast_div_natCast (x * me + 2 ^ 19) (2 ^ 20)
  rw [Nat.cast_pow, Nat.cast_ofNat] at hfloor
  rw [hfloor]
  rfl

/-- R15 clamps exactly the values outside 24 bits. -/
theorem sat24_ne_iff (y : Int) : sat24 y ≠ y ↔ y < -8388608 ∨ 8388607 < y := by
  unfold sat24 clampTo
  omega

theorem clips_iff (x : Int) (me : Nat) :
    clips x me = true ↔ roundedProduct x me < -8388608 ∨ 8388607 < roundedProduct x me := by
  rw [clips, decide_eq_true_iff, sat24_ne_iff]

/-- Unity passes every sample: the half that R15 adds is lost in its floor. -/
theorem roundedProduct_unity (x : Int) : roundedProduct x (2 ^ 20) = x := by
  unfold roundedProduct
  omega

theorem outputSample_unity {x : Int} (hlow : -8388608 ≤ x) (hhigh : x ≤ 8388607) : outputSample x (2 ^ 20) = x := by
  rw [outputSample, roundedProduct_unity]
  by_contra hne
  have hout := (sat24_ne_iff x).mp hne
  omega

theorem outputSample_zero (x : Int) : outputSample x 0 = 0 := by
  rw [outputSample, roundedProduct, Nat.cast_zero, mul_zero]
  decide

theorem gatedMultiplier_open {n : Nat} {q : Pair} (hn : 0 < n) (hgate : q.gate = n) :
    gatedMultiplier n q = gainMultiplier q.trim := by
  rw [gatedMultiplier, hgate, Nat.mul_div_cancel _ hn]

/-! ## The turn of a gate (R18) -/

/-- R17. -/
theorem requiredClosed_iff (seq : SeqState) (mute : Bool) :
    requiredClosed seq mute = true ↔ mute = true ∨ seq = .fadeOut ∨ seq = .writing ∨ seq = .settling := by
  cases seq <;> simp [requiredClosed]

section
variable {n : Nat} {seq : SeqState} {q : Pair}

theorem Pair.turnGate_dir_closes (hreq : requiredClosed seq q.mute = true) (hdir : q.dir = .opened ∨ q.dir = .opening) :
    (Pair.turnGate n seq q).dir = if q.gate = 0 then .closed else .closing := by
  rcases hdir with hdir | hdir <;> simp only [Pair.turnGate, hreq, hdir]

theorem Pair.turnGate_stays_closing (hreq : requiredClosed seq q.mute = true)
    (hdir : q.dir = .closing ∨ q.dir = .closed) : Pair.turnGate n seq q = q := by
  rcases hdir with hdir | hdir <;> simp only [Pair.turnGate, hreq, hdir]

theorem Pair.turnGate_dir_opens (hreq : requiredClosed seq q.mute = false) (hdir : q.dir = .closed ∨ q.dir = .closing) :
    (Pair.turnGate n seq q).dir = if q.gate = n then .opened else .opening := by
  rcases hdir with hdir | hdir <;> simp only [Pair.turnGate, hreq, hdir]

theorem Pair.turnGate_stays_opening (hreq : requiredClosed seq q.mute = false)
    (hdir : q.dir = .opened ∨ q.dir = .opening) : Pair.turnGate n seq q = q := by
  rcases hdir with hdir | hdir <;> simp only [Pair.turnGate, hreq, hdir]

end

/-! ## The statements -/

/-- Settles O5: the gain is a floor over the whole range, and its steps are of 1 or more before rounding. -/
theorem gainMultiplierIsRounded : Obligations.GainMultiplierIsRounded := by
  refine ⟨fun t _ hhigh => ⟨?_, gainMultiplier_lt hhigh⟩, fun t hlow hhigh => gainMultiplier_lt_add_one hlow hhigh, ?_⟩
  · rw [gainMultiplier_eq_floor hhigh, Int.natCast_floor_eq_floor (by linarith [realGain_pos t]), realGain]
  · decide +kernel

/-- Settles O6: R15's integer division is the floor of the rational quotient, and unity and 0 are worked out from it. -/
theorem outputSampleIsRoundedAndClamped : Obligations.OutputSampleIsRoundedAndClamped := by
  refine ⟨fun x me => ⟨?_, ?_, outputSample_unity, outputSample_zero x⟩, fun n q hn htrim hgate => ?_⟩
  · rw [← roundedProduct_eq_floor]
    rfl
  · rw [← roundedProduct_eq_floor, clips_iff]
  · rw [gatedMultiplier_open hn hgate, htrim, gainMultiplier_zero]

/-- Settles O8, by the requirement and then the gate's direction. -/
theorem gateTurnsTowardItsRequirement : Obligations.GateTurnsTowardItsRequirement := fun n seq q =>
  ⟨Pair.turnGate_gate n seq q,
    fun hreq => ⟨Pair.turnGate_dir_closes hreq, fun hdir => by rw [Pair.turnGate_stays_closing hreq hdir]⟩,
    fun hreq => ⟨Pair.turnGate_dir_opens hreq, fun hdir => by rw [Pair.turnGate_stays_opening hreq hdir]⟩,
    requiredClosed_iff seq q.mute, Pair.turnGate_eq n seq q⟩

end Sys2Proof.Machine
end

section
/-! PROOF. The slot bytes of R121: the words that the 32-bit formats carry. -/

namespace Sys2Proof.Machine

/-! ## The bytes of a slot (R121) -/

section
variable (y : Sample)

@[simp] theorem slotBytes_p24 : slotBytes .p24 y = [y.extractLsb' 16 8, y.extractLsb' 8 8, y.extractLsb' 0 8] := rfl

@[simp] theorem slotBytes_w32m : slotBytes .w32m y = [y.extractLsb' 16 8, y.extractLsb' 8 8, y.extractLsb' 0 8, 0#8] := rfl

@[simp] theorem slotBytes_w32l : slotBytes .w32l y = [0#8, y.extractLsb' 0 8, y.extractLsb' 8 8, y.extractLsb' 16 8] := rfl

/-- Eight copies of s23, the sign bit, and then the sample. -/
@[simp] theorem slotBytes_x32m : slotBytes .x32m y =
    [if y.getLsbD 23 then 0xFF#8 else 0x00#8, y.extractLsb' 16 8, y.extractLsb' 8 8, y.extractLsb' 0 8] := by
  rw [← BitVec.msb_eq_getLsbD_last]
  rfl

theorem slotBytes_zero (f : Format) : ∀ b ∈ slotBytes f 0#24, b = 0#8 := by
  cases f <;> decide

/-! ## The word of a slot (R121) -/

/-- The three bytes of a sample, the highest first, are the sample. -/
theorem sampleBytes_append : (y.extractLsb' 16 8 ++ y.extractLsb' 8 8 ++ y.extractLsb' 0 8 : BitVec 24) = y := by
  rw [BitVec.extractLsb'_append_extractLsb'_eq_extractLsb' (rfl : 16 = 8 + 8)]
  exact BitVec.extractLsb'_append_extractLsb'

/-- The word of W32M and W32L: a zero byte below the sample multiplies it by 256. -/
theorem toInt_append_zero_byte :
    (y.extractLsb' 16 8 ++ y.extractLsb' 8 8 ++ y.extractLsb' 0 8 ++ 0#8 : BitVec 32).toInt = y.toInt * 256 := by
  rw [sampleBytes_append, mul_comm]
  exact BitVec.toInt_append_zero

/-- A byte above the three of a sample stands above the sample. -/
theorem append_sampleBytes (b : Byte) :
    (b ++ y.extractLsb' 16 8 ++ y.extractLsb' 8 8 ++ y.extractLsb' 0 8 : BitVec 32) = b ++ y := by
  conv_rhs => rw [← sampleBytes_append y]
  simp only [BitVec.append_assoc, BitVec.cast_eq]

/-- The word of X32M: eight copies of the sign bit above the sample extend its sign. -/
theorem sign_append_eq_signExtend :
    ((if y.getLsbD 23 then 0xFF#8 else 0x00#8) ++ y : BitVec 32) = y.signExtend 32 := by
  rw [BitVec.signExtend_eq_append_of_le (by norm_num), BitVec.msb_eq_getLsbD_last, BitVec.cast_eq]
  rfl

theorem toInt_sign_append :
    ((if y.getLsbD 23 then 0xFF#8 else 0x00#8) ++ y.extractLsb' 16 8 ++ y.extractLsb' 8 8 ++ y.extractLsb' 0 8 :
      BitVec 32).toInt = y.toInt := by
  rw [append_sampleBytes, sign_append_eq_signExtend]
  exact BitVec.toInt_signExtend_of_le (by norm_num)

end

/-! ## The statement -/

/-- Settles O7: each format's bytes as listed; the bytes of a 32-bit word join to the sample with a zero byte below it, or to
the sample with its sign extended. -/
theorem slotBytesByFormat : Obligations.SlotBytesByFormat := by
  refine fun y => ⟨slotBytes_p24 y, slotBytes_w32m y, slotBytes_w32l y, slotBytes_x32m y, ?_, ?_, ?_, slotBytes_zero⟩
  · intro a b c d h
    rw [slotBytes_w32m] at h
    cases h
    exact toInt_append_zero_byte y
  · intro a b c d h
    rw [slotBytes_w32l] at h
    cases h
    exact toInt_append_zero_byte y
  · intro a b c d h
    rw [slotBytes_x32m] at h
    cases h
    exact toInt_sign_append y

end Sys2Proof.Machine
end

section
/-! PROOF. What a property needs so that every step keeps it: one lemma over the requests, one over the ends of
transactions, and one over the commands. -/

namespace Sys2Proof.Machine

/-! ## The ends of transactions -/

/-- The transaction on the wire. -/
def State.carries (s : State) (t : Txn) : Prop := ∃ d, s.bus.flight = some { txn := t, discard := d }

/-- A word that a read has brought lies within the domain (R97). -/
def readInDomain (w : Option Byte) : Prop := ∀ x, w = some x → inDomain x = true

theorem readInDomain_none : readInDomain none := fun _ h => nomatch h

theorem readInDomain_readWord (r : ReadReply) : readInDomain (readWord r) := by
  intro x h
  unfold readWord at h
  split at h
  · cases h
  · split at h
    · cases h; assumption
    · cases h

/-- The rules by which transactions end keep a property. -/
structure KeptByBus (P : State → Prop) : Prop where
  write : ∀ c o n reply (s : State), P s → s.carries (.write c o n) → P (s.writeReplied c o n reply).beginNext
  verify : ∀ c o n w (s : State), P s → s.carries (.verify c o n) → P (s.verified c o n w).beginNext
  status : ∀ i v (s : State), P s → P (s.statusEnded i v).beginNext
  identity : ∀ c v (s : State), P s → P (s.identityEnded c v).beginNext
  adoption : ∀ c k w (s : State), P s → readInDomain w → P (s.adoptionEnded c k w).beginNext
  startIdentity : ∀ c v (s : State), P s → P (s.startIdentityEnded c v)
  startWrite : ∀ c k (s : State), P s → P (s.startWriteTaken c k)
  startTimeout : ∀ c k (s : State), P s → P (s.passTxn (.startVerify c k))
  startVerify : ∀ c k w (s : State), P s → P (s.startVerified c k w)
  startAdoption : ∀ c k w (s : State), P s → readInDomain w → P (s.startAdoptionEnded c k w)
  discard : ∀ s : State, P s → P s.discardEnded

/-- A rule keeps a property where each answer it gives for the transaction on the wire does. -/
theorem State.endTxn_inv {P : State → Prop} (hd : ∀ s : State, P s → P s.discardEnded) {rule : Txn → State → Option State}
    {s : State} (hr : ∀ t u, s.carries t → rule t s = some u → P u) (hs : P s) : P (s.endTxn rule) := by
  unfold State.endTxn
  split
  · exact hs
  · rename_i f hf
    split
    · exact hs
    · rename_i u hu
      split
      · exact hd s hs
      · exact hr f.txn u ⟨f.discard, hf⟩ hu

section
variable {P : State → Prop} (h : KeptByBus P) {s : State} (hs : P s)
include h hs

theorem KeptByBus.unanswered (t : Txn) (ht : s.carries t) : P (s.unanswered t) := by
  cases t with
  | write c o n => exact h.write c o n none s hs ht
  | verify c o n => exact h.verify c o n none s hs ht
  | status i => exact h.status i none s hs
  | identity c => exact h.identity c none s hs
  | adoption c k => exact h.adoption c k none s hs readInDomain_none
  | startIdentity c => exact h.startIdentity c none s hs
  | startWrite c k => exact h.startTimeout c k s hs
  | startVerify c k => exact h.startVerify c k none s hs
  | startAdoption c k => exact h.startAdoption c k none s hs readInDomain_none

theorem KeptByBus.writeDecided (reply : Byte) : P (s.endTxn (writeRule reply)) := by
  refine State.endTxn_inv h.discard (fun t u ht hu => ?_) hs
  cases t <;> simp only [writeRule, Option.some.injEq, reduceCtorEq] at hu <;> subst hu
  case write c o n => exact h.write c o n _ s hs ht
  case startWrite c k =>
    split
    · exact h.startWrite c k s hs
    · exact h.startTimeout c k s hs

theorem KeptByBus.verifyRead (r : ReadReply) : P (s.endTxn (verifyRule r)) := by
  refine State.endTxn_inv h.discard (fun t u ht hu => ?_) hs
  cases t <;> simp only [verifyRule, Option.some.injEq, reduceCtorEq] at hu <;> subst hu
  case verify c o n => exact h.verify c o n _ s hs ht
  case startVerify c k => exact h.startVerify c k _ s hs

theorem KeptByBus.statusRead (r : ReadReply) : P (s.endTxn (statusRule r)) := by
  refine State.endTxn_inv h.discard (fun t u ht hu => ?_) hs
  cases t <;> simp only [statusRule, Option.some.injEq, reduceCtorEq] at hu
  subst hu
  case status i => exact h.status i _ s hs

theorem KeptByBus.identityRead (r : ReadReply) : P (s.endTxn (identityRule r)) := by
  refine State.endTxn_inv h.discard (fun t u ht hu => ?_) hs
  cases t <;> simp only [identityRule, Option.some.injEq, reduceCtorEq] at hu
  subst hu
  case identity c => exact h.identity c _ s hs

theorem KeptByBus.adoptionRead (r : ReadReply) : P (s.endTxn (adoptionRule r)) := by
  refine State.endTxn_inv h.discard (fun t u ht hu => ?_) hs
  cases t <;> simp only [adoptionRule, Option.some.injEq, reduceCtorEq] at hu
  subst hu
  case adoption c k => exact h.adoption c k _ s hs (readInDomain_readWord r)

theorem KeptByBus.startUpIdentityRead (r : ReadReply) : P (s.endTxn (startIdentityRule r)) := by
  refine State.endTxn_inv h.discard (fun t u ht hu => ?_) hs
  cases t <;> simp only [startIdentityRule, Option.some.injEq, reduceCtorEq] at hu
  subst hu
  case startIdentity c => exact h.startIdentity c _ s hs

theorem KeptByBus.startUpWrite (reply : Option Byte) (r : ReadReply) : P (s.endTxn (startWriteRule reply r)) := by
  refine State.endTxn_inv h.discard (fun t u ht hu => ?_) hs
  cases t <;> simp only [startWriteRule, Option.some.injEq, reduceCtorEq] at hu <;> subst hu
  case startWrite c k =>
    split
    · exact h.startWrite c k s hs
    · exact h.startVerify c k _ s hs
  case startVerify c k => exact h.startVerify c k _ s hs

theorem KeptByBus.startUpAdoptionRead (r : ReadReply) : P (s.endTxn (startAdoptionRule r)) := by
  refine State.endTxn_inv h.discard (fun t u ht hu => ?_) hs
  cases t <;> simp only [startAdoptionRule, Option.some.injEq, reduceCtorEq] at hu
  subst hu
  case startAdoption c k => exact h.startAdoption c k _ s hs (readInDomain_readWord r)

end

/-! ## The commands -/

/-- The part's events, and the arrival of records, keep a property. -/
structure KeptByExec (P : State → Prop) : Prop where
  powerOn : ∀ s : State, P s → P s.powerOn
  restart : ∀ s : State, P s → P s.restartNow
  samplePeriod : ∀ x (s : State), P s → P (s.samplePeriod x)
  rampStep : ∀ who i (s : State), P s → P (s.rampStep who i)
  landing : ∀ i (s : State), P s → P (s.landIfDue i)
  fadeOutEnd : ∀ i (s : State), P s → P (s.endFadeOut i)
  fadeInEnd : ∀ i (s : State), P s → P (s.endFadeIn i)
  settle : ∀ i (s : State), P s → P (s.settleExpired i)
  keep : ∀ k (s : State), P s → P (s.keepExpired k)
  carrierArrival : ∀ p (s : State), P s → P (s.carrierArrives p)
  carrierLoss : ∀ p (s : State), P s → P (s.carrierLost p)
  character : ∀ l v parity stop start (s : State), P s → P (s.characterReceived l v parity stop start)
  break_ : ∀ l (s : State), P s → P (s.breakOn l)
  byte : ∀ l (s : State), P s → P (s.byteSent l)
  breakEnd : ∀ p (s : State), P s → P (s.driveBreak (.split p) false)
  hold : ∀ p (s : State), P s → P (s.holdExpired p)
  offerWait : ∀ p (s : State), P s → P (s.offerWaitExpired p)
  confirmWait : ∀ p (s : State), P s → P (s.confirmWaitExpired p)
  inhibit : ∀ p (s : State), P s → P (s.inhibitExpired p)
  record : ∀ l kind tag fields (s : State), P s → P (s.deliver l kind tag fields)
  bus : KeptByBus P

/-- What the events and the arrival of records keep, every command keeps. -/
theorem KeptByExec.exec {P : State → Prop} (h : KeptByExec P) {c : Instr} {s t : State} (hs : P s)
    (hc : exec c s = .next t) : P t := by
  cases c <;> obtain rfl := Host.Outcome.next.inj hc
  case powerOn => exact h.powerOn s hs
  case samplePeriod x => exact h.samplePeriod x s hs
  case rampStep who i => exact h.rampStep who i s hs
  case landing i => exact h.landing i s hs
  case fadeOutEnd i => exact h.fadeOutEnd i s hs
  case fadeInEnd i => exact h.fadeInEnd i s hs
  case settleExpiry i => exact h.settle i s hs
  case keepExpiry k => exact h.keep k s hs
  case carrierArrival p => exact h.carrierArrival p s hs
  case carrierLoss p => exact h.carrierLoss p s hs
  case characterReceived l v parity stop start => exact h.character l v parity stop start s hs
  case breakReceived l => exact h.break_ l s hs
  case byteSent l => exact h.byte l s hs
  case breakDriveEnd p => exact h.breakEnd p s hs
  case holdExpiry p => exact h.hold p s hs
  case offerWaitExpiry p => exact h.offerWait p s hs
  case confirmWaitExpiry p => exact h.confirmWait p s hs
  case rebindInhibitExpiry p => exact h.inhibit p s hs
  case restartTakesEffect =>
    split
    · exact hs
    · exact h.restart s hs
  case writeDecided reply => exact h.bus.writeDecided hs reply
  case replyTimeout =>
    refine State.endTxn_inv h.bus.discard (fun t u ht hu => ?_) hs
    cases hu
    exact h.bus.unanswered hs t ht
  case verifyRead r => exact h.bus.verifyRead hs r
  case statusRead r => exact h.bus.statusRead hs r
  case identityRead r => exact h.bus.identityRead hs r
  case adoptionRead r => exact h.bus.adoptionRead hs r
  case startUpIdentityRead r => exact h.bus.startUpIdentityRead hs r
  case startUpWrite reply r => exact h.bus.startUpWrite hs reply r
  case startUpAdoptionRead r => exact h.bus.startUpAdoptionRead hs r
  all_goals exact h.record _ _ _ _ s hs

/-- A property that the commands keep and that says nothing of those that wait. -/
structure KeptByStep (P : State → Prop) : Prop extends KeptByExec P where
  pending : ∀ q (s : State), P s → P { s with pending := q }

/-- What the events and the arrival of records keep, every step keeps. -/
theorem KeptByStep.step {P : State → Prop} (h : KeptByStep P) {s t : State} (hs : P s) (ht : step s = .next t) : P t := by
  unfold Machine.step at ht
  split at ht
  · cases ht; exact hs
  · exact h.exec (h.pending _ s hs) ht

end Sys2Proof.Machine
end

section
/-! PROOF. What a property needs so that every request, every record taken and the reading of a lane keep it. `P` is what
holds before a reply is queued and `Q` what holds behind it: for most properties the two are one. -/

namespace Sys2Proof.Machine

/-! ## The lengths of replies -/

theorem beLevel_length (x : Option Int) : (beLevel x).length = 2 := rfl

theorem pairBlock_length (q : Pair) (a : Int) : (pairBlock q a).length = 13 := rfl

/-- A state block has its 30 bytes, or 17 for a party without a pair (R168). -/
theorem State.stateBlock_length_le (s : State) (who : Party) (i : Input) : (s.stateBlock who i).length ≤ 30 := by
  unfold State.stateBlock
  cases s.pair? who i with
  | none => exact Nat.le_of_ble_eq_true rfl
  | some q => exact le_of_eq rfl

theorem linkPayload_length (p : Port) (q : LinkPort) : (linkPayload p q).length = 12 := by
  unfold linkPayload
  dsimp only
  split <;> rfl

theorem lanePayload_length (n : LaneId) (c : Counters) : (lanePayload n c).length = 13 := rfl

/-! ## Requests -/

/-- Somebody speaks for the party on a lane. -/
def State.speaks (s : State) (who : Party) : Prop := ∃ l, s.boundRequester l = some who

theorem State.boundRequester_send (s : State) (l l' : LaneId) (body : List Byte) :
    (s.send l body).boundRequester l' = s.boundRequester l' := rfl

/-- Every reply on a lane leads from `P` to `Q`, and every effect of a request keeps `Q`. -/
structure KeptByRequests (l : LaneId) (P Q : State → Prop) : Prop where
  stays : ∀ s : State, P s → Q s
  reply : ∀ tag kind r payload (s : State), P s → payload.length ≤ 40 → Q (s.reply l tag kind r payload)
  consumer : ∀ tag index (s : State), P s → Q (s.doQueryConsumer l tag index)
  level : ∀ who i field (s : State), Q s → Q (s.setLevel who i (storedLevel field))
  mute : ∀ who i on (s : State), Q s → Q (s.setMute who i on)
  map : ∀ k m (s : State), Q s → Q (s.storeMap k m)
  take : ∀ who i (s : State), Q s → s.speaks who → (s.own.get i).owner = none → Q (s.changeOwner i (some who))
  wait : ∀ who i (s : State), Q s → s.speaks who → (s.own.get i).owner ≠ some who → (s.own.get i).owner ≠ none →
    who ∉ (s.own.get i).waiting → Q (s.modOwn i fun o => { o with waiting := o.waiting ++ [who] })
  release : ∀ i (s : State), Q s → Q (s.passOn i)
  leave : ∀ who i (s : State), Q s → Q (s.modOwn i (Ownership.leave who))
  pad : ∀ i on (s : State), Q s → Q (s.choosePad i on)
  phantom : ∀ i on (s : State), Q s → Q (s.phantomRequest i on)
  clearSat : ∀ who i (s : State), Q s → Q { s with pairs := s.pairs.modify who i fun q => { q with sat := 0 } }
  clearSets : ∀ p (clear : Bool) (s : State), Q s → Q (s.modPort p fun q => if clear then q.clearSets else q)
  clearCounters : ∀ n (clear : Bool) (s : State), Q s →
    Q (s.modRx n fun r => if clear then { r with counters := Counters.zero } else r)
  lock : ∀ i on (s : State), Q s → Q (s.modOwn i fun o => { o with lock := on })
  force : ∀ i (s : State), Q s → Q (s.changeOwner i (some .panel))
  rate : ∀ r (s : State), Q s → Q (s.changeRate r)
  align : ∀ d (s : State), Q s → Q { s with align := min d 255 }
  resetHold : ∀ p (s : State), Q s → Q (s.enterHold p noFlags s.nextStamp)
  resetFlush : ∀ p (s : State), Q s → Q (s.flushLane (.split p))
  restart : ∀ r (s : State), Q s → Q { s with restart := r }

section
variable {l : LaneId} {P Q : State → Prop} (h : KeptByRequests l P Q) {s : State} (hs : P s) (tag : Byte)
include h hs

theorem KeptByRequests.refuse (k : RequestKind) (r : ResultCode) : Q (s.refuse l tag k r) :=
  h.reply tag k.code r [] s hs (Nat.zero_le _)

theorem KeptByRequests.doLevel (who : Party) (i : Input) (field : Option Int) : Q (s.doLevel l tag who i field) := by
  unfold State.doLevel
  split
  · exact h.refuse hs tag _ _
  · exact h.level _ _ _ _ (h.reply _ _ _ _ _ hs (by rw [beLevel_length]; omega))

theorem KeptByRequests.doMute (who : Party) (i : Input) (on : Bool) : Q (s.doMute l tag who i on) :=
  h.mute _ _ _ _ (h.reply _ _ _ _ _ hs (Nat.zero_le _))

theorem KeptByRequests.doMap (who : Party) (list : List Input) : Q (s.doMap l tag who list) := by
  cases who with
  | panel => exact h.refuse hs tag _ _
  | consumer k => exact h.map _ _ _ (h.reply _ _ _ _ _ hs (by simp))

theorem KeptByRequests.doTake (who : Party) (i : Input) (hw : s.speaks who) : Q (s.doTake l tag who i) := by
  have hr : ∀ r n, Q (s.reply l tag RequestKind.take.code r [n]) := fun r n => h.reply _ _ _ _ _ hs (by simp)
  unfold State.doTake
  dsimp only
  split
  · exact h.refuse hs tag _ _
  · split
    · exact h.refuse hs tag _ _
    · split
      · exact hr _ _
      · rename_i hnot
        split
        · rename_i hnone
          exact h.take _ _ _ (hr _ _) hw hnone
        · rename_i hsome
          split
          · exact hr _ _
          · rename_i hwait
            exact h.wait _ _ _ (hr _ _) hw hnot hsome hwait

theorem KeptByRequests.doRelease (who : Party) (i : Input) : Q (s.doRelease l tag who i) := by
  have hr := h.reply tag RequestKind.release.code .ok [] s hs (Nat.zero_le _)
  unfold State.doRelease
  dsimp only
  split
  · split
    · exact h.refuse hs tag _ _
    · exact h.release _ _ hr
  · split
    · exact h.leave _ _ _ hr
    · exact h.refuse hs tag _ _

theorem KeptByRequests.doPad (who : Party) (i : Input) (on : Bool) : Q (s.doPad l tag who i on) := by
  unfold State.doPad
  dsimp only
  split
  · exact h.refuse hs tag _ _
  · split
    · exact h.refuse hs tag _ _
    · exact h.pad _ _ _ (h.reply _ _ _ _ _ hs (Nat.zero_le _))

theorem KeptByRequests.doPhantom (who : Party) (i : Input) (on : Bool) : Q (s.doPhantom l tag who i on) := by
  unfold State.doPhantom
  dsimp only
  split
  · exact h.refuse hs tag _ _
  · split
    · exact h.refuse hs tag _ _
    · split
      · exact h.refuse hs tag _ _
      · exact h.phantom _ _ _ (h.reply _ _ _ _ _ hs (Nat.zero_le _))

theorem KeptByRequests.doQueryInput (who : Party) (i : Input) : Q (s.doQueryInput l tag who i) := by
  refine h.clearSat _ _ _ (h.reply _ _ _ _ _ hs ?_)
  have := s.stateBlock_length_le who i
  simp only [List.length_cons]
  omega

theorem KeptByRequests.doQueryLink (p : Port) (clear : Bool) : Q (s.doQueryLink l tag p clear) := by
  unfold State.doQueryLink
  split
  · exact h.clearSets _ _ _ (h.reply _ _ _ _ _ hs (by rw [linkPayload_length]; omega))
  · exact h.refuse hs tag _ _

theorem KeptByRequests.doQueryLane (n : LaneId) (clear : Bool) : Q (s.doQueryLane l tag n clear) := by
  unfold State.doQueryLane
  split
  · exact h.clearCounters _ _ _ (h.reply _ _ _ _ _ hs (by rw [lanePayload_length]; omega))
  · exact h.refuse hs tag _ _

theorem KeptByRequests.doForce (i : Input) : Q (s.doForce l tag i) := by
  have hr := h.reply tag RequestKind.force.code .ok [] s hs (Nat.zero_le _)
  unfold State.doForce
  dsimp only
  split
  · exact hr
  · exact h.force _ _ hr

theorem KeptByRequests.doSetRate (r : BoxRate) : Q (s.doSetRate l tag r) := by
  have hr : ∀ r n, Q (s.reply l tag RequestKind.setRate.code r [n]) := fun r n => h.reply _ _ _ _ _ hs (by simp)
  unfold State.doSetRate
  split
  · exact hr _ _
  · split
    · exact hr _ _
    · exact h.rate _ _ (hr _ _)

theorem KeptByRequests.doResetPort (p : Port) : Q (s.doResetPort l tag p) := by
  have hr := h.reply tag RequestKind.resetPort.code .ok [] s hs (Nat.zero_le _)
  unfold State.doResetPort
  dsimp only
  refine h.clearSets p true _ (h.clearCounters (.split p) true _ ?_)
  split
  · exact h.resetHold _ _ hr
  · exact h.resetFlush _ _ hr

theorem KeptByRequests.withInput (k : RequestKind) (b : Byte) {f : Input → State → State}
    (hf : ∀ i, Q (f i s)) : Q (s.withInput l tag k b f) := by
  unfold State.withInput
  split
  · exact h.refuse hs tag _ _
  · exact hf _

theorem KeptByRequests.withSwitch (k : RequestKind) (b : Byte) {f : Bool → State → State}
    (hf : ∀ on, Q (f on s)) : Q (s.withSwitch l tag k b f) := by
  unfold State.withSwitch
  split
  · exact h.refuse hs tag _ _
  · exact hf _

theorem KeptByRequests.withInputSwitch (k : RequestKind) (a b : Byte) {f : Input → Bool → State → State}
    (hf : ∀ i on, Q (f i on s)) : Q (s.withInput l tag k a fun i s => s.withSwitch l tag k b (f i)) :=
  h.withInput hs tag k a fun i => h.withSwitch hs tag k b (hf i)

/-- Steps 6 to 8 of the order of checks lead from `P` to `Q`, whatever the request (R167). -/
theorem KeptByRequests.runRequest (who : Party) (k : RequestKind) (fields : List Byte) (hw : s.speaks who) :
    Q (s.runRequest l tag who k fields) := by
  have stay := h.stays s hs
  cases k
  case level =>
    simp only [State.runRequest, State.runLevel]
    split
    · exact h.withInput hs _ _ _ fun i => h.doLevel hs _ _ _ _
    · exact stay
  case mute =>
    simp only [State.runRequest, State.runMute]
    split
    · exact h.withInputSwitch hs _ _ _ _ fun i on => h.doMute hs _ _ _ _
    · exact stay
  case map =>
    simp only [State.runRequest, State.runMap]
    split
    · exact h.refuse hs tag _ _
    · split
      · exact h.doMap hs _ _ _
      · exact h.refuse hs tag _ _
  case take =>
    simp only [State.runRequest, State.runTake]
    split
    · exact h.withInput hs _ _ _ fun i => h.doTake hs _ _ _ hw
    · exact stay
  case release =>
    simp only [State.runRequest, State.runRelease]
    split
    · exact h.withInput hs _ _ _ fun i => h.doRelease hs _ _ _
    · exact stay
  case pad =>
    simp only [State.runRequest, State.runPad]
    split
    · exact h.withInputSwitch hs _ _ _ _ fun i on => h.doPad hs _ _ _ _
    · exact stay
  case phantom =>
    simp only [State.runRequest, State.runPhantom]
    split
    · exact h.withInputSwitch hs _ _ _ _ fun i on => h.doPhantom hs _ _ _ _
    · exact stay
  case queryInput =>
    simp only [State.runRequest, State.runQueryInput]
    split
    · exact h.withInput hs _ _ _ fun i => h.doQueryInput hs _ _ _
    · exact stay
  case queryLink =>
    simp only [State.runRequest, State.runQueryLink]
    split
    · split
      · exact h.refuse hs tag _ _
      · exact h.withSwitch hs _ _ _ fun on => h.doQueryLink hs _ _ _
    · exact stay
  case queryLane =>
    simp only [State.runRequest, State.runQueryLane]
    split
    · split
      · exact h.refuse hs tag _ _
      · exact h.withSwitch hs _ _ _ fun on => h.doQueryLane hs _ _ _
    · exact stay
  case queryConsumer =>
    simp only [State.runRequest, State.runQueryConsumer]
    split
    · split
      · exact h.consumer _ _ _ hs
      · exact h.refuse hs tag _ _
    · exact stay
  case lock =>
    simp only [State.runRequest, State.runLock]
    split
    · exact h.withInputSwitch hs _ _ _ _ fun i on => h.lock _ _ _ (h.reply _ _ _ _ _ hs (Nat.zero_le _))
    · exact stay
  case force =>
    simp only [State.runRequest, State.runForce]
    split
    · exact h.withInput hs _ _ _ fun i => h.doForce hs _ _
    · exact stay
  case setRate =>
    simp only [State.runRequest, State.runSetRate]
    split
    · split
      · exact h.refuse hs tag _ _
      · exact h.doSetRate hs _ _
    · exact stay
  case setAlign =>
    simp only [State.runRequest, State.runSetAlign]
    split
    · exact h.align _ _ (h.reply _ _ _ _ _ hs (by simp))
    · exact stay
  case resetPort =>
    simp only [State.runRequest, State.runResetPort]
    split
    · split
      · exact h.refuse hs tag _ _
      · exact h.doResetPort hs _ _
    · exact stay
  case restart =>
    simp only [State.runRequest, State.runRestart]
    split
    · exact h.restart _ _ (h.reply _ _ _ _ _ hs (Nat.zero_le _))
    · exact stay

end

/-! ## Records -/

/-- The lane is lane P, or its port is in one of the states in which it answers records (R141). -/
def State.laneUp (s : State) (l : LaneId) : Prop :=
  ∀ p, l = .split p → (s.ports.get p).state = .offer ∨ (s.ports.get p).state = .confirm ∨ (s.ports.get p).state = .bound

theorem State.laneUp_panel (s : State) : s.laneUp .panel := nofun

theorem State.laneUp_split {s : State} {p : Port}
    (h : (s.ports.get p).state = .offer ∨ (s.ports.get p).state = .confirm ∨ (s.ports.get p).state = .bound) :
    s.laneUp (.split p) := by
  rintro q ⟨⟩
  exact h

/-- What a link negotiator makes of a record of its lane leads from `P` to `Q`, as the requests do. -/
structure KeptByRecords (l : LaneId) (P Q : State → Prop) : Prop extends
    KeptByRequests l (fun s => P s ∧ s.laneUp l) Q where
  ignore : ∀ s : State, P s → Q (s.ignore l)
  reoffer : ∀ p tag fields o (s : State), l = .split p → P s → parseOffer fields = some o → (s.ports.get p).state = .bound →
    Q (s.reoffer p tag o)
  resolveOffer : ∀ p tag fields o (s : State), l = .split p → P s → parseOffer fields = some o →
    (s.ports.get p).state = .offer ∨ (s.ports.get p).state = .confirm → Q (s.resolveOffer p tag o)
  matchConfirm : ∀ p tag c (s : State), l = .split p → P s → (s.ports.get p).state = .confirm → Q (s.matchConfirm p tag c)

section
variable {l : LaneId} {P Q : State → Prop} (h : KeptByRecords l P Q) {s : State} (hs : P s)
include h hs

theorem KeptByRecords.checkRequest (hl : s.laneUp l) (kind tag : Byte) (fields : List Byte) :
    Q (s.checkRequest l kind tag fields) := by
  have hs' : P s ∧ s.laneUp l := ⟨hs, hl⟩
  unfold State.checkRequest
  split
  · exact h.reply _ _ _ _ _ hs' (Nat.zero_le _)
  · split
    · exact h.refuse hs' tag _ _
    · split
      · exact h.refuse hs' tag _ _
      · split
        · exact h.refuse hs' tag _ _
        · rename_i who hw
          split
          · exact h.refuse hs' tag _ _
          · exact h.runRequest hs' tag who _ fields ⟨l, hw⟩

theorem KeptByRecords.takeOffer {p : Port} (hl : l = .split p) (tag : Byte) (fields : List Byte)
    (hst : (s.ports.get p).state = .offer ∨ (s.ports.get p).state = .confirm ∨ (s.ports.get p).state = .bound) :
    Q (s.takeOffer p tag fields) := by
  subst hl
  unfold State.takeOffer
  split
  · exact h.reply _ _ _ _ _ ⟨hs, State.laneUp_split hst⟩ (Nat.zero_le _)
  · rename_i o ho
    split
    · rename_i hb
      exact h.reoffer p tag fields o s rfl hs ho hb
    · rename_i hb
      exact h.resolveOffer p tag fields o s rfl hs ho (hst.imp_right fun hst => hst.resolve_right hb)

theorem KeptByRecords.takeConfirm {p : Port} (hl : l = .split p) (tag : Byte) (fields : List Byte)
    (hst : (s.ports.get p).state = .confirm) : Q (s.takeConfirm p tag fields) := by
  subst hl
  unfold State.takeConfirm
  split
  · exact h.reply _ _ _ _ _ ⟨hs, State.laneUp_split (.inr (.inl hst))⟩ (Nat.zero_le _)
  · exact h.matchConfirm p tag _ s rfl hs hst

/-- The taking of a record leads from `P` to `Q` (R141, R158). -/
theorem KeptByRecords.takeRecord (kind tag : Byte) (fields : List Byte) : Q (s.takeRecord l kind tag fields) := by
  cases l with
  | panel => exact h.checkRequest hs s.laneUp_panel kind tag fields
  | split p =>
    simp only [State.takeRecord, State.takeOnSplit]
    split
    · exact h.ignore _ hs
    · exact h.ignore _ hs
    · exact h.ignore _ hs
    · rename_i hst
      split
      · exact h.takeOffer hs rfl tag fields (.inl hst)
      · split
        · exact h.ignore _ hs
        · exact h.checkRequest hs (State.laneUp_split (.inl hst)) kind tag fields
    · rename_i hst
      split
      · exact h.takeOffer hs rfl tag fields (.inr (.inl hst))
      · split
        · exact h.takeConfirm hs rfl tag fields hst
        · exact h.checkRequest hs (State.laneUp_split (.inr (.inl hst))) kind tag fields
    · rename_i hst
      split
      · exact h.takeOffer hs rfl tag fields (.inr (.inr hst))
      · split
        · exact h.ignore _ hs
        · exact h.checkRequest hs (State.laneUp_split (.inr (.inr hst))) kind tag fields

end

/-! ## Properties that the receiving sides and the lanes do not touch -/

/-- The property says nothing of the receiving sides, the lanes, the notice marks and a pending restart. -/
structure BlindToLanes (P : State → Prop) : Prop where
  rx : ∀ l f (s : State), P s → P (s.modRx l f)
  comm : ∀ c (s : State), P s → P { s with comm := c }
  restart : ∀ r (s : State), P s → P { s with restart := r }

section
variable {P : State → Prop} (b : BlindToLanes P) (h : ∀ l, KeptByRecords l P P)
include b

theorem BlindToLanes.send {s : State} (hs : P s) (l : LaneId) (body : List Byte) : P (s.send l body) := b.comm _ _ hs

theorem BlindToLanes.raise {s : State} (hs : P s) (lanes : List LaneId) (n : Notice) : P (s.raise lanes n) :=
  b.comm _ _ hs

include h

theorem BlindToLanes.service {s : State} (hs : P s) (l : LaneId) : P (s.service l) :=
  State.service_inv P (fun l _ _ s hs _ => b.rx l _ s hs) (fun l kind tag fields _ hs => (h l).takeRecord hs kind tag fields)
    (fun l s hs => b.rx l _ s hs) l s hs

/-- What the taking of records keeps, the arrival of a record keeps. -/
theorem BlindToLanes.deliver {s : State} (hs : P s) (l : LaneId) (kind tag : Byte) (fields : List Byte) :
    P (s.deliver l kind tag fields) :=
  State.deliver_inv P (fun l _ s hs => b.rx l _ s hs) (fun l _ s hs => b.rx l _ s hs)
    (fun l _ hs => b.service h hs l) l kind tag fields s hs

/-- What breaks and the taking of records keep, the receipt of a character keeps. -/
theorem BlindToLanes.character {s : State} (hs : P s) (hbreak : ∀ l (s : State), P s → P (s.breakOn l)) (l : LaneId)
    (v : Byte) (parity stop : Bool) (start : Nat) : P (s.characterReceived l v parity stop start) :=
  State.characterReceived_inv P hbreak (fun l _ _ _ _ _ s hs => b.rx l _ s hs) (fun l _ hs => b.service h hs l) l v parity
    stop start s hs

/-- What a restart and the taking of records keep, the departure of a byte keeps. -/
theorem BlindToLanes.byteSent {s : State} (hs : P s) (hrestart : ∀ s : State, P s → P s.restartNow) (l : LaneId) :
    P (s.byteSent l) :=
  State.byteSent_inv P (fun c r _ hs => b.restart r _ (b.comm c _ hs)) hrestart (fun l _ hs => b.service h hs l) l s hs

end

end Sys2Proof.Machine
end

section
/-! PROOF. Every step keeps every setting, target and channel word within the analog domain (R2, R97, R101). -/

namespace Sys2Proof.Machine

/-! ## Settings and words -/

theorem pMax_eq (pad : Bool) : pMax pad = if pad then 40 else 60 := rfl

theorem analogTarget_inRange (g : Int) (pad : Bool) : (analogTarget g pad).inRange := by
  simp only [Setting.inRange, analogTarget, clampTo, pMax_eq]
  split <;> omega

theorem keptTarget_inRange (pad : Bool) (p : Nat) : (keptTarget pad p).inRange := min_le_right _ _

/-- The bits of a channel word by its number: gain below 64, pad at 64, phantom at 128 (R97). -/
theorem wordGain_eq (w : Byte) : wordGain w = w.toNat % 64 := by
  simp only [wordGain, BitVec.toNat_and, BitVec.toNat_ofNat]
  exact Nat.and_two_pow_sub_one_eq_mod w.toNat 6

theorem wordPad_eq (w : Byte) : wordPad w = decide (w.toNat / 64 % 2 = 1) := by
  simp [wordPad, BitVec.getLsbD, Nat.testBit_eq_decide_div_mod_eq]

theorem channelWord_toNat {p : Nat} (hp : p < 64) (pad phantom : Bool) :
    (channelWord p pad phantom).toNat = p + (if pad then 64 else 0) + (if phantom then 128 else 0) := by
  cases pad <;> cases phantom <;> simp [channelWord] <;> omega

theorem wordGain_channelWord {p : Nat} (hp : p < 64) (pad phantom : Bool) :
    wordGain (channelWord p pad phantom) = p := by
  rw [wordGain_eq, channelWord_toNat hp]
  split <;> split <;> omega

theorem wordPad_channelWord {p : Nat} (hp : p < 64) (pad phantom : Bool) :
    wordPad (channelWord p pad phantom) = pad := by
  rw [wordPad_eq, channelWord_toNat hp]
  cases pad <;> cases phantom <;> simp <;> omega

/-- A word lies within the domain exactly where its setting does (R2, R97). -/
theorem inDomain_iff (w : Byte) : inDomain w = true ↔ (wordSetting w).inRange := by
  unfold inDomain wordSetting Setting.inRange pMax
  split <;> simp_all

theorem channelWord_inDomain {p : Nat} {pad : Bool} (phantom : Bool) (hp : p ≤ pMax pad) :
    inDomain (channelWord p pad phantom) = true := by
  have hlt : p < 64 := by rw [pMax_eq] at hp; split at hp <;> omega
  rw [inDomain_iff, wordSetting, wordGain_channelWord hlt, wordPad_channelWord hlt]
  exact hp

/-- The word that a command makes of a shadow within the domain lies within it (R101). -/
theorem Command.word_inDomain {c : Command} {w : Byte} (hc : c.inRange) (hw : inDomain w = true) :
    inDomain (c.word w) = true := by
  cases c with
  | gain i pad p => exact channelWord_inDomain _ hc
  | phantom i on => exact channelWord_inDomain _ ((inDomain_iff w).mp hw)

theorem dropPhantom_inDomain {w : Byte} (hw : inDomain w = true) : inDomain (dropPhantom w) = true := by
  have hgain : wordGain (dropPhantom w) = wordGain w := by
    unfold wordGain dropPhantom
    rw [BitVec.and_assoc]
    rfl
  have hpad : wordPad (dropPhantom w) = wordPad w := by simp [wordPad, dropPhantom]
  rw [inDomain_iff] at hw ⊢
  simpa only [wordSetting, hgain, hpad] using hw

/-! ## The move controller -/

theorem MoveCtl.inRange.of_eq {m m' : MoveCtl} (h : m.inRange) (h1 : m'.setting = m.setting)
    (h2 : m'.move.inFlight = m.move.inFlight) (h3 : m'.pending = m.pending) : m'.inRange := by
  unfold MoveCtl.inRange
  rw [h1, h2, h3]
  exact h

/-- A target within the domain leaves the move controller within it (R61, R62). -/
theorem MoveCtl.inRange.deal {m : MoveCtl} (h : m.inRange) (hold : Bool) {t : Setting} (ht : t.inRange) :
    (MoveCtl.deal hold t m).1.inRange := by
  obtain ⟨hset, hflight, hpend⟩ := h
  have pending : ∀ x : Option Setting, x = none ∨ x = some t → ∀ y, x = some y → y.inRange := by
    intro x hx y hy
    rcases hx with hx | hx <;> rw [hx] at hy <;> cases hy
    exact ht
  unfold MoveCtl.deal
  split
  · exact ⟨hset, hflight, pending _ (by split <;> simp)⟩
  · split
    · exact ⟨hset, hflight, pending _ (.inl rfl)⟩
    · split
      · exact ⟨hset, hflight, pending _ (.inl rfl)⟩
      · split
        · exact ⟨hset, hflight, pending _ (.inr rfl)⟩
        · exact ⟨hset, pending _ (.inr rfl), pending _ (.inl rfl)⟩

theorem MoveCtl.inRange.goIdle {m : MoveCtl} (h : m.inRange) : ({ m with move := .idle } : MoveCtl).inRange :=
  ⟨h.1, fun _ ht => (nomatch ht), h.2.2⟩

theorem MoveCtl.inRange.setSetting {m : MoveCtl} (h : m.inRange) {t : Setting} (ht : t.inRange) :
    ({ m with setting := t } : MoveCtl).inRange := ⟨ht, h.2⟩

theorem MoveCtl.inRange.abandon {m : MoveCtl} (h : m.inRange) : m.abandon.inRange := by
  obtain ⟨hset, hflight, hpend⟩ := h
  refine ⟨hset, fun _ ht => (nomatch ht), ?_⟩
  unfold MoveCtl.abandon
  dsimp only
  split
  · rename_i t hp
    rw [hp] at hpend
    exact hpend
  · exact hflight

theorem MoveCtl.inRange.goOnWire {m : MoveCtl} (h : m.inRange) : m.goOnWire.inRange := by
  unfold MoveCtl.goOnWire
  split
  · rename_i t ht
    exact h.of_eq rfl (by simp [ht, Move.inFlight]) rfl
  all_goals exact h

/-! ## The bus -/

/-- Every channel word and command of the bus is within the domain. -/
def Bus.inRange (b : Bus) : Prop :=
  (∀ i, inDomain (b.shadow.get i) = true) ∧ (∀ w ∈ b.probe, inDomain w = true) ∧ (∀ e ∈ b.queue, e.inRange) ∧
    (∀ f, b.flight = some f → f.txn.inRange)

theorem State.wordsOk_iff (s : State) : s.wordsOk ↔ (∀ i, (s.moves.get i).inRange) ∧ s.bus.inRange := Iff.rfl

theorem Bus.inRange.setShadow {b : Bus} (h : b.inRange) (i : Input) {w : Byte} (hw : inDomain w = true) :
    ({ b with shadow := b.shadow.set i w } : Bus).inRange := by
  refine ⟨fun j => ?_, h.2⟩
  simp only [Tab.get_set]
  split
  · exact hw
  · exact h.1 j

theorem Bus.inRange.setQueue {b : Bus} (h : b.inRange) {q : List QueueEntry} (hq : ∀ e ∈ q, e.inRange) :
    ({ b with queue := q } : Bus).inRange := ⟨h.1, h.2.1, hq, h.2.2.2⟩

theorem Bus.inRange.setProbe {b : Bus} (h : b.inRange) {ws : List Byte} (hw : ∀ w ∈ ws, inDomain w = true) :
    ({ b with probe := ws } : Bus).inRange := ⟨h.1, hw, h.2.2⟩

theorem Bus.inRange.clearProbe {b : Bus} (h : b.inRange) : ({ b with probe := [] } : Bus).inRange :=
  h.setProbe fun _ hw => nomatch hw

theorem Bus.inRange.keepWord {b : Bus} (h : b.inRange) {w : Byte} (hw : inDomain w = true) :
    ∀ x ∈ b.probe ++ [w], inDomain x = true := by
  simp only [List.mem_append, List.mem_singleton]
  rintro x (hx | rfl)
  · exact h.2.1 x hx
  · exact hw

theorem Bus.inRange.addWrite {b : Bus} (h : b.inRange) {c : Command} (hc : c.inRange) : (b.addWrite c).inRange := by
  refine h.setQueue fun e he => ?_
  rcases List.mem_append.mp he with he | he
  · exact h.2.2.1 e he
  · rw [List.mem_singleton.mp he]
    exact hc

theorem Bus.inRange.addReads {b : Bus} (h : b.inRange) {rs : List QueueEntry} (hr : ∀ e ∈ rs, e.inRange) :
    (b.addReads rs).inRange := by
  refine h.setQueue fun e he => ?_
  simp only [List.mem_append] at he
  rcases he with (he | he) | he
  · exact h.2.2.1 e ((List.takeWhile_prefix _).subset he)
  · exact hr e he
  · exact h.2.2.1 e ((List.dropWhile_suffix _).subset he)

theorem Bus.inRange.filterQueue {b : Bus} (h : b.inRange) (f : QueueEntry → Bool) :
    ({ b with queue := b.queue.filter f } : Bus).inRange :=
  h.setQueue fun e he => h.2.2.1 e (List.mem_filter.mp he).1

theorem Bus.inRange.takeWords {b : Bus} (h : b.inRange) (c : Chip) {ws : List Byte} (hw : ∀ w ∈ ws, inDomain w = true) :
    (b.takeWords c ws).inRange := by
  refine ⟨?_, h.2⟩
  refine foldl_inv _ (fun sh : Tab 48 Byte => ∀ i, inDomain (sh.get i) = true) (fun sh k hsh i => ?_) _ _ h.1
  split
  · rename_i w hk
    rw [Tab.get_set]
    split
    · exact hw w (List.mem_of_getElem? hk)
    · exact hsh i
  · exact hsh i

theorem Bus.inRange.start {b : Bus} (h : b.inRange) {t : Option Txn} (ht : ∀ x, t = some x → x.inRange) :
    (b.start t).inRange := by
  refine ⟨h.1, h.2.1, h.2.2.1, fun f hf => ?_⟩
  obtain ⟨x, hx, rfl⟩ := Option.map_eq_some_iff.mp hf
  exact ht x hx

theorem Bus.txnOf_inRange {b : Bus} (h : b.inRange) {e : QueueEntry} (he : e.inRange) : (b.txnOf e).inRange := by
  cases e with
  | write c => exact Command.word_inDomain he (h.1 _)
  | verify c o n => exact he
  | adoption c k => trivial

theorem Bus.pollTxn_inRange (b : Bus) : ∀ x, b.pollTxn = some x → x.inRange := by
  intro x hx
  unfold Bus.pollTxn at hx
  split at hx <;> cases hx <;> trivial

/-- The transaction that begins next is within the domain (R101, R102). -/
theorem Bus.inRange.next {b : Bus} (h : b.inRange) : b.next.inRange := by
  unfold Bus.next
  split
  · rename_i e rest hq
    have he : ∀ x ∈ e :: rest, x.inRange := hq ▸ h.2.2.1
    refine (h.setQueue fun x hx => he x (List.mem_cons_of_mem e hx)).start fun x hx => ?_
    cases hx
    exact Bus.txnOf_inRange h (he e List.mem_cons_self)
  · split
    · exact h.start b.pollTxn_inRange
    · exact h.start fun _ hx => nomatch hx

theorem Bus.atPowerOn_inRange : Bus.atPowerOn.inRange := by
  refine ⟨fun i => ?_, fun _ h => (nomatch h), fun _ h => (nomatch h), fun _ h => nomatch h⟩
  simp [Bus.atPowerOn, inDomain, wordPad, wordGain]

/-! ## The operations of the state -/

theorem State.wordsOk.congr {s t : State} (h : s.wordsOk) (hm : t.moves = s.moves) (hb : t.bus = s.bus) : t.wordsOk := by
  unfold State.wordsOk
  rw [hm, hb]
  exact h

theorem State.wordsOk.modMove {s : State} (h : s.wordsOk) (i : Input) {f : MoveCtl → MoveCtl}
    (hf : (s.moves.get i).inRange → (f (s.moves.get i)).inRange) : (s.modMove i f).wordsOk := by
  refine ⟨fun j => ?_, h.2⟩
  simp only [State.modMove, Tab.get_modify]
  split
  · rename_i hj
    rw [hj]
    exact hf (h.1 i)
  · exact h.1 j

theorem State.wordsOk.setBus {s : State} (h : s.wordsOk) {b : Bus} (hb : b.inRange) : { s with bus := b }.wordsOk :=
  ⟨h.1, hb⟩

theorem State.wordsOk.modBus {s : State} (h : s.wordsOk) {f : Bus → Bus} (hf : s.bus.inRange → (f s.bus).inRange) :
    (s.modBus f).wordsOk := h.setBus (hf h.2)

section
variable {s : State} (h : s.wordsOk)
include h

theorem State.wordsOk.handTarget (i : Input) {t : Setting} (ht : t.inRange) : (s.handTarget i t).wordsOk := by
  refine ⟨fun j => ?_, ?_⟩
  · simp only [State.handTarget, Tab.get_set]
    split
    · exact (h.1 i).deal _ ht
    · exact h.1 j
  · unfold State.handTarget
    dsimp only
    split
    · exact Bus.inRange.addWrite h.2 ht
    · exact h.2

theorem State.wordsOk.dealPending (i : Input) : (s.dealPending i).wordsOk := by
  unfold State.dealPending
  split
  · rename_i t _ hp
    exact h.handTarget i ((h.1 i).2.2 t hp)
  all_goals exact h

theorem State.wordsOk.handOwnerTarget (i : Input) : (s.handOwnerTarget i).wordsOk := by
  unfold State.handOwnerTarget
  split
  · exact h
  · exact h.handTarget i (analogTarget_inRange _ _)

theorem State.wordsOk.changeOwner (i : Input) (who : Option Party) : (s.changeOwner i who).wordsOk := by
  have h1 : (s.modOwn i (Ownership.give who)).wordsOk := h.congr rfl rfl
  exact (h1.handOwnerTarget i).congr rfl rfl

theorem State.wordsOk.setLevel (who : Party) (i : Input) (level : Option Int) : (s.setLevel who i level).wordsOk := by
  have h1 : (s.updatePair who i (Pair.storeLevel (s.moves.get i).status (s.analog i) level)).wordsOk := h.congr rfl rfl
  unfold State.setLevel
  dsimp only
  split
  · exact h1.handOwnerTarget i
  · exact h1

theorem State.wordsOk.passToPanel (k : Seat) (i : Input) : (s.passToPanel k i).wordsOk :=
  State.wordsOk.changeOwner (s := State.updatePair _ _ _ s) (h.congr rfl rfl) i _

theorem State.wordsOk.handOn (k : Seat) (i : Input) : (s.handOn k i).wordsOk := by
  unfold State.handOn
  split
  · split
    · exact h.passToPanel k i
    · exact h.changeOwner i _
  · exact h

theorem State.wordsOk.erase (k : Seat) : (s.erase k).wordsOk := by
  have h1 := foldl_inv (fun acc i => State.handOn k i acc) State.wordsOk (fun _ i hs => hs.handOn k i) allInputs s h
  exact h1.congr (by simp only [State.erase]) (by simp only [State.erase])

theorem State.wordsOk.keepExpired (k : Seat) : (s.keepExpired k).wordsOk := by
  unfold State.keepExpired
  split
  · exact h
  · exact h.erase k

theorem State.wordsOk.choosePad (i : Input) (pad : Bool) : (s.choosePad i pad).wordsOk := by
  have h1 : ∀ f, (s.modOwn i f).wordsOk := fun f => h.congr rfl rfl
  unfold State.choosePad
  dsimp only
  split
  · exact (h1 _).handTarget i (analogTarget_inRange _ _)
  · exact (h1 _).handTarget i (keptTarget_inRange _ _)

theorem State.wordsOk.arbiterAdopts (i : Input) : (s.arbiterAdopts i).wordsOk := by
  unfold State.arbiterAdopts
  split
  · exact h.congr rfl rfl
  · exact h.handOwnerTarget i

/-! Phantom sequences. -/

theorem State.wordsOk.enterWriting (i : Input) : (s.enterWriting i).wordsOk := by
  refine h.setBus (b := (s.enterWriting i).bus) ?_ |>.congr rfl rfl
  unfold State.enterWriting
  dsimp only
  split
  · exact Bus.inRange.addWrite h.2 trivial
  · exact h.2

theorem State.wordsOk.raiseEnd (i : Input) (o : Option SeqOutcome) : (s.raiseEnd i o).wordsOk := by
  unfold State.raiseEnd
  split <;> exact h.congr rfl rfl

theorem State.wordsOk.endSequence (i : Input) : (s.endSequence i).wordsOk := by
  refine State.wordsOk.dealPending ?_ i
  refine State.wordsOk.raiseEnd ?_ i _
  exact h.congr rfl rfl

theorem State.wordsOk.endFadeOut (i : Input) : (s.endFadeOut i).wordsOk := by
  unfold State.endFadeOut
  split
  · exact h.enterWriting i
  · exact h

theorem State.wordsOk.endFadeIn (i : Input) : (s.endFadeIn i).wordsOk := by
  unfold State.endFadeIn
  split
  · exact h.endSequence i
  · exact h

theorem State.wordsOk.settleExpired (i : Input) : (s.settleExpired i).wordsOk := by
  unfold State.settleExpired
  split
  · split
    · refine State.wordsOk.enterWriting ?_ i
      exact h.congr rfl rfl
    · exact h.congr rfl rfl
  · exact h

/-! The ends of moves. -/

theorem State.wordsOk.startHeld (i : Input) : (s.startHeld i).wordsOk := h.congr (by simp) (by simp)

theorem State.wordsOk.endMove (i : Input) (o : MovedOutcome) : (s.endMove i o).wordsOk := by
  have h1 : (s.modMove i fun m => { m with move := .idle }).wordsOk := h.modMove i fun hm => hm.goIdle
  have h2 : ((s.modMove i fun m => { m with move := .idle }).raiseMoved i o).wordsOk := h1.congr rfl rfl
  exact (h2.startHeld i).dealPending i

theorem State.wordsOk.land (i : Input) {t : Setting} (ht : t.inRange) : (s.land i t).wordsOk := by
  have h1 : (s.modMove i fun m => { m with setting := t }).wordsOk := h.modMove i fun hm => hm.setSetting ht
  refine State.wordsOk.endMove ?_ i _
  exact h1.congr rfl rfl

theorem State.wordsOk.landIfDue (i : Input) : (s.landIfDue i).wordsOk := by
  unfold State.landIfDue
  split
  · rename_i t hm
    exact h.land i ((h.1 i).2.1 t (by simp [hm, Move.inFlight]))
  all_goals exact h

theorem State.wordsOk.landingBoundary (i : Input) : (s.landingBoundary i).wordsOk := by
  unfold State.landingBoundary
  split
  · rename_i t hm
    exact h.land i ((h.1 i).2.1 t (by simp [hm, Move.inFlight]))
  · rename_i t n hm
    exact h.modMove i fun hr => hr.of_eq rfl (by simp [hm, Move.inFlight]) rfl
  all_goals exact h

theorem State.wordsOk.moveTaken (i : Input) : (s.moveTaken i).wordsOk := by
  unfold State.moveTaken
  split
  · rename_i t hm
    exact h.modMove i fun hr => hr.of_eq rfl (by simp [hm, Move.inFlight]) rfl
  all_goals exact h

theorem State.wordsOk.moveNotTaken (i : Input) : (s.moveNotTaken i).wordsOk := by
  unfold State.moveNotTaken
  split
  · rename_i t hm
    refine State.wordsOk.endMove ?_ i _
    exact h.modMove i fun hr => hr.of_eq rfl rfl rfl
  all_goals exact h

theorem State.wordsOk.faultMove (i : Input) : (s.faultMove i).wordsOk :=
  (h.modMove i fun hm => hm.abandon : State.wordsOk (s.modMove i _)).congr rfl rfl

theorem State.wordsOk.becomeKnown (i : Input) {t : Setting} (ht : t.inRange) : (s.becomeKnown i t).wordsOk := by
  have h1 : (s.modMove i fun m => { m with setting := t, failed := none, status := .known }).wordsOk :=
    h.modMove i fun hm => (hm.setSetting ht).of_eq rfl rfl rfl
  exact h1.congr rfl rfl

theorem State.wordsOk.adopt (startUp : Bool) (i : Input) {w : Byte} (hw : inDomain w = true) :
    (s.adopt startUp i w).wordsOk := by
  have h1 := h.becomeKnown i ((inDomain_iff w).mp hw)
  have h2 : (if startUp then s.becomeKnown i (wordSetting w)
      else (s.becomeKnown i (wordSetting w)).raiseMoved i .adopted).wordsOk := by
    split
    · exact h1
    · exact h1.congr rfl rfl
  exact ((h2.arbiterAdopts i).dealPending i).congr rfl rfl

/-! Chips. -/

theorem State.wordsOk.faultMoves (c : Chip) :
    ((chipInputs c).foldl (fun acc i => State.faultMove i acc) s).wordsOk :=
  foldl_inv _ State.wordsOk (fun _ i hs => hs.faultMove i) _ s h

theorem State.wordsOk.chipFault (c : Chip) : (s.chipFault c).wordsOk := by
  have h1 : (s.modBus (Bus.faultChip c)).wordsOk := h.modBus fun hb => Bus.inRange.filterQueue hb _
  have h2 := foldl_inv (fun acc i => State.faultPhantom i acc) State.wordsOk
    (fun _ i hs => hs.congr (State.faultPhantom_moves i _) (State.faultPhantom_bus i _)) (chipInputs c) _
    (h1.faultMoves c)
  exact h2.congr (by simp only [State.chipFault, State.raiseChip_moves])
    (by simp only [State.chipFault, State.raiseChip_bus])

theorem State.wordsOk.adoptChip (startUp : Bool) (c : Chip) {ws : List Byte} (hw : ∀ w ∈ ws, inDomain w = true) :
    (s.adoptChip startUp c ws).wordsOk := by
  have h1 : (s.modBus fun b => { Bus.takeWords c ws b with chips := b.chips.set c .ok, probe := [] }).wordsOk :=
    h.modBus fun hb => (hb.takeWords c hw).clearProbe
  have h2 := foldl_inv (fun acc i => State.adopt startUp i (acc.bus.shadow.get i) acc) State.wordsOk
    (fun _ i hs => hs.adopt startUp i (hs.2.1 i)) (chipInputs c) _ h1
  exact h2.congr (by simp only [State.adoptChip, State.raiseChip_moves])
    (by simp only [State.adoptChip, State.raiseChip_bus])

theorem State.wordsOk.writeTaken (c : Command) {w : Byte} (hw : inDomain w = true) : (s.writeTaken c w).wordsOk := by
  have h1 : (s.modBus fun b => { b with shadow := b.shadow.set c.input w }).wordsOk :=
    h.modBus fun hb => hb.setShadow c.input hw
  cases c with
  | gain i pad p => exact h1.moveTaken i
  | phantom i on => exact h1.congr (by simp [State.writeTaken]) (by simp [State.writeTaken])

theorem State.wordsOk.writeNotTaken (c : Command) : (s.writeNotTaken c).wordsOk := by
  cases c with
  | gain i pad p => exact h.moveNotTaken i
  | phantom i on => exact h.congr (by simp [State.writeNotTaken]) (by simp [State.writeNotTaken])

theorem State.wordsOk.writeReplied (c : Command) (o : Byte) {n : Byte} (hn : inDomain n = true) (reply : Option Byte) :
    (s.writeReplied c o n reply).wordsOk := by
  unfold State.writeReplied
  split
  · exact h.writeTaken c hn
  · exact h.modBus fun hb => hb.addReads fun e he => by rw [List.mem_singleton.mp he]; exact hn

theorem State.wordsOk.verified (c : Command) (o : Byte) {n : Byte} (hn : inDomain n = true) (w : Option Byte) :
    (s.verified c o n w).wordsOk := by
  unfold State.verified
  split
  · exact h.writeTaken c hn
  · split
    · exact h.writeNotTaken c
    · exact h.chipFault _

theorem State.wordsOk.clipLatched (i : Input) : (s.clipLatched i).wordsOk := by
  unfold State.clipLatched
  split
  · exact ⟨h.1, h.2⟩
  · exact h

theorem State.wordsOk.faultLatched (i : Input) : (s.faultLatched i).wordsOk := by
  have h1 : (s.modBus fun b => { b with shadow := b.shadow.set i (dropPhantom (b.shadow.get i)) }).wordsOk :=
    h.modBus fun hb => hb.setShadow i (dropPhantom_inDomain (hb.1 i))
  exact h1.congr (by simp [State.faultLatched]) (by simp [State.faultLatched])

theorem State.wordsOk.statusEnded (i : Input) (v : Option Byte) : (s.statusEnded i v).wordsOk := by
  have h1 : (s.modBus fun b => { b with pollPos := nextInput i }).wordsOk := h.modBus fun hb => hb
  unfold State.statusEnded
  cases v with
  | none => exact h1.chipFault _
  | some x =>
    dsimp only
    have h2 : (if statusClip x then (s.modBus fun b => { b with pollPos := nextInput i }).clipLatched i
        else s.modBus fun b => { b with pollPos := nextInput i }).wordsOk := by
      split
      · exact h1.clipLatched i
      · exact h1
    split
    · exact h2.faultLatched i
    · exact h2

theorem State.wordsOk.identityEnded (c : Chip) (v : Option Byte) : (s.identityEnded c v).wordsOk := by
  refine h.modBus fun hb => ?_
  dsimp only
  split
  · refine Bus.inRange.addReads (Bus.inRange.clearProbe (b := { s.bus with pollPos := _ }) hb) fun e he => ?_
    obtain ⟨k, -, rfl⟩ := List.mem_map.mp he
    trivial
  · exact hb

theorem State.wordsOk.adoptionEnded (c : Chip) (k : Channel) {w : Option Byte} (hw : readInDomain w) :
    (s.adoptionEnded c k w).wordsOk := by
  cases w with
  | none => exact h.modBus fun hb => Bus.inRange.filterQueue hb.clearProbe _
  | some x =>
    have hx := Bus.inRange.keepWord h.2 (hw x rfl)
    unfold State.adoptionEnded
    dsimp only
    split
    · exact h.adoptChip false c hx
    · exact h.modBus fun hb => hb.setProbe hx

theorem State.wordsOk.beginNext : s.beginNext.wordsOk := by
  refine ⟨fun j => ?_, Bus.inRange.next h.2⟩
  unfold State.beginNext
  dsimp only
  split
  · rw [Tab.get_modify]
    split
    · exact (h.1 j).goOnWire
    · exact h.1 j
  · exact h.1 j

theorem State.wordsOk.passTxn {t : Txn} (ht : t.inRange) : (s.passTxn t).wordsOk :=
  h.modBus fun hb => hb.start fun x hx => by cases hx; exact ht

theorem State.wordsOk.nextChip (c : Chip) : (s.nextChip c).wordsOk := by
  unfold State.nextChip
  split
  · exact h.passTxn trivial
  · have h1 : (s.modBus fun b => { b with pass := .ready, pollPos := 0 }).wordsOk := h.modBus fun hb => hb
    refine State.wordsOk.beginNext ?_
    exact h1.congr (by simp) (by simp)

theorem State.wordsOk.passFailsChip (c : Chip) : (s.passFailsChip c).wordsOk := by
  have h1 : (s.modBus fun b => { b with chips := b.chips.set c .faulted, probe := [] }).wordsOk :=
    h.modBus fun hb => hb.clearProbe
  refine State.wordsOk.nextChip ?_ c
  exact h1.congr rfl rfl

theorem State.wordsOk.startIdentityEnded (c : Chip) (v : Option Byte) : (s.startIdentityEnded c v).wordsOk := by
  unfold State.startIdentityEnded
  split
  · split
    · refine State.wordsOk.passTxn ?_ trivial
      exact h.modBus fun hb => hb.clearProbe
    · exact h.passTxn trivial
  · exact h.passFailsChip c

theorem State.wordsOk.startWriteTaken (c : Chip) (k : Channel) : (s.startWriteTaken c k).wordsOk := by
  have hzero : inDomain 0#8 = true := by decide
  have h1 : (s.modBus fun b => { b with shadow := b.shadow.set (inputAt c k) 0#8 }).wordsOk :=
    h.modBus fun hb => hb.setShadow _ hzero
  have h2 := h1.becomeKnown (inputAt c k) ((inDomain_iff 0#8).mp hzero)
  unfold State.startWriteTaken
  dsimp only
  split
  · refine State.wordsOk.passTxn ?_ trivial
    exact h2.congr rfl rfl
  · refine State.wordsOk.nextChip ?_ c
    exact ⟨h2.1, h2.2⟩

theorem State.wordsOk.startVerified (c : Chip) (k : Channel) (w : Option Byte) : (s.startVerified c k w).wordsOk := by
  unfold State.startVerified
  split
  · exact h.startWriteTaken c k
  · exact (h.faultMoves c).passFailsChip c

theorem State.wordsOk.startAdoptionEnded (c : Chip) (k : Channel) {w : Option Byte} (hw : readInDomain w) :
    (s.startAdoptionEnded c k w).wordsOk := by
  cases w with
  | none => exact h.passFailsChip c
  | some x =>
    have hx := Bus.inRange.keepWord h.2 (hw x rfl)
    unfold State.startAdoptionEnded
    dsimp only
    split
    · refine State.wordsOk.passTxn ?_ trivial
      exact h.modBus fun hb => hb.setProbe hx
    · exact (h.adoptChip true c hx).nextChip c

/-! The sample period, power-on and restart. -/

theorem State.wordsOk.samplePeriod (x : Tab 48 Sample) : (s.samplePeriod x).wordsOk := by
  have h0 : s.tick.wordsOk := h.congr rfl rfl
  have h1 : s.tick.landings.wordsOk :=
    foldl_inv (fun acc i => State.landingBoundary i acc) State.wordsOk (fun _ i hs => hs.landingBoundary i) allInputs _ h0
  have h2 : ((((s.tick.landings).takeMaps).rampPairs.stepGates).formFrames x).wordsOk := h1.congr (by simp) (by simp)
  unfold State.samplePeriod State.endFades
  exact foldl_inv (fun acc i => State.endFadeIn i (State.endFadeOut i acc)) State.wordsOk
    (fun _ i hs => (hs.endFadeOut i).endFadeIn i) allInputs _ h2

omit h in
theorem State.blocksReset_wordsOk {b : Bus} (hb : b.inRange) : (s.blocksReset b).wordsOk := by
  refine ⟨fun i => ?_, hb⟩
  simp only [State.blocksReset, State.reset, Tab.get_const]
  exact ⟨Nat.zero_le _, fun _ ht => (nomatch ht), fun _ ht => nomatch ht⟩

omit h in
theorem State.powerOn_wordsOk : s.powerOn.wordsOk :=
  State.wordsOk.passTxn (State.blocksReset_wordsOk Bus.atPowerOn_inRange) trivial

theorem State.wordsOk.restartNow : s.restartNow.wordsOk := by
  unfold State.restartNow
  split
  · refine State.wordsOk.passTxn ?_ trivial
    exact State.blocksReset_wordsOk Bus.atPowerOn_inRange
  · rename_i f hf
    refine State.blocksReset_wordsOk ⟨Bus.atPowerOn_inRange.1, Bus.atPowerOn_inRange.2.1, Bus.atPowerOn_inRange.2.2.1, ?_⟩
    intro g hg
    cases hg
    exact h.2.2.2.2 f hf

/-! Links. -/

theorem State.wordsOk.bind (r : BindReport) : (s.bind r).1.wordsOk := by
  have create : ∀ k, ((s.erase k).createConsumer k r).wordsOk := 
    fun k => (h.erase k).congr (State.createConsumer_moves k r _) (State.createConsumer_bus k r _)
  unfold State.bind
  split
  · split
    · exact h.congr rfl rfl
    · split
      · exact create _
      · exact h
  · split
    · exact h
    · split
      · split
        · exact h.congr rfl rfl
        · exact create _
      · split
        · exact h.congr rfl rfl
        · exact h

theorem State.wordsOk.matchConfirm (p : Port) (tag : Byte) (c : PartnerConfirm) : (s.matchConfirm p tag c).wordsOk := by
  have fault : ∀ {u : State}, u.wordsOk → ∀ why nonce, (u.enterFault p why tag nonce).wordsOk :=
    fun hu why nonce => hu.congr (by simp) (by simp)
  have bound : ∀ pg r, (s.enterBound p tag pg r).wordsOk := by
    intro pg r
    have hb : (State.bind (bindReport p pg r)
        ((s.modPort p fun q => { q.goTo .bound with timer := none }).raiseLink p (s.ports.get p).state noFlags)).1.wordsOk := by
      refine State.wordsOk.bind ?_ _
      exact h.congr rfl rfl
    unfold State.enterBound
    dsimp only
    split
    · rename_i u hu
      rw [hu] at hb
      exact State.wordsOk.congr hb (by simp) (by simp)
    · rename_i u why hu
      rw [hu] at hb
      exact fault hb _ _
  unfold State.matchConfirm
  split
  · split
    · exact bound _ _
    · exact fault h _ _
  · exact fault h _ _
  · exact fault h _ _

end

/-! ## Every step -/

theorem wordsOk_blind : BlindToLanes State.wordsOk :=
  ⟨fun _ _ _ h => h.congr rfl rfl, fun _ _ h => h.congr rfl rfl, fun _ _ h => h.congr rfl rfl⟩

theorem wordsOk_records (l : LaneId) : KeptByRecords l State.wordsOk State.wordsOk where
  stays _ h := h.1
  reply _ _ _ _ _ h _ := h.1.congr rfl rfl
  consumer _ _ _ h := h.1.congr rfl rfl
  level _ _ _ _ h := h.setLevel _ _ _
  mute _ _ _ _ h := h.congr rfl rfl
  map _ _ _ h := h.congr rfl rfl
  take _ _ _ h _ _ := h.changeOwner _ _
  wait _ _ _ h _ _ _ _ := h.congr rfl rfl
  release _ _ h := h.changeOwner _ _
  leave _ _ _ h := h.congr rfl rfl
  pad _ _ _ h := h.choosePad _ _
  phantom _ _ _ h := h.congr (by simp) (by simp)
  clearSat _ _ _ h := h.congr rfl rfl
  clearSets _ _ _ h := h.congr rfl rfl
  clearCounters _ _ _ h := h.congr rfl rfl
  lock _ _ _ h := h.congr rfl rfl
  force _ _ h := h.changeOwner _ _
  rate _ _ h := h.congr (by simp [State.changeRate]) (by simp [State.changeRate])
  align _ _ h := h.congr rfl rfl
  resetHold _ _ h := h.congr (by simp) (by simp)
  resetFlush _ _ h := h.congr rfl rfl
  restart _ _ h := h.congr rfl rfl
  ignore _ h := h.congr rfl rfl
  reoffer _ _ _ _ _ _ h _ _ := h.congr (by simp) (by simp)
  resolveOffer _ _ _ _ _ _ h _ _ := h.congr (by simp) (by simp)
  matchConfirm _ _ _ _ _ h _ := h.matchConfirm _ _ _

theorem wordsOk_bus : KeptByBus State.wordsOk where
  write c o _ reply _ h hf := by
    obtain ⟨d, hd⟩ := hf
    exact (h.writeReplied c o (h.2.2.2.2 _ hd) reply).beginNext
  verify c o _ w _ h hf := by
    obtain ⟨d, hd⟩ := hf
    exact (h.verified c o (h.2.2.2.2 _ hd) w).beginNext
  status i v _ h := (h.statusEnded i v).beginNext
  identity c v _ h := (h.identityEnded c v).beginNext
  adoption c k _ _ h hw := (h.adoptionEnded c k hw).beginNext
  startIdentity c v _ h := h.startIdentityEnded c v
  startWrite c k _ h := h.startWriteTaken c k
  startTimeout _ _ _ h := h.passTxn trivial
  startVerify c k w _ h := h.startVerified c k w
  startAdoption c k _ _ h hw := h.startAdoptionEnded c k hw
  discard _ h := h.passTxn trivial

theorem wordsOk_step : KeptByStep State.wordsOk where
  pending _ _ h := h.congr rfl rfl
  powerOn _ _ := State.powerOn_wordsOk
  restart _ h := h.restartNow
  samplePeriod x _ h := h.samplePeriod x
  rampStep _ _ _ h := h.congr (by simp) (by simp)
  landing i _ h := h.landIfDue i
  fadeOutEnd i _ h := h.endFadeOut i
  fadeInEnd i _ h := h.endFadeIn i
  settle i _ h := h.settleExpired i
  keep k _ h := h.keepExpired k
  carrierArrival _ _ h := h.congr (by simp) (by simp)
  carrierLoss _ _ h := h.congr (by simp) (by simp)
  character l v parity stop start _ h := wordsOk_blind.character wordsOk_records h
    (fun _ _ h => h.congr (by simp) (by simp)) l v parity stop start
  break_ _ _ h := h.congr (by simp) (by simp)
  byte l _ h := wordsOk_blind.byteSent wordsOk_records h (fun _ h => h.restartNow) l
  breakEnd _ _ h := h.congr rfl rfl
  hold _ _ h := h.congr (by simp) (by simp)
  offerWait _ _ h := h.congr (by simp) (by simp)
  confirmWait _ _ h := h.congr (by simp) (by simp)
  inhibit _ _ h := h.congr (by simp) (by simp)
  record l kind tag fields _ h := wordsOk_blind.deliver wordsOk_records h l kind tag fields
  bus := wordsOk_bus

/-- Settles O59: each operation that writes a setting, a target or a word writes one within the domain. -/
theorem everyStepKeepsWords : Obligations.EveryStepKeepsWords := fun _ _ hs ht => wordsOk_step.step hs ht

end Sys2Proof.Machine
end

section
/-! PROOF. Every step keeps every gate in order and turned toward its requirement, and shut while its input's phantom
supply is switched (R17 to R19, R85). -/

namespace Sys2Proof.Machine

/-! ## One pair's gate -/

/-- What `State.gatesOk` asks of one pair of an input in a sequence state. -/
def Pair.gateFits (n : Nat) (seq : SeqState) (q : Pair) : Prop :=
  q.gateOk n ∧ q.gateFollows seq ∧ (seq = .writing ∨ seq = .settling → q.gate = 0)

/-- The second pair's gate stands, goes and is muted as the first one's. -/
def Pair.sameGate (q q' : Pair) : Prop := q'.gate = q.gate ∧ q'.dir = q.dir ∧ q'.mute = q.mute

theorem Pair.sameGate.refl (q : Pair) : q.sameGate q := ⟨rfl, rfl, rfl⟩

theorem Pair.gateFits.of_same {n : Nat} {seq : SeqState} {q q' : Pair} (h : q.gateFits n seq) (hq : q.sameGate q') :
    q'.gateFits n seq := by
  obtain ⟨hg, hd, hm⟩ := hq
  unfold Pair.gateFits Pair.gateOk Pair.gateFollows
  rw [hg, hd, hm]
  exact h

theorem Pair.gateFits.of_seq {n : Nat} {seq seq' : SeqState} {q : Pair} (h : q.gateFits n seq)
    (hreq : requiredClosed seq' q.mute = requiredClosed seq q.mute) (hgate : seq' = .writing ∨ seq' = .settling → q.gate = 0) :
    q.gateFits n seq' := by
  refine ⟨h.1, ?_, hgate⟩
  unfold Pair.gateFollows
  rw [hreq]
  exact h.2.1

/-- A gate in order turns into one that fits, if it is shut where the supply is being switched (R17, R18). -/
theorem Pair.turnGate_fits {n : Nat} {seq : SeqState} {q : Pair} (h : q.gateOk n)
    (hgate : seq = .writing ∨ seq = .settling → q.gate = 0) : (Pair.turnGate n seq q).gateFits n seq := by
  refine ⟨?_, ?_, by simpa using hgate⟩
  · unfold Pair.gateOk at h ⊢
    unfold Pair.turnGate
    cases hd : q.dir <;> cases hr : requiredClosed seq q.mute <;> grind
  · unfold Pair.gateFollows Pair.turnGate
    cases hd : q.dir <;> cases hr : requiredClosed seq q.mute <;> grind

/-- A gate step keeps a gate that fits (R19). -/
theorem Pair.gateFits.gateStep {n : Nat} {seq : SeqState} {q : Pair} (h : q.gateFits n seq) :
    (q.gateStep n).gateFits n seq := by
  obtain ⟨hok, hfol, hgate⟩ := h
  have shut : seq = .writing ∨ seq = .settling → requiredClosed seq q.mute = true := by rintro (rfl | rfl) <;> rfl
  unfold Pair.gateOk at hok
  unfold Pair.gateFollows at hfol
  cases hd : q.dir <;> simp only [hd] at hok hfol
  case opened => rw [Pair.gateStep, hd]; exact ⟨by simp [Pair.gateOk, hd, hok], by simp [Pair.gateFollows, hd]; simpa using hfol, hgate⟩
  case closed => rw [Pair.gateStep, hd]; exact ⟨by simp [Pair.gateOk, hd, hok], by simp [Pair.gateFollows, hd]; simpa using hfol, hgate⟩
  case closing =>
    have hreq : requiredClosed seq q.mute = true := by simpa using hfol
    refine ⟨?_, ?_, fun hs => ?_⟩
    · simp only [Pair.gateStep, hd, Pair.gateOk]
      split_ifs <;> simp <;> omega
    · simp only [Pair.gateStep, hd, Pair.gateFollows, hreq, if_true]
      split_ifs <;> simp
    · have := hgate hs
      omega
  case opening =>
    have hreq : requiredClosed seq q.mute = false := by simpa using hfol
    refine ⟨?_, ?_, fun hs => absurd (shut hs) (by simp [hreq])⟩
    · simp only [Pair.gateStep, hd, Pair.gateOk]
      split_ifs <;> simp <;> omega
    · simp only [Pair.gateStep, hd, Pair.gateFollows, hreq, Bool.false_eq_true, if_false]
      split_ifs <;> simp

/-- A new pair's gate fits (R9). -/
theorem Pair.fresh_fits (n : Nat) (status : AnalogStatus) (seq : SeqState) : (Pair.fresh n status seq).gateFits n seq := by
  refine Pair.turnGate_fits ?_ fun hs => if_pos hs
  unfold Pair.gateOk
  by_cases hs : seq = .writing ∨ seq = .settling <;> simp [hs]

/-- A gate that goes the way its requirement calls for fits once it is at rest, whatever the new fade length (R20). -/
theorem Pair.rest_fits {n n' : Nat} {seq : SeqState} {status : AnalogStatus} {a : Int} {q : Pair}
    (h : q.gateFits n seq) : (Pair.rest n' status a q).gateFits n' seq := by
  obtain ⟨-, hfol, hgate⟩ := h
  have hsame : Pair.sameGate { q with gate := if q.dir = .closing ∨ q.dir = .closed then 0 else n'
                                      dir := if q.dir = .closing ∨ q.dir = .closed then .closed else .opened }
      (Pair.rest n' status a q) := by
    by_cases hr : q.trimState = .ramping <;> simp [Pair.rest, Pair.sameGate, hr]
  refine Pair.gateFits.of_same ⟨?_, ?_, fun hs => ?_⟩ hsame
  · unfold Pair.gateOk
    by_cases hshut : q.dir = .closing ∨ q.dir = .closed <;> simp [hshut]
  · unfold Pair.gateFollows at hfol ⊢
    cases hd : q.dir <;> simp_all
  · have hreq : requiredClosed seq q.mute = true := by rcases hs with rfl | rfl <;> rfl
    simp only [Pair.gateFollows, hreq, if_true] at hfol
    exact if_pos hfol

/-! ## What leaves a pair's gate -/

theorem Pair.sameGate_settleTrim (b : TrimState) (st : AnalogStatus) (a : Int) (q : Pair) :
    q.sameGate (Pair.settleTrim b st a q) := ⟨rfl, rfl, rfl⟩

theorem Pair.sameGate_retarget (st : AnalogStatus) (a : Int) (q : Pair) : q.sameGate (Pair.retarget st a q) :=
  ⟨rfl, rfl, rfl⟩

theorem Pair.sameGate_storeLevel (st : AnalogStatus) (a : Int) (level : Option Int) (q : Pair) :
    q.sameGate (Pair.storeLevel st a level q) := by
  cases st <;> exact ⟨rfl, rfl, rfl⟩

theorem Pair.sameGate_land (st : AnalogStatus) (d a : Int) (q : Pair) : q.sameGate (Pair.land st d a q) := by
  unfold Pair.land
  split <;> exact ⟨rfl, rfl, rfl⟩

theorem Pair.sameGate_rampAdvance (r : BoxRate) (st : AnalogStatus) (a : Int) (q : Pair) :
    q.sameGate (Pair.rampAdvance r st a q) := by
  unfold Pair.rampAdvance
  split_ifs <;> exact ⟨rfl, rfl, rfl⟩

theorem Pair.sameGate_countClip (n : Nat) (x : Sample) (q : Pair) : q.sameGate (Pair.countClip n x q) := by
  unfold Pair.countClip
  split <;> exact ⟨rfl, rfl, rfl⟩

/-! ## The state's gates -/

theorem State.gatesOk_iff (s : State) : s.gatesOk ↔
    ∀ who i q, s.pair? who i = some q → q.gateFits s.rate.fade (s.phantoms.get i).seq := Iff.rfl

/-- Pairs with the same gates, in the same sequence states and at the same rate. -/
theorem State.gatesOk.of_same {s t : State} (h : s.gatesOk) (hr : t.rate = s.rate)
    (hseq : ∀ i, (t.phantoms.get i).seq = (s.phantoms.get i).seq)
    (hp : ∀ who i q', t.pair? who i = some q' → ∃ q, s.pair? who i = some q ∧ q.sameGate q') : t.gatesOk := by
  intro who i q' hq'
  obtain ⟨q, hq, hsame⟩ := hp who i q' hq'
  rw [hr, hseq i]
  exact Pair.gateFits.of_same (h who i q hq) hsame

theorem State.gatesOk.congr {s t : State} (h : s.gatesOk) (hp : t.pairs = s.pairs) (hr : t.rate = s.rate)
    (hph : t.phantoms = s.phantoms) : t.gatesOk :=
  h.of_same hr (fun i => by rw [hph]) fun who i q hq => ⟨q, by rw [← State.pair?_congr hp]; exact hq, .refl q⟩

/-- What fits at one input, with nothing changed at the others. -/
theorem State.gatesOk.at_input {s t : State} (h : s.gatesOk) (hr : t.rate = s.rate) (i : Input)
    (hseq : ∀ j, j ≠ i → (t.phantoms.get j).seq = (s.phantoms.get j).seq)
    (hp : ∀ who j, j ≠ i → t.pair? who j = s.pair? who j)
    (hi : ∀ who q, t.pair? who i = some q → q.gateFits s.rate.fade (t.phantoms.get i).seq) : t.gatesOk := by
  intro who j q hq
  rw [hr]
  by_cases hj : j = i
  · subst hj
    exact hi who q hq
  · rw [hseq j hj]
    exact h who j q (hp who j hj ▸ hq)

section
variable {s : State} (h : s.gatesOk)
include h

theorem State.gatesOk.updatePairs (i : Input) {f : Pair → Pair} (hf : ∀ q : Pair, q.sameGate (f q)) :
    (s.updatePairs i f).gatesOk := by
  refine h.of_same rfl (fun _ => rfl) fun who j q' hq' => ?_
  rw [State.pair?_updatePairs] at hq'
  split at hq'
  · obtain ⟨q, hq, rfl⟩ := Option.map_eq_some_iff.mp hq'
    exact ⟨q, hq, hf q⟩
  · exact ⟨q', hq', .refl q'⟩

theorem State.gatesOk.updatePair (who : Party) (i : Input) {f : Pair → Pair} (hf : ∀ q : Pair, q.sameGate (f q)) :
    (s.updatePair who i f).gatesOk := by
  refine h.of_same rfl (fun _ => rfl) fun who' j q' hq' => ?_
  rw [State.pair?_updatePair] at hq'
  split at hq'
  · obtain ⟨q, hq, rfl⟩ := Option.map_eq_some_iff.mp hq'
    exact ⟨q, hq, hf q⟩
  · exact ⟨q', hq', .refl q'⟩

/-- A change of the phantom controller that leaves the sequence state. -/
theorem State.gatesOk.modPhantom (i : Input) {f : PhantomCtl → PhantomCtl} (hf : ∀ q, (f q).seq = q.seq) :
    (s.modPhantom i f).gatesOk := by
  refine h.of_same rfl (fun j => ?_) fun who j q hq => ⟨q, hq, .refl q⟩
  simp only [State.modPhantom, Tab.get_modify]
  split
  · exact hf _
  · rfl

/-- A change of one input's sequence state that leaves its pairs' gates as they are. -/
theorem State.gatesOk.modSeq (i : Input) {f : PhantomCtl → PhantomCtl}
    (hi : ∀ who q, s.pair? who i = some q → q.gateFits s.rate.fade (f (s.phantoms.get i)).seq) :
    (s.modPhantom i f).gatesOk := by
  refine h.at_input rfl i (fun j hj => ?_) (fun _ _ _ => rfl) fun who q hq => ?_
  · simp [State.modPhantom, Tab.get_modify, hj]
  · simpa [State.modPhantom] using hi who q hq

/-- A change of one input's sequence state, to one in which the supply is not being switched, and the turn of its gates. -/
theorem State.gatesOk.turned (i : Input) {f : PhantomCtl → PhantomCtl}
    (hf : (f (s.phantoms.get i)).seq ≠ .writing ∧ (f (s.phantoms.get i)).seq ≠ .settling) :
    ((s.modPhantom i f).turnGates i).gatesOk := by
  refine h.at_input rfl i (fun j hj => ?_) (fun who j hj => ?_) fun who q hq => ?_
  · simp [State.modPhantom, Tab.get_modify, hj]
  · rw [State.pair?_turnGates, if_neg hj]
    rfl
  · rw [State.pair?_turnGates, if_pos rfl] at hq
    obtain ⟨q0, hq0, rfl⟩ := Option.map_eq_some_iff.mp hq
    refine Pair.turnGate_fits (h who i q0 hq0).1 fun hs => ?_
    have he : ((s.modPhantom i f).phantoms.get i).seq = (f (s.phantoms.get i)).seq := by simp [State.modPhantom]
    change ((s.modPhantom i f).phantoms.get i).seq = _ ∨ ((s.modPhantom i f).phantoms.get i).seq = _ at hs
    rw [he] at hs
    exact absurd hs (by simp [hf.1, hf.2])

theorem State.gatesOk.startSequence (i : Input) (on : Bool) : (s.startSequence i on).gatesOk := by
  have h1 := h.turned i (f := fun q =>
    { q with origin := some q.phantom, target := some on, outcome := none, seq := .fadeOut }) ⟨nofun, nofun⟩
  exact h1.congr rfl rfl rfl

theorem State.gatesOk.enterFadeIn (i : Input) : (s.enterFadeIn i).gatesOk := h.turned i ⟨nofun, nofun⟩

/-- WRITING is entered with every gate of the input shut and to be so (R85, R87). -/
theorem State.gatesOk.enterWriting (i : Input)
    (hshut : ∀ who q, s.pair? who i = some q → requiredClosed (s.phantoms.get i).seq q.mute = true ∧ q.gate = 0) :
    (s.enterWriting i).gatesOk := by
  have h1 := h.modSeq i (f := fun q => { q with seq := .writing, settle := none }) fun who q hq => by
    obtain ⟨hreq, hgate⟩ := hshut who q hq
    exact Pair.gateFits.of_seq (h who i q hq) hreq.symm fun _ => hgate
  exact h1.congr rfl rfl rfl

theorem State.gatesOk.endSequence (i : Input) (hseq : (s.phantoms.get i).seq = .fadeIn) : (s.endSequence i).gatesOk := by
  have h1 := h.modSeq i (f := fun q =>
    { q with seq := .idle, origin := none, target := none, reversal := none, outcome := none }) fun who q hq =>
      Pair.gateFits.of_seq (h who i q hq) (by rw [hseq]; rfl) fun hs => by rcases hs with hs | hs <;> cases hs
  unfold State.endSequence
  dsimp only
  exact h1.congr (by simp) (by simp) (by simp)

omit h in
theorem mem_ofInput {ps : PairStore} {who : Party} {i : Input} {q : Pair} (hq : ps.get who i = some q) :
    q ∈ ps.ofInput i := by
  refine List.mem_filterMap.mpr ⟨who, ?_, hq⟩
  cases who with
  | panel => exact List.mem_cons_self
  | consumer k => exact List.mem_cons_of_mem _ (List.mem_map_of_mem (List.mem_finRange k))

theorem State.gatesOk.endFadeOut (i : Input) : (s.endFadeOut i).gatesOk := by
  unfold State.endFadeOut
  split
  · rename_i hc
    obtain ⟨hseq, hall⟩ := hc
    refine h.enterWriting i fun who q hq => ⟨by rw [hseq]; rfl, ?_⟩
    exact of_decide_eq_true (List.all_eq_true.mp hall q (mem_ofInput hq))
  · exact h

theorem State.gatesOk.endFadeIn (i : Input) : (s.endFadeIn i).gatesOk := by
  unfold State.endFadeIn
  split
  · rename_i hc
    exact h.endSequence i hc.1
  · exact h

theorem State.gatesOk.settleExpired (i : Input) : (s.settleExpired i).gatesOk := by
  unfold State.settleExpired
  split
  · rename_i hseq
    split
    · rename_i on _
      have h1 := h.modPhantom i (f := fun q => { q with target := some on, reversal := none }) fun _ => rfl
      refine h1.enterWriting i fun who q hq => ?_
      have he : ((s.modPhantom i fun q => { q with target := some on, reversal := none }).phantoms.get i).seq =
          .settling := by simp [State.modPhantom, hseq]
      rw [he]
      exact ⟨rfl, (h1 who i q hq).2.2 (.inr he)⟩
    · exact h.enterFadeIn i
  · exact h

theorem State.gatesOk.phantomTaken (i : Input) : (s.phantomTaken i).gatesOk := by
  unfold State.phantomTaken
  split
  · rename_i hseq
    have h1 := h.modPhantom i (f := fun q => { q with
        phantom := match q.target with
          | some on => phantomOf on
          | none => q.phantom
        outcome := some .switched }) fun _ => rfl
    refine h1.modSeq i fun who q hq => ?_
    have hq' := h who i q hq
    exact Pair.gateFits.of_seq hq' (by rw [hseq]; rfl) fun _ => hq'.2.2 (.inl hseq)
  · exact h

theorem State.gatesOk.phantomNotTaken (i : Input) : (s.phantomNotTaken i).gatesOk := by
  unfold State.phantomNotTaken
  split
  · refine State.gatesOk.enterFadeIn ?_ i
    exact h.modPhantom i fun _ => rfl
  · exact h

theorem State.gatesOk.phantomReversal (i : Input) (on : Bool) : (s.phantomReversal i on).gatesOk :=
  h.modPhantom i fun _ => rfl

theorem State.gatesOk.phantomInFadeOut (i : Input) (on : Bool) : (s.phantomInFadeOut i on).gatesOk := by
  unfold State.phantomInFadeOut
  split
  · exact h
  · split
    · refine State.gatesOk.enterFadeIn ?_ i
      exact h.modPhantom i fun _ => rfl
    · exact h.modPhantom i fun _ => rfl

theorem State.gatesOk.phantomRequest (i : Input) (on : Bool) : (s.phantomRequest i on).gatesOk := by
  unfold State.phantomRequest
  split
  · split
    · exact h.modPhantom i fun _ => rfl
    · split
      · exact h.modPhantom i fun _ => rfl
      · exact h.startSequence i on
  · exact h.phantomInFadeOut i on
  · exact h.phantomReversal i on
  · exact h.phantomReversal i on
  · split
    · exact h
    · exact h.startSequence i on

theorem State.gatesOk.startHeld (i : Input) : (s.startHeld i).gatesOk := by
  unfold State.startHeld
  split
  · exact h
  · refine State.gatesOk.startSequence ?_ i _
    exact h.modPhantom i fun _ => rfl

theorem State.gatesOk.failSequence (i : Input) : (s.failSequence i).gatesOk := by
  refine State.gatesOk.enterFadeIn ?_ i
  exact h.modPhantom i fun _ => rfl

theorem State.gatesOk.dropHeld (i : Input) : (s.dropHeld i).gatesOk := by
  unfold State.dropHeld
  split
  · exact h
  · have h1 := h.modPhantom i (f := fun q => { q with held := none }) fun _ => rfl
    exact h1.congr rfl rfl rfl

theorem State.gatesOk.faultPhantom (i : Input) : (s.faultPhantom i).gatesOk := by
  unfold State.faultPhantom
  split
  · exact h.dropHeld i
  all_goals exact h.failSequence i

theorem State.gatesOk.phantomFault (i : Input) : (s.phantomFault i).gatesOk := by
  unfold State.phantomFault
  split
  · exact h
  · have h1 := h.modPhantom i (f := fun q => { q with phantom := .faulted }) fun _ => rfl
    have h2 : ((s.modPhantom i fun q => { q with phantom := .faulted }).raisePhantom i .fault).gatesOk :=
      h1.congr rfl rfl rfl
    unfold State.faultDuringSettle
    split
    · refine State.gatesOk.enterFadeIn ?_ i
      exact h2.modPhantom i fun _ => rfl
    · exact h2

/-! Owners and consumers. -/

theorem State.gatesOk.setLevel (who : Party) (i : Input) (level : Option Int) : (s.setLevel who i level).gatesOk := by
  have h1 := h.updatePair who i (f := Pair.storeLevel (s.moves.get i).status (s.analog i) level)
    fun q => Pair.sameGate_storeLevel _ _ _ q
  unfold State.setLevel
  dsimp only
  split
  · exact h1.congr (by simp) (by simp) (by simp)
  · exact h1

theorem State.gatesOk.setMute (who : Party) (i : Input) (on : Bool) : (s.setMute who i on).gatesOk := by
  intro who' j q' hq'
  have hq : s.pairs.get who' j = some q' ∨ j = i ∧ ∃ q, s.pairs.get who' j = some q ∧
      q' = Pair.turnGate s.rate.fade (s.phantoms.get i).seq { q with mute := on } := by
    simp only [State.pair?, State.setMute, PairStore.get_modify] at hq'
    split at hq'
    · rename_i hij
      obtain ⟨q, hq, rfl⟩ := Option.map_eq_some_iff.mp hq'
      exact .inr ⟨hij.2, q, hq, rfl⟩
    · exact .inl hq'
  rcases hq with hq | ⟨rfl, q, hq, rfl⟩
  · exact h who' j q' hq
  · obtain ⟨hok, -, hgate⟩ := h who' j q hq
    exact Pair.turnGate_fits hok hgate

theorem State.gatesOk.passToPanel (k : Seat) (i : Input) : (s.passToPanel k i).gatesOk := by
  unfold State.passToPanel
  dsimp only
  refine State.gatesOk.congr ?_ (State.changeOwner_pairs i _ _) (State.changeOwner_rate i _ _)
    (State.changeOwner_phantoms i _ _)
  exact h.updatePair _ _ fun q => Pair.sameGate_storeLevel _ _ _ q

theorem State.gatesOk.handOn (k : Seat) (i : Input) : (s.handOn k i).gatesOk := by
  unfold State.handOn
  split
  · split
    · exact h.passToPanel k i
    · exact h.congr (by simp) (by simp) (by simp)
  · exact h

theorem State.gatesOk.erase (k : Seat) : (s.erase k).gatesOk := by
  have h1 := foldl_inv (fun acc i => State.handOn k i acc) State.gatesOk (fun _ i hs => hs.handOn k i) allInputs s h
  unfold State.erase
  dsimp only
  generalize allInputs.foldl (fun acc i => State.handOn k i acc) s = u at h1
  refine h1.of_same rfl (fun _ => rfl) fun who i q hq => ⟨q, ?_, .refl q⟩
  cases who with
  | panel => exact hq
  | consumer k' =>
    simp only [State.pair?, PairStore.get, Tab.get_set] at hq ⊢
    split at hq
    · cases hq
    · exact hq

theorem State.gatesOk.createConsumer (k : Seat) (r : BindReport) : (s.createConsumer k r).gatesOk := by
  intro who i q hq
  cases who with
  | panel => exact h .panel i q hq
  | consumer k' =>
    by_cases hk : k' = k
    · subst hk
      simp only [State.pair?, PairStore.get, State.createConsumer, Tab.get_set_self, Option.map_some, State.freshPairs,
        Tab.get_ofFn, Option.some.injEq] at hq
      subst hq
      exact Pair.fresh_fits _ _ _
    · refine h (.consumer k') i q ?_
      simpa only [State.pair?, PairStore.get, State.createConsumer, Tab.get_set, hk, if_false] using hq

theorem State.gatesOk.bind (r : BindReport) : (s.bind r).1.gatesOk := by
  unfold State.bind
  split
  · split
    · exact h.createConsumer _ r
    · split
      · exact (h.erase _).createConsumer _ r
      · exact h
  · split
    · exact h
    · split
      · split
        · exact h.congr rfl rfl rfl
        · exact (h.erase _).createConsumer _ r
      · split
        · exact h.congr rfl rfl rfl
        · exact h

theorem State.gatesOk.keepExpired (k : Seat) : (s.keepExpired k).gatesOk := by
  unfold State.keepExpired
  split
  · exact h
  · exact h.erase k

theorem State.gatesOk.matchConfirm (p : Port) (tag : Byte) (c : PartnerConfirm) : (s.matchConfirm p tag c).gatesOk := by
  have fault : ∀ {u : State}, u.gatesOk → ∀ why nonce, (u.enterFault p why tag nonce).gatesOk :=
    fun hu why nonce => hu.congr (by simp) (by simp) (by simp)
  have bound : ∀ pg r, (s.enterBound p tag pg r).gatesOk := by
    intro pg r
    have hb : (State.bind (bindReport p pg r)
        ((s.modPort p fun q => { q.goTo .bound with timer := none }).raiseLink p (s.ports.get p).state noFlags)).1.gatesOk := by
      refine State.gatesOk.bind ?_ _
      exact h.congr rfl rfl rfl
    unfold State.enterBound
    dsimp only
    split
    · rename_i u hu
      rw [hu] at hb
      exact State.gatesOk.congr hb (by simp) (by simp) (by simp)
    · rename_i u why hu
      rw [hu] at hb
      exact fault hb _ _
  unfold State.matchConfirm
  split
  · split
    · exact bound _ _
    · exact fault h _ _
  · exact fault h _ _
  · exact fault h _ _

/-! The ends of moves. -/

theorem State.gatesOk.endMove (i : Input) (o : MovedOutcome) : (s.endMove i o).gatesOk := by
  have h1 : ((s.modMove i fun m => { m with move := .idle }).raiseMoved i o).gatesOk := h.congr rfl rfl rfl
  exact (h1.startHeld i).congr (by simp [State.endMove]) (by simp [State.endMove]) (by simp [State.endMove])

theorem State.gatesOk.land (i : Input) (t : Setting) : (s.land i t).gatesOk := by
  have h1 : (s.modMove i fun m => { m with setting := t }).gatesOk := h.congr rfl rfl rfl
  refine State.gatesOk.endMove ?_ i _
  exact h1.updatePairs i fun q => Pair.sameGate_land _ _ _ q

theorem State.gatesOk.landIfDue (i : Input) : (s.landIfDue i).gatesOk := by
  unfold State.landIfDue
  split
  · exact h.land i _
  all_goals exact h

theorem State.gatesOk.landingBoundary (i : Input) : (s.landingBoundary i).gatesOk := by
  unfold State.landingBoundary
  split
  · exact h.land i _
  · exact h.congr rfl rfl rfl
  all_goals exact h

theorem State.gatesOk.moveTaken (i : Input) : (s.moveTaken i).gatesOk := by
  unfold State.moveTaken
  split <;> exact h.congr rfl rfl rfl

theorem State.gatesOk.moveNotTaken (i : Input) : (s.moveNotTaken i).gatesOk := by
  unfold State.moveNotTaken
  split
  · refine State.gatesOk.endMove ?_ i _
    exact h.congr rfl rfl rfl
  all_goals exact h

theorem State.gatesOk.faultMove (i : Input) : (s.faultMove i).gatesOk := by
  have h1 : (s.modMove i MoveCtl.abandon).gatesOk := h.congr rfl rfl rfl
  exact h1.updatePairs i fun q => Pair.sameGate_settleTrim _ _ _ q

theorem State.gatesOk.becomeKnown (i : Input) (t : Setting) : (s.becomeKnown i t).gatesOk := by
  have h1 : (s.modMove i fun m => { m with setting := t, failed := none, status := .known }).gatesOk :=
    h.congr rfl rfl rfl
  exact h1.updatePairs i fun q => Pair.sameGate_retarget _ _ q

theorem State.gatesOk.adopt (startUp : Bool) (i : Input) (w : Byte) : (s.adopt startUp i w).gatesOk := by
  have h1 := h.becomeKnown i (wordSetting w)
  refine State.gatesOk.modPhantom ?_ i fun _ => rfl
  split
  · exact h1.congr (by simp) (by simp) (by simp)
  · exact h1.congr (by simp) (by simp) (by simp)

/-! Chips. -/

theorem State.gatesOk.faultMoves (c : Chip) :
    ((chipInputs c).foldl (fun acc i => State.faultMove i acc) s).gatesOk :=
  foldl_inv _ State.gatesOk (fun _ i hs => hs.faultMove i) _ s h

theorem State.gatesOk.chipFault (c : Chip) : (s.chipFault c).gatesOk := by
  have h1 : (s.modBus (Bus.faultChip c)).gatesOk := h.congr rfl rfl rfl
  have h2 := foldl_inv (fun acc i => State.faultPhantom i acc) State.gatesOk (fun _ i hs => hs.faultPhantom i)
    (chipInputs c) _ (h1.faultMoves c)
  exact h2.congr (by simp only [State.chipFault, State.raiseChip_pairs])
    (by simp only [State.chipFault, State.raiseChip_rate]) (by simp only [State.chipFault, State.raiseChip_phantoms])

theorem State.gatesOk.adoptChip (startUp : Bool) (c : Chip) (ws : List Byte) : (s.adoptChip startUp c ws).gatesOk := by
  have h1 : (s.modBus fun b => { Bus.takeWords c ws b with chips := b.chips.set c .ok, probe := [] }).gatesOk :=
    h.congr rfl rfl rfl
  have h2 := foldl_inv (fun acc i => State.adopt startUp i (acc.bus.shadow.get i) acc) State.gatesOk
    (fun _ i hs => hs.adopt startUp i _) (chipInputs c) _ h1
  exact h2.congr (by simp only [State.adoptChip, State.raiseChip_pairs])
    (by simp only [State.adoptChip, State.raiseChip_rate]) (by simp only [State.adoptChip, State.raiseChip_phantoms])

theorem State.gatesOk.writeTaken (c : Command) (w : Byte) : (s.writeTaken c w).gatesOk := by
  have h1 : (s.modBus fun b => { b with shadow := b.shadow.set c.input w }).gatesOk := h.congr rfl rfl rfl
  cases c with
  | gain i pad p => exact h1.moveTaken i
  | phantom i on => exact h1.phantomTaken i

theorem State.gatesOk.writeReplied (c : Command) (o n : Byte) (reply : Option Byte) :
    (s.writeReplied c o n reply).gatesOk := by
  unfold State.writeReplied
  split
  · exact h.writeTaken c n
  · exact h.congr rfl rfl rfl

theorem State.gatesOk.verified (c : Command) (o n : Byte) (w : Option Byte) : (s.verified c o n w).gatesOk := by
  unfold State.verified
  split
  · exact h.writeTaken c n
  · split
    · cases c with
      | gain i pad p => exact h.moveNotTaken i
      | phantom i on => exact h.phantomNotTaken i
    · exact h.chipFault _

theorem State.gatesOk.statusEnded (i : Input) (v : Option Byte) : (s.statusEnded i v).gatesOk := by
  have h1 : (s.modBus fun b => { b with pollPos := nextInput i }).gatesOk := h.congr rfl rfl rfl
  have latched : ∀ {u : State}, u.gatesOk → (u.faultLatched i).gatesOk := fun {u} hu => by
    refine State.gatesOk.phantomFault ?_ i
    exact hu.congr rfl rfl rfl
  unfold State.statusEnded
  cases v with
  | none => exact h1.chipFault _
  | some x =>
    dsimp only
    have h2 : (if statusClip x then (s.modBus fun b => { b with pollPos := nextInput i }).clipLatched i
        else s.modBus fun b => { b with pollPos := nextInput i }).gatesOk := by
      split
      · exact h1.congr (by simp) (by simp) (by simp)
      · exact h1
    split
    · exact latched h2
    · exact h2

theorem State.gatesOk.adoptionEnded (c : Chip) (k : Channel) (w : Option Byte) : (s.adoptionEnded c k w).gatesOk := by
  unfold State.adoptionEnded
  cases w with
  | none => exact h.congr rfl rfl rfl
  | some x =>
    dsimp only
    split
    · exact h.adoptChip false c _
    · exact h.congr rfl rfl rfl

theorem State.gatesOk.beginNext : s.beginNext.gatesOk := h.congr rfl rfl rfl

theorem State.gatesOk.nextChip (c : Chip) : (s.nextChip c).gatesOk := h.congr (by simp) (by simp) (by simp)

theorem State.gatesOk.passFailsChip (c : Chip) : (s.passFailsChip c).gatesOk := h.congr (by simp) (by simp) (by simp)

theorem State.gatesOk.startIdentityEnded (c : Chip) (v : Option Byte) : (s.startIdentityEnded c v).gatesOk :=
  h.congr (by simp) (by simp) (by simp)

theorem State.gatesOk.startWriteTaken (c : Chip) (k : Channel) : (s.startWriteTaken c k).gatesOk := by
  have h1 : (s.modBus fun b => { b with shadow := b.shadow.set (inputAt c k) 0#8 }).gatesOk := h.congr rfl rfl rfl
  have h2 := (h1.becomeKnown (inputAt c k) (wordSetting 0#8)).modPhantom (inputAt c k)
    (f := fun q => { q with phantom := .off }) fun _ => rfl
  unfold State.startWriteTaken
  dsimp only
  split
  · exact h2.congr rfl rfl rfl
  · refine State.gatesOk.nextChip ?_ c
    exact h2.congr rfl rfl rfl

theorem State.gatesOk.startVerified (c : Chip) (k : Channel) (w : Option Byte) : (s.startVerified c k w).gatesOk := by
  unfold State.startVerified
  split
  · exact h.startWriteTaken c k
  · exact (h.faultMoves c).passFailsChip c

theorem State.gatesOk.startAdoptionEnded (c : Chip) (k : Channel) (w : Option Byte) :
    (s.startAdoptionEnded c k w).gatesOk := by
  unfold State.startAdoptionEnded
  cases w with
  | none => exact h.passFailsChip c
  | some x =>
    dsimp only
    split
    · exact h.congr rfl rfl rfl
    · exact (h.adoptChip true c _).nextChip c

/-! The sample period, the box rate, power-on and restart. -/

theorem State.gatesOk.rampPairs : s.rampPairs.gatesOk := by
  refine h.of_same rfl (fun _ => rfl) fun who i q' hq' => ?_
  have : (s.pairs.get who i).map (Pair.rampAdvance s.rate (s.moves.get i).status (s.analog i)) = some q' := by
    rw [← hq']
    exact (PairStore.get_mapAll s.pairs i
      (fun i q => q.rampAdvance s.rate (s.moves.get i).status (s.analog i)) who).symm
  obtain ⟨q, hq, rfl⟩ := Option.map_eq_some_iff.mp this
  exact ⟨q, hq, Pair.sameGate_rampAdvance _ _ _ q⟩

theorem State.gatesOk.stepGates : s.stepGates.gatesOk := by
  intro who i q' hq'
  simp only [State.pair?, State.stepGates, PairStore.get_mapAll] at hq'
  obtain ⟨q, hq, rfl⟩ := Option.map_eq_some_iff.mp hq'
  exact Pair.gateFits.gateStep (h who i q hq)

theorem State.gatesOk.formFrames (x : Tab 48 Sample) : (s.formFrames x).gatesOk := by
  refine h.of_same rfl (fun _ => rfl) fun who i q' hq' => ?_
  cases who with
  | panel => exact ⟨q', hq', .refl q'⟩
  | consumer k =>
    simp only [State.pair?, State.formFrames, PairStore.get, State.countClips, Tab.get_imap, Option.map_map] at hq' ⊢
    obtain ⟨t, ht, rfl⟩ := Option.map_eq_some_iff.mp hq'
    refine ⟨t.get i, by rw [ht]; rfl, ?_⟩
    simp only [Function.comp_apply, Tab.get_imap]
    split
    · exact Pair.sameGate_countClip _ _ _
    · exact .refl _

theorem State.gatesOk.samplePeriod (x : Tab 48 Sample) : (s.samplePeriod x).gatesOk := by
  have h0 : s.tick.gatesOk := h.congr rfl rfl rfl
  have h1 : s.tick.landings.gatesOk :=
    foldl_inv (fun acc i => State.landingBoundary i acc) State.gatesOk (fun _ i hs => hs.landingBoundary i) allInputs _ h0
  have h2 : s.tick.landings.takeMaps.gatesOk := h1.congr (by simp) (by simp) (by simp)
  have h3 := h2.rampPairs.stepGates.formFrames x
  unfold State.samplePeriod State.endFades
  exact foldl_inv (fun acc i => State.endFadeIn i (State.endFadeOut i acc)) State.gatesOk
    (fun _ i hs => (hs.endFadeOut i).endFadeIn i) allInputs _ h3

theorem State.gatesOk.rampStep (who : Party) (i : Input) : (s.rampStep who i).gatesOk := by
  unfold State.rampStep
  split
  · exact h
  · split
    · exact h.updatePair who i fun q => ⟨rfl, rfl, rfl⟩
    · exact h

theorem State.gatesOk.changeRate (r : BoxRate) : (s.changeRate r).gatesOk := by
  have h1 : ({ s with rate := r }.restPairs).gatesOk := by
    intro who i q' hq'
    have : (s.pairs.get who i).map (Pair.rest r.fade (s.moves.get i).status (s.analog i)) = some q' := by
      rw [← hq']
      exact (PairStore.get_mapAll s.pairs i
        (fun i q => Pair.rest r.fade (s.moves.get i).status (s.analog i) q) who).symm
    obtain ⟨q, hq, rfl⟩ := Option.map_eq_some_iff.mp this
    exact Pair.rest_fits (h who i q hq)
  exact h1.congr (by simp [State.changeRate]) (by simp [State.changeRate]) (by simp [State.changeRate])

end

theorem State.blocksReset_gatesOk (b : Bus) (s : State) : (s.blocksReset b).gatesOk := by
  intro who i q hq
  cases who with
  | panel =>
    simp only [State.pair?, State.blocksReset, State.reset, PairStore.atPowerOn, PairStore.get, Tab.get_const,
      Option.some.injEq] at hq
    subst hq
    refine ⟨rfl, ?_, ?_⟩ <;> simp [State.blocksReset, State.reset, Pair.gateFollows, Pair.atPowerOn,
      PhantomCtl.atPowerOn, requiredClosed]
  | consumer k => simp [State.pair?, State.blocksReset, State.reset, PairStore.atPowerOn, PairStore.get] at hq

theorem State.restartNow_gatesOk (s : State) : s.restartNow.gatesOk := by
  unfold State.restartNow
  split
  · exact State.gatesOk.congr (State.blocksReset_gatesOk { Bus.atPowerOn with adopting := true } s) rfl rfl rfl
  · exact State.blocksReset_gatesOk _ s

/-! ## Every step -/

theorem gatesOk_blind : BlindToLanes State.gatesOk :=
  ⟨fun _ _ _ h => h.congr rfl rfl rfl, fun _ _ h => h.congr rfl rfl rfl, fun _ _ h => h.congr rfl rfl rfl⟩

theorem gatesOk_records (l : LaneId) : KeptByRecords l State.gatesOk State.gatesOk where
  stays _ h := h.1
  reply _ _ _ _ _ h _ := h.1.congr rfl rfl rfl
  consumer _ _ _ h := h.1.congr rfl rfl rfl
  level _ _ _ _ h := h.setLevel _ _ _
  mute _ _ _ _ h := h.setMute _ _ _
  map _ _ _ h := h.congr rfl rfl rfl
  take _ _ _ h _ _ := h.congr (by simp) (by simp) (by simp)
  wait _ _ _ h _ _ _ _ := h.congr rfl rfl rfl
  release _ _ h := h.congr (by simp) (by simp) (by simp)
  leave _ _ _ h := h.congr rfl rfl rfl
  pad _ _ _ h := h.congr (by simp) (by simp) (by simp)
  phantom _ _ _ h := h.phantomRequest _ _
  clearSat who i _ h := (h.updatePair who i (f := fun q => { q with sat := 0 }) fun _ => ⟨rfl, rfl, rfl⟩).congr rfl rfl rfl
  clearSets _ _ _ h := h.congr rfl rfl rfl
  clearCounters _ _ _ h := h.congr rfl rfl rfl
  lock _ _ _ h := h.congr rfl rfl rfl
  force _ _ h := h.congr (by simp) (by simp) (by simp)
  rate _ _ h := h.changeRate _
  align _ _ h := h.congr rfl rfl rfl
  resetHold _ _ h := h.congr (by simp) (by simp) (by simp)
  resetFlush _ _ h := h.congr rfl rfl rfl
  restart _ _ h := h.congr rfl rfl rfl
  ignore _ h := h.congr rfl rfl rfl
  reoffer _ _ _ _ _ _ h _ _ := h.congr (by simp) (by simp) (by simp)
  resolveOffer _ _ _ _ _ _ h _ _ := h.congr (by simp) (by simp) (by simp)
  matchConfirm _ _ _ _ _ h _ := h.matchConfirm _ _ _

theorem gatesOk_bus : KeptByBus State.gatesOk where
  write c o n reply _ h _ := (h.writeReplied c o n reply).beginNext
  verify c o n w _ h _ := (h.verified c o n w).beginNext
  status i v _ h := (h.statusEnded i v).beginNext
  identity _ _ _ h := h.congr (by simp) (by simp) (by simp)
  adoption c k w _ h _ := (h.adoptionEnded c k w).beginNext
  startIdentity c v _ h := h.startIdentityEnded c v
  startWrite c k _ h := h.startWriteTaken c k
  startTimeout _ _ _ h := h.congr rfl rfl rfl
  startVerify c k w _ h := h.startVerified c k w
  startAdoption c k w _ h _ := h.startAdoptionEnded c k w
  discard _ h := h.congr rfl rfl rfl

theorem gatesOk_step : KeptByStep State.gatesOk where
  pending _ _ h := h.congr rfl rfl rfl
  powerOn s _ := (State.blocksReset_gatesOk Bus.atPowerOn s).congr rfl rfl rfl
  restart s _ := s.restartNow_gatesOk
  samplePeriod x _ h := h.samplePeriod x
  rampStep who i _ h := h.rampStep who i
  landing i _ h := h.landIfDue i
  fadeOutEnd i _ h := h.endFadeOut i
  fadeInEnd i _ h := h.endFadeIn i
  settle i _ h := h.settleExpired i
  keep k _ h := h.keepExpired k
  carrierArrival _ _ h := h.congr (by simp) (by simp) (by simp)
  carrierLoss _ _ h := h.congr (by simp) (by simp) (by simp)
  character l v parity stop start _ h := gatesOk_blind.character gatesOk_records h
    (fun _ _ h => h.congr (by simp) (by simp) (by simp)) l v parity stop start
  break_ _ _ h := h.congr (by simp) (by simp) (by simp)
  byte l _ h := gatesOk_blind.byteSent gatesOk_records h (fun s _ => s.restartNow_gatesOk) l
  breakEnd _ _ h := h.congr rfl rfl rfl
  hold _ _ h := h.congr (by simp) (by simp) (by simp)
  offerWait _ _ h := h.congr (by simp) (by simp) (by simp)
  confirmWait _ _ h := h.congr (by simp) (by simp) (by simp)
  inhibit _ _ h := h.congr (by simp) (by simp) (by simp)
  record l kind tag fields _ h := gatesOk_blind.deliver gatesOk_records h l kind tag fields
  bus := gatesOk_bus

/-- Settles O57: a gate is turned wherever its requirement changes, and WRITING is entered only with every gate shut. -/
theorem everyStepKeepsGates : Obligations.EveryStepKeepsGates := fun _ _ hs ht => gatesOk_step.step hs ht

end Sys2Proof.Machine
end

section
/-! PROOF. Which entries hold pairs, after each operation: only an erasure, a new consumer and power-on change it (R31). -/

namespace Sys2Proof.Machine

/-- A consumer entry holds pairs. -/
def State.seated (s : State) (k : Seat) : Bool := (s.pairs.seats.get k).isSome

theorem State.seated_congr {s t : State} (h : t.pairs = s.pairs) (k : Seat) : t.seated k = s.seated k := by
  unfold State.seated
  rw [h]

section
variable (k : Seat) (i : Input) (s : State)

@[simp] theorem State.seated_updatePair (who : Party) (f : Pair → Pair) : (s.updatePair who i f).seated k = s.seated k := by
  cases who with
  | panel => rfl
  | consumer k' =>
    simp only [State.seated, State.updatePair, PairStore.modify, Tab.get_modify]
    split <;> simp

@[simp] theorem State.seated_updatePairs (f : Pair → Pair) : (s.updatePairs i f).seated k = s.seated k := by
  simp [State.seated, State.updatePairs, PairStore.mapInput]

@[simp] theorem State.seated_updateAllPairs (f : Input → Pair → Pair) : (s.updateAllPairs f).seated k = s.seated k := by
  simp [State.seated, State.updateAllPairs, PairStore.mapAll]

@[simp] theorem State.seated_turnGates : (s.turnGates i).seated k = s.seated k := by
  simp [State.seated, State.turnGates, PairStore.mapInput]

@[simp] theorem State.seated_modPhantom (f : PhantomCtl → PhantomCtl) : (s.modPhantom i f).seated k = s.seated k := rfl

@[simp] theorem State.seated_modMove (f : MoveCtl → MoveCtl) : (s.modMove i f).seated k = s.seated k := rfl

@[simp] theorem State.seated_modBus (f : Bus → Bus) : (s.modBus f).seated k = s.seated k := rfl

@[simp] theorem State.seated_raiseMoved (o : MovedOutcome) : (s.raiseMoved i o).seated k = s.seated k := rfl

@[simp] theorem State.seated_raisePhantom (o : PhantomOutcome) : (s.raisePhantom i o).seated k = s.seated k := rfl

@[simp] theorem State.seated_raiseChip (c : Chip) : (s.raiseChip c).seated k = s.seated k := rfl

@[simp] theorem State.seated_dealPending : (s.dealPending i).seated k = s.seated k := State.seated_congr (by simp) k

@[simp] theorem State.seated_startSequence (on : Bool) : (s.startSequence i on).seated k = s.seated k :=
  State.seated_turnGates k i _

@[simp] theorem State.seated_enterFadeIn : (s.enterFadeIn i).seated k = s.seated k := State.seated_turnGates k i _

@[simp] theorem State.seated_settleExpired : (s.settleExpired i).seated k = s.seated k := by
  unfold State.settleExpired
  split
  · split
    · rfl
    · simp
  · rfl

@[simp] theorem State.seated_phantomNotTaken : (s.phantomNotTaken i).seated k = s.seated k := by
  unfold State.phantomNotTaken
  split <;> simp

@[simp] theorem State.seated_phantomTaken : (s.phantomTaken i).seated k = s.seated k :=
  State.seated_congr (by simp) k

@[simp] theorem State.seated_phantomRequest (on : Bool) : (s.phantomRequest i on).seated k = s.seated k := by
  unfold State.phantomRequest
  split
  · split_ifs <;> simp
  · unfold State.phantomInFadeOut
    split_ifs <;> simp
  · simp [State.phantomReversal]
  · simp [State.phantomReversal]
  · split_ifs <;> simp

@[simp] theorem State.seated_startHeld : (s.startHeld i).seated k = s.seated k := by
  unfold State.startHeld
  split <;> simp

@[simp] theorem State.seated_faultPhantom : (s.faultPhantom i).seated k = s.seated k := by
  unfold State.faultPhantom State.dropHeld State.failSequence
  split
  · split <;> simp
  all_goals simp

@[simp] theorem State.seated_phantomFault : (s.phantomFault i).seated k = s.seated k := by
  unfold State.phantomFault State.faultDuringSettle
  split_ifs <;> simp

@[simp] theorem State.seated_endMove (o : MovedOutcome) : (s.endMove i o).seated k = s.seated k := by
  simp [State.endMove]

@[simp] theorem State.seated_land (t : Setting) : (s.land i t).seated k = s.seated k := by simp [State.land]

@[simp] theorem State.seated_landIfDue : (s.landIfDue i).seated k = s.seated k := by
  unfold State.landIfDue
  split <;> simp

@[simp] theorem State.seated_landingBoundary : (s.landingBoundary i).seated k = s.seated k := by
  unfold State.landingBoundary
  split <;> simp

@[simp] theorem State.seated_moveTaken : (s.moveTaken i).seated k = s.seated k := State.seated_congr (by simp) k

@[simp] theorem State.seated_moveNotTaken : (s.moveNotTaken i).seated k = s.seated k := by
  unfold State.moveNotTaken
  split <;> simp

@[simp] theorem State.seated_faultMove : (s.faultMove i).seated k = s.seated k := by simp [State.faultMove]

@[simp] theorem State.seated_becomeKnown (t : Setting) : (s.becomeKnown i t).seated k = s.seated k := by
  simp [State.becomeKnown]

@[simp] theorem State.seated_arbiterAdopts : (s.arbiterAdopts i).seated k = s.seated k := State.seated_congr (by simp) k

@[simp] theorem State.seated_adopt (startUp : Bool) (w : Byte) : (s.adopt startUp i w).seated k = s.seated k := by
  unfold State.adopt
  dsimp only
  split <;> simp

@[simp] theorem State.seated_setLevel (who : Party) (level : Option Int) : (s.setLevel who i level).seated k = s.seated k := by
  unfold State.setLevel
  dsimp only
  split
  · rw [State.seated_congr (State.handOwnerTarget_pairs i _), State.seated_updatePair]
  · simp

@[simp] theorem State.seated_setMute (who : Party) (on : Bool) : (s.setMute who i on).seated k = s.seated k :=
  State.seated_updatePair k i s who _

@[simp] theorem State.seated_changeOwner (who : Option Party) : (s.changeOwner i who).seated k = s.seated k :=
  State.seated_congr (by simp) k

@[simp] theorem State.seated_handOn (k' : Seat) : (s.handOn k' i).seated k = s.seated k := by
  unfold State.handOn State.passToPanel State.passOn
  split_ifs <;> simp

/-! Chips. -/

/-- A fold whose every turn leaves the entries' pairs there leaves them there. -/
theorem State.seated_foldl {α : Type} {f : State → α → State} (h : ∀ s a, (f s a).seated k = s.seated k) (l : List α) :
    (l.foldl f s).seated k = s.seated k := foldl_keeps f (fun s => s.seated k) h l s

@[simp] theorem State.seated_chipFault (c : Chip) : (s.chipFault c).seated k = s.seated k := by
  unfold State.chipFault
  dsimp only
  rw [State.seated_raiseChip, State.seated_foldl k _ (fun s i => State.seated_faultPhantom k i s),
    State.seated_foldl k _ (fun s i => State.seated_faultMove k i s), State.seated_modBus]

@[simp] theorem State.seated_adoptChip (startUp : Bool) (c : Chip) (ws : List Byte) :
    (s.adoptChip startUp c ws).seated k = s.seated k := by
  unfold State.adoptChip
  dsimp only
  rw [State.seated_raiseChip, State.seated_foldl k _ (fun s i => State.seated_adopt k i s startUp _), State.seated_modBus]

@[simp] theorem State.seated_writeTaken (c : Command) (w : Byte) : (s.writeTaken c w).seated k = s.seated k := by
  cases c <;> simp [State.writeTaken]

@[simp] theorem State.seated_writeNotTaken (c : Command) : (s.writeNotTaken c).seated k = s.seated k := by
  cases c <;> simp [State.writeNotTaken]

@[simp] theorem State.seated_writeReplied (c : Command) (o n : Byte) (r : Option Byte) :
    (s.writeReplied c o n r).seated k = s.seated k := by
  unfold State.writeReplied
  split <;> simp

@[simp] theorem State.seated_verified (c : Command) (o n : Byte) (w : Option Byte) :
    (s.verified c o n w).seated k = s.seated k := by
  unfold State.verified
  split_ifs <;> simp

@[simp] theorem State.seated_clipLatched : (s.clipLatched i).seated k = s.seated k := State.seated_congr (by simp) k

@[simp] theorem State.seated_statusEnded (v : Option Byte) : (s.statusEnded i v).seated k = s.seated k := by
  unfold State.statusEnded State.faultLatched
  cases v with
  | none => simp
  | some x =>
    dsimp only
    split_ifs <;> simp

@[simp] theorem State.seated_adoptionEnded (c : Chip) (ch : Channel) (w : Option Byte) :
    (s.adoptionEnded c ch w).seated k = s.seated k := by
  unfold State.adoptionEnded
  cases w with
  | none => rfl
  | some x =>
    dsimp only
    split <;> simp

@[simp] theorem State.seated_beginNext : s.beginNext.seated k = s.seated k := rfl

@[simp] theorem State.seated_nextChip (c : Chip) : (s.nextChip c).seated k = s.seated k := State.seated_congr (by simp) k

@[simp] theorem State.seated_passFailsChip (c : Chip) : (s.passFailsChip c).seated k = s.seated k :=
  State.seated_congr (by simp) k

@[simp] theorem State.seated_startWriteTaken (c : Chip) (ch : Channel) : (s.startWriteTaken c ch).seated k = s.seated k := by
  unfold State.startWriteTaken
  dsimp only
  split
  · exact State.seated_becomeKnown k _ _ _
  · rw [State.seated_nextChip, State.seated_raiseChip, State.seated_modBus, State.seated_modPhantom,
      State.seated_becomeKnown, State.seated_modBus]

@[simp] theorem State.seated_startVerified (c : Chip) (ch : Channel) (w : Option Byte) :
    (s.startVerified c ch w).seated k = s.seated k := by
  unfold State.startVerified
  split
  · simp
  · rw [State.seated_passFailsChip, State.seated_foldl k _ (fun s i => State.seated_faultMove k i s)]

@[simp] theorem State.seated_startAdoptionEnded (c : Chip) (ch : Channel) (w : Option Byte) :
    (s.startAdoptionEnded c ch w).seated k = s.seated k := by
  unfold State.startAdoptionEnded
  cases w with
  | none => simp
  | some x =>
    dsimp only
    split
    · rfl
    · simp

/-! The sample path. -/

@[simp] theorem State.seated_samplePeriod (x : Tab 48 Sample) : (s.samplePeriod x).seated k = s.seated k := by
  have hfade : ∀ (u : State) (i : Input), ((u.endFadeOut i).endFadeIn i).seated k = u.seated k := fun u i =>
    State.seated_congr (by simp) k
  unfold State.samplePeriod State.endFades
  rw [State.seated_foldl k _ hfade]
  calc _ = (s.tick.landings.takeMaps.rampPairs).seated k := by
        simp [State.seated, State.formFrames, State.countClips, State.stepGates, PairStore.mapAll]
    _ = s.tick.landings.takeMaps.seated k := State.seated_updateAllPairs k _ _
    _ = s.tick.landings.seated k := State.seated_congr (by simp) k
    _ = s.tick.seated k := State.seated_foldl k _ (fun s i => State.seated_landingBoundary k i s) _

@[simp] theorem State.seated_rampStep (who : Party) : (s.rampStep who i).seated k = s.seated k := by
  unfold State.rampStep
  split
  · rfl
  · split <;> simp

@[simp] theorem State.seated_changeRate (r : BoxRate) : (s.changeRate r).seated k = s.seated k := by
  calc _ = ({ s with rate := r }.restPairs).seated k := State.seated_congr (by simp [State.changeRate]) k
    _ = s.seated k := State.seated_updateAllPairs k _ _

end

end Sys2Proof.Machine
end

section
/-! PROOF. Every step keeps the consumer table and the port timers in order (R21, R22, R130). -/

namespace Sys2Proof.Machine

/-- The consumer table and the ports' timers are in order. -/
def State.linksOk (s : State) : Prop := s.tableOk ∧ s.timersOk

/-- No consumer holds the port. -/
def State.portFree (s : State) (p : Port) : Prop := ∀ k c, s.entries.get k = some c → p ∉ c.ports

/-- What `State.tableOk` asks of one consumer. -/
def Consumer.portsOk (ports : Tab 6 LinkPort) (c : Consumer) : Prop :=
  c.ports.length ≤ 2 ∧ c.ports.Nodup ∧ (c.presence.isKeeping = true ↔ c.ports = []) ∧
    ∀ p ∈ c.ports, (ports.get p).state = .bound

theorem State.tableOk.consumer {s : State} (h : s.tableOk) {k : Seat} {c : Consumer} (hk : s.entries.get k = some c) :
    c.portsOk s.ports := h.2.2.1 k c hk

/-! ## The table -/

theorem State.tableOk.congr {s t : State} (h : s.tableOk) (he : t.entries = s.entries)
    (hs : ∀ k, t.seated k = s.seated k) (hp : ∀ p, (t.ports.get p).state = (s.ports.get p).state) : t.tableOk := by
  obtain ⟨h1, h2, h3, h4⟩ := h
  refine ⟨fun k => ?_, ?_, ?_, ?_⟩
  · rw [he]
    exact (h1 k).trans (hs k).symm
  · rw [he]
    exact h2
  · rw [he]
    simp only [hp]
    exact h3
  · rw [he]
    exact h4

theorem State.timersOk.congr {s t : State} (h : s.timersOk)
    (hp : ∀ p, (t.ports.get p).state = (s.ports.get p).state ∧ (t.ports.get p).timer = (s.ports.get p).timer) :
    t.timersOk := by
  intro p k since
  rw [(hp p).1, (hp p).2]
  exact h p k since

theorem State.linksOk.congr {s t : State} (h : s.linksOk) (he : t.entries = s.entries)
    (hs : ∀ k, t.seated k = s.seated k) (hp : t.ports = s.ports) : t.linksOk :=
  ⟨h.1.congr he hs fun _ => by rw [hp], h.2.congr fun _ => by simp [hp]⟩

/-- An entry takes a consumer of an identity of its own, whose ports nobody else holds. -/
theorem State.tableOk.setEntry {s t : State} (h : s.tableOk) {k : Seat} {c : Consumer}
    (he : t.entries = s.entries.set k (some c)) (hs : ∀ k', t.seated k' = if k' = k then true else s.seated k')
    (hp : t.ports = s.ports) (hid : ∀ k' c', k' ≠ k → s.entries.get k' = some c' → c'.identity ≠ c.identity)
    (hc : c.portsOk s.ports) (hdis : ∀ k' c' p, k' ≠ k → s.entries.get k' = some c' → p ∈ c'.ports → p ∉ c.ports) :
    t.tableOk := by
  have at_k : t.entries.get k = some c := by rw [he, Tab.get_set_self]
  have off_k : ∀ k', k' ≠ k → t.entries.get k' = s.entries.get k' := fun k' hk => by rw [he, Tab.get_set_ne _ hk]
  obtain ⟨h1, h2, h3, h4⟩ := h
  refine ⟨fun k' => ?_, fun a b ca cb ha hb hab => ?_, fun a ca ha => ?_, fun a b ca cb p ha hb hpa hpb => ?_⟩
  · change _ = t.seated k'
    rw [hs]
    by_cases hk : k' = k
    · rw [hk, at_k]
      simp
    · rw [off_k k' hk, if_neg hk]
      exact h1 k'
  · by_cases hka : a = k <;> by_cases hkb : b = k
    · rw [hka, hkb]
    · rw [hka, at_k] at ha
      rw [off_k b hkb] at hb
      cases ha
      exact absurd hab.symm (hid b cb hkb hb)
    · rw [hkb, at_k] at hb
      rw [off_k a hka] at ha
      cases hb
      exact absurd hab (hid a ca hka ha)
    · rw [off_k a hka] at ha
      rw [off_k b hkb] at hb
      exact h2 a b ca cb ha hb hab
  · rw [hp]
    by_cases hka : a = k
    · rw [hka, at_k] at ha
      cases ha
      exact hc
    · rw [off_k a hka] at ha
      exact h3 a ca ha
  · by_cases hka : a = k <;> by_cases hkb : b = k
    · rw [hka, hkb]
    · rw [hka, at_k] at ha
      rw [off_k b hkb] at hb
      cases ha
      exact absurd hpa (hdis b cb p hkb hb hpb)
    · rw [hkb, at_k] at hb
      rw [off_k a hka] at ha
      cases hb
      exact absurd hpb (hdis a ca p hka ha hpa)
    · rw [off_k a hka] at ha
      rw [off_k b hkb] at hb
      exact h4 a b ca cb p ha hb hpa hpb

/-- An entry's consumer changes and keeps its identity; the ports it takes are free. -/
theorem State.tableOk.changeEntry {s t : State} (h : s.tableOk) {k : Seat} {c c' : Consumer}
    (hk : s.entries.get k = some c) (he : t.entries = s.entries.set k (some c')) (hs : ∀ k', t.seated k' = s.seated k')
    (hp : t.ports = s.ports) (hid : c'.identity = c.identity) (hc : c'.portsOk s.ports)
    (hdis : ∀ p ∈ c'.ports, p ∈ c.ports ∨ s.portFree p) : t.tableOk := by
  refine h.setEntry he (fun k' => ?_) hp (fun k' d hne hd hsame => ?_) hc fun k' d p hne hd hpd hpc => ?_
  · rw [hs]
    split
    · rename_i he
      rw [he]
      exact (h.1 k).symm.trans (by rw [hk]; rfl)
    · rfl
  · exact hne (h.2.1 k' k d c hd hk (hsame.trans hid))
  · rcases hdis p hpc with hin | hfree
    · exact hne (h.2.2.2 k' k d c p hd hk hpd hin)
    · exact hfree k' d hd hpd

/-- An entry is freed. -/
theorem State.tableOk.clearEntry {s t : State} (h : s.tableOk) {k : Seat} (he : t.entries = s.entries.set k none)
    (hs : ∀ k', t.seated k' = if k' = k then false else s.seated k') (hp : t.ports = s.ports) : t.tableOk := by
  have off_k : ∀ a c, t.entries.get a = some c → s.entries.get a = some c := fun a c ha => by
    rw [he, Tab.get_set] at ha
    split at ha
    · cases ha
    · exact ha
  obtain ⟨h1, h2, h3, h4⟩ := h
  refine ⟨fun k' => ?_, fun a b ca cb ha hb => h2 a b ca cb (off_k a ca ha) (off_k b cb hb), fun a ca ha => ?_,
    fun a b ca cb p ha hb => h4 a b ca cb p (off_k a ca ha) (off_k b cb hb)⟩
  · change _ = t.seated k'
    rw [hs, he, Tab.get_set]
    split
    · rfl
    · exact h1 k'
  · rw [hp]
    exact h3 a ca (off_k a ca ha)

/-- A port that is not BOUND belongs to nobody. -/
theorem State.tableOk.free {s : State} (h : s.tableOk) {p : Port} (hp : (s.ports.get p).state ≠ .bound) : s.portFree p :=
  fun _ _ hk hin => hp ((h.consumer hk).2.2.2 p hin)

theorem seatOf_none {e : Tab 6 (Option Consumer)} {p : Port} (h : seatOf e p = none) (k : Seat) (c : Consumer)
    (hc : e.get k = some c) : p ∉ c.ports := by
  have := List.find?_eq_none.mp h k (List.mem_finRange k)
  simpa [hc] using this

theorem State.portFree.congr {s t : State} {p : Port} (h : s.portFree p) (he : t.entries = s.entries) : t.portFree p := by
  unfold State.portFree
  rw [he]
  exact h

/-- A port that changes its state is nobody's. -/
theorem State.tableOk.modPort {s : State} (h : s.tableOk) {p : Port} {f : LinkPort → LinkPort}
    (hf : s.portFree p ∨ (f (s.ports.get p)).state = (s.ports.get p).state) : (s.modPort p f).tableOk := by
  obtain ⟨h1, h2, h3, h4⟩ := h
  refine ⟨h1, h2, fun k c hk => ?_, h4⟩
  obtain ⟨a1, a2, a3, a4⟩ := h3 k c hk
  refine ⟨a1, a2, a3, fun p' hp' => ?_⟩
  simp only [State.modPort, Tab.get_modify]
  split
  · rename_i hpp
    rcases hf with hf | hf
    · exact absurd (hpp ▸ hp') (hf k c hk)
    · rw [hpp, hf, ← hpp]
      exact a4 p' hp'
  · exact a4 p' hp'

theorem State.linksOk.modPort {s : State} (h : s.linksOk) {p : Port} {f : LinkPort → LinkPort}
    (hf : s.portFree p ∨ (f (s.ports.get p)).state = (s.ports.get p).state)
    (ht : ∀ k since, (f (s.ports.get p)).timer = some (k, since) → (f (s.ports.get p)).state = k.state) :
    (s.modPort p f).linksOk := by
  refine ⟨h.1.modPort hf, fun p' k since => ?_⟩
  simp only [State.modPort, Tab.get_modify]
  split
  · rename_i hpp
    rw [hpp]
    exact ht k since
  · exact h.2 p' k since

/-- A change of a port that touches neither its state nor its timer. -/
theorem State.linksOk.modPort_same {s : State} (h : s.linksOk) (p : Port) {f : LinkPort → LinkPort}
    (hst : ∀ q, (f q).state = q.state) (ht : ∀ q, (f q).timer = q.timer) : (s.modPort p f).linksOk :=
  h.modPort (.inr (hst _)) fun k since hk => by rw [hst]; exact h.2 p k since (ht _ ▸ hk)

/-! ## Unbinds -/

/-- An unbind takes the port from its consumer (R28). -/
theorem State.tableOk.unbind {s : State} (h : s.tableOk) (p : Port) (stamp : Nat) :
    (s.unbind p stamp).tableOk ∧ (s.unbind p stamp).portFree p := by
  cases hk : seatOf s.entries p with
  | none =>
    have hu : s.unbind p stamp = s := by simp [State.unbind, hk]
    rw [hu]
    exact ⟨h, seatOf_none hk⟩
  | some k =>
    obtain ⟨c, hc, hpc⟩ := seatOf_get _ _ _ hk
    obtain ⟨a1, a2, a3, a4⟩ := h.consumer hc
    have he : (s.unbind p stamp).entries = s.entries.set k (some (c.losePort p s.clock stamp)) := by
      simp [State.unbind, hk, hc]
    have hports : (c.losePort p s.clock stamp).ports = c.ports.filter (· != p) := rfl
    refine ⟨h.changeEntry hc he (fun _ => State.seated_congr (by simp) _) (by simp) rfl ?_ fun p' hp' => .inl ?_, ?_⟩
    · refine ⟨?_, a2.filter _, ?_, fun p' hp' => a4 p' (List.mem_filter.mp hp').1⟩
      · rw [hports]
        exact (List.length_filter_le _ _).trans a1
      · rw [hports]
        unfold Consumer.losePort
        dsimp only
        cases hl : c.ports.filter (· != p) with
        | nil => simp [Presence.isKeeping]
        | cons x xs =>
          simp only [List.isEmpty_cons, Bool.false_eq_true, if_false, a3, reduceCtorEq, iff_false]
          exact List.ne_nil_of_mem hpc
    · exact (List.mem_filter.mp hp').1
    · intro k' c' hk' hin
      rw [he, Tab.get_set] at hk'
      split at hk'
      · cases hk'
        simp [hports] at hin
      · rename_i hne
        exact hne (h.2.2.2 k' k c' c p hk' hc hin hpc)

theorem State.linksOk.leaveBound {s : State} (h : s.linksOk) (p : Port) (stamp : Nat) :
    (s.leaveBound p stamp).linksOk ∧ (s.leaveBound p stamp).portFree p := by
  obtain ⟨h1, h2⟩ := h.1.unbind p stamp
  exact ⟨⟨h1.congr rfl (fun _ => rfl) fun _ => rfl, h.2.congr fun _ => by simp⟩, h2.congr rfl⟩

/-- A port that has left BOUND, or was not there, is nobody's (R143). -/
theorem State.linksOk.leaveIfBound {s : State} (h : s.linksOk) (p : Port) (stamp : Nat) :
    (s.leaveIfBound p stamp).linksOk ∧ (s.leaveIfBound p stamp).portFree p := by
  unfold State.leaveIfBound
  split
  · exact h.leaveBound p stamp
  · rename_i hb
    exact ⟨h, h.1.free hb⟩

/-! ## Entries to a port state -/

section
variable {s : State} (h : s.linksOk)
include h

theorem State.linksOk.enterHold (p : Port) (flags : Tab 12 Bool) (stamp : Nat) : (s.enterHold p flags stamp).linksOk := by
  obtain ⟨h1, h2⟩ := h.leaveIfBound p stamp
  have h3 := h1.modPort (f := fun q => { q.discardAll.goTo .hold with timer := some (.hold, s.clock) }) (.inl h2)
    (by rintro k since ⟨⟩; rfl)
  exact h3.congr (by simp [State.enterHold]) (fun k => State.seated_congr (by simp) k) (by simp [State.enterHold, State.modPort])

theorem State.linksOk.enterDown (p : Port) (flags : Tab 12 Bool) (stamp : Nat) : (s.enterDown p flags stamp).linksOk := by
  obtain ⟨h1, h2⟩ := h.leaveIfBound p stamp
  have h3 := h1.modPort (f := fun q => q.discardAll.goTo .down) (.inl h2) (by rintro k since ⟨⟩)
  exact h3.congr (by simp [State.enterDown]) (fun k => State.seated_congr (by simp) k) (by simp [State.enterDown, State.modPort])

theorem State.linksOk.enterOffer {p : Port} (hfree : s.portFree p) : (s.enterOffer p).linksOk := by
  have h1 := h.modPort (f := fun q => { q.discardAll.goTo .offer with
      nonce := some (Config.freeNonce s.draws), timer := some (.offerWait, s.clock) }) (.inl hfree)
    (by rintro k since ⟨⟩; rfl)
  exact h1.congr rfl (fun _ => rfl) rfl

theorem State.linksOk.enterFault (p : Port) (why : Reason) (tag : Byte) (nonce : BitVec 32) :
    (s.enterFault p why tag nonce).linksOk := by
  have h0 : (s.send (.split p) (refuseBody tag why nonce)).linksOk := h.congr rfl (fun _ => rfl) rfl
  obtain ⟨h1, h2⟩ := h0.leaveIfBound p s.nextStamp
  have h3 := h1.modPort (f := fun q =>
    { (LinkPort.latch why.flag q).discardAll.goTo .fault with timer := some (.rebindInhibit, s.clock) }) (.inl h2)
    (by rintro k since ⟨⟩; rfl)
  exact h3.congr rfl (fun _ => rfl) rfl

theorem State.linksOk.resolveOffer {p : Port} (tag : Byte) (o : PartnerOffer) (hfree : s.portFree p) :
    (s.resolveOffer p tag o).linksOk := by
  unfold State.resolveOffer
  split
  · rename_i r _
    have h1 := h.modPort (f := fun q => { q.goTo .confirm with
        page := some (o.page r.role), resolved := some r, timer := some (.confirmWait, s.clock) }) (.inl hfree)
      (by rintro k since ⟨⟩; rfl)
    unfold State.acceptOffer
    dsimp only
    split
    · exact h1.congr rfl (fun _ => rfl) rfl
    · exact h1.congr rfl (fun _ => rfl) rfl
  · exact h.enterFault p _ tag _

theorem State.linksOk.reoffer (p : Port) (tag : Byte) (o : PartnerOffer) : (s.reoffer p tag o).linksOk := by
  obtain ⟨h1, h2⟩ := h.leaveBound p s.nextStamp
  exact (h1.enterOffer h2).resolveOffer tag o (h2.congr rfl)

/-- The hand-over of inputs leaves the table, and the erased entry is freed (R30). -/
theorem State.linksOk.erase (k : Seat) : (s.erase k).linksOk := by
  have hfold : ∀ {β : Type} (g : State → β), (∀ (u : State) i, g (u.handOn k i) = g u) →
      g (allInputs.foldl (fun acc i => acc.handOn k i) s) = g s := fun g hg => foldl_keeps _ g hg allInputs s
  have he : (s.erase k).entries = s.entries.set k none := by
    unfold State.erase
    dsimp only
    rw [hfold State.entries fun u i => by simp]
  have hp : (s.erase k).ports = s.ports := by simp
  refine ⟨h.1.clearEntry he (fun k' => ?_) hp, h.2.congr fun _ => by simp⟩
  unfold State.erase State.seated
  dsimp only
  rw [Tab.get_set]
  split
  · rfl
  · exact hfold (fun u => u.seated k') fun u i => State.seated_handOn k' i u k

omit h in
theorem seatNamed_get {e : Tab 6 (Option Consumer)} {id : BitVec 32} {k : Seat} (h : seatNamed e id = some k) :
    ∃ c, e.get k = some c ∧ c.identity = id := by
  have := List.find?_some h
  split at this
  · rename_i c hc
    exact ⟨c, hc, by simpa using this⟩
  · cases this

omit h in
theorem seatNamed_none {e : Tab 6 (Option Consumer)} {id : BitVec 32} (h : seatNamed e id = none) (k : Seat)
    (c : Consumer) (hc : e.get k = some c) : c.identity ≠ id := by
  have := List.find?_eq_none.mp h k (List.mem_finRange k)
  simpa [hc] using this

/-- A new consumer in an entry: its identity is nobody else's, and its port is BOUND and nobody's (R23). -/
theorem State.linksOk.createConsumer (k : Seat) (r : BindReport) (hb : (s.ports.get r.port).state = .bound)
    (hfree : s.portFree r.port) (hid : ∀ k' c, k' ≠ k → s.entries.get k' = some c → c.identity ≠ r.identity) :
    (s.createConsumer k r).linksOk := by
  refine ⟨h.1.setEntry rfl (fun k' => ?_) rfl hid ?_ fun k' c p _ hc hp hin => ?_, h.2.congr fun _ => ⟨rfl, rfl⟩⟩
  · unfold State.createConsumer State.seated
    dsimp only
    rw [Tab.get_set]
    split <;> rfl
  · refine ⟨by simp, by simp, by simp [Presence.isKeeping], fun p hp => ?_⟩
    rw [List.mem_singleton.mp hp]
    exact hb
  · rw [List.mem_singleton.mp hin] at hp
    exact hfree k' c hc hp

theorem State.linksOk.bind (r : BindReport) (hb : (s.ports.get r.port).state = .bound) (hfree : s.portFree r.port) :
    (s.bind r).1.linksOk := by
  have replace : ∀ k, (∀ k' c, k' ≠ k → s.entries.get k' = some c → c.identity ≠ r.identity) →
      ((s.erase k).createConsumer k r).linksOk := by
    intro k hid
    have he : ∀ k' c, (s.erase k).entries.get k' = some c → k' ≠ k ∧ s.entries.get k' = some c := by
      intro k' c hc
      have : (s.erase k).entries = s.entries.set k none := by
        unfold State.erase
        dsimp only
        rw [foldl_keeps _ State.entries (fun u i => State.handOn_entries k i u)]
      rw [this, Tab.get_set] at hc
      split at hc
      · cases hc
      · exact ⟨‹_›, hc⟩
    refine (h.erase k).createConsumer k r (by simpa using hb) (fun k' c hc => hfree k' c (he k' c hc).2)
      fun k' c hne hc => hid k' c hne (he k' c hc).2
  unfold State.bind
  split
  · rename_i hnone
    have hid : ∀ k k' c, k' ≠ k → s.entries.get k' = some c → c.identity ≠ r.identity := fun _ k' c _ hc =>
      seatNamed_none hnone k' c hc
    split
    · exact h.createConsumer _ r hb hfree (hid _)
    · split
      · exact replace _ (hid _)
      · exact h
  · rename_i k hk
    obtain ⟨c0, hc0, hid0⟩ := seatNamed_get hk
    split
    · exact h
    · rename_i c hc
      obtain ⟨a1, a2, a3, a4⟩ := h.1.consumer hc
      split
      · split
        · have he : (s.rebind k r).entries = s.entries.set k (some { c with
              presence := .present, ports := [r.port], name := r.name, format := r.format, slots := r.slots }) := by
            simp [State.rebind, Tab.modify, hc]
          refine ⟨h.1.changeEntry hc he (fun _ => rfl) rfl rfl ⟨by simp, by simp, by simp [Presence.isKeeping], ?_⟩ ?_,
            h.2.congr fun _ => ⟨rfl, rfl⟩⟩
          · intro p hp
            rw [List.mem_singleton.mp hp]
            exact hb
          · intro p hp
            rw [List.mem_singleton.mp hp]
            exact .inr hfree
        · refine replace k fun k' c' hne hc' hsame => hne (h.1.2.1 k' k c' c0 hc' hc0 (hsame.trans hid0.symm))
      · rename_i hkeep
        split
        · rename_i ht
          obtain ⟨first, hports⟩ : ∃ first, c.ports = [first] := by
            unfold State.twinTest at ht
            split at ht
            · exact ⟨_, ‹_›⟩
            · cases ht
            · cases ht
          have he : (s.joinTwin k r).entries = s.entries.set k (some { c with
              ports := c.ports ++ [r.port], name := r.name }) := by
            simp [State.joinTwin, Tab.modify, hc]
          have hne : first ≠ r.port := fun heq => hfree k c hc (by simp [hports, heq])
          refine ⟨h.1.changeEntry hc he (fun _ => rfl) rfl rfl ⟨?_, ?_, ?_, ?_⟩ ?_, h.2.congr fun _ => ⟨rfl, rfl⟩⟩
          · simp [hports]
          · simp [hports, hne]
          · simpa [hports] using hkeep
          · intro p hp
            rcases List.mem_append.mp hp with hp | hp
            · exact a4 p hp
            · rw [List.mem_singleton.mp hp]
              exact hb
          · intro p hp
            rcases List.mem_append.mp hp with hp | hp
            · exact .inl hp
            · rw [List.mem_singleton.mp hp]
              exact .inr hfree
        · exact h

/-- The state in which a port has entered BOUND and is about to report its bind (R138). -/
theorem State.linksOk.bound {p : Port} (hst : (s.ports.get p).state = .confirm) :
    ((s.modPort p fun q => { q.goTo .bound with timer := none }).raiseLink p (s.ports.get p).state noFlags).linksOk ∧
    (((s.modPort p fun q => { q.goTo .bound with timer := none }).raiseLink p (s.ports.get p).state noFlags).ports.get
      p).state = .bound ∧
    ((s.modPort p fun q => { q.goTo .bound with timer := none }).raiseLink p (s.ports.get p).state noFlags).portFree p := by
  have hfree : s.portFree p := h.1.free (by rw [hst]; nofun)
  refine ⟨?_, by simp [State.modPort, LinkPort.goTo], hfree.congr rfl⟩
  have h1 := h.modPort (f := fun q => { q.goTo .bound with timer := none }) (.inl hfree) (by rintro k since ⟨⟩)
  exact h1.congr rfl (fun _ => rfl) rfl

theorem State.linksOk.matchConfirm (p : Port) (tag : Byte) (c : PartnerConfirm)
    (hst : (s.ports.get p).state = .confirm) : (s.matchConfirm p tag c).linksOk := by
  have bound : ∀ pg r, (s.enterBound p tag pg r).linksOk := by
    intro pg r
    obtain ⟨h1, hb, hfree⟩ := h.bound hst
    have h2 := h1.bind (bindReport p pg r) hb hfree
    unfold State.enterBound
    dsimp only
    split
    · rename_i u hu
      rw [hu] at h2
      exact State.linksOk.congr h2 (by simp) (fun k => State.seated_congr (by simp) k) (by simp)
    · rename_i u why hu
      rw [hu] at h2
      exact State.linksOk.enterFault h2 p why tag _
  unfold State.matchConfirm
  split
  · split
    · exact bound _ _
    · exact h.enterFault p _ tag _
  · exact h.enterFault p _ tag _
  · exact h.enterFault p _ tag _

/-! ## Events of the links -/

theorem State.linksOk.keepExpired (k : Seat) : (s.keepExpired k).linksOk := by
  unfold State.keepExpired
  split
  · exact h
  · exact h.erase k

theorem State.linksOk.latch (p : Port) (f : LinkFlag) : (s.modPort p (LinkPort.latch f)).linksOk :=
  h.modPort_same p (fun _ => rfl) fun _ => rfl

theorem State.linksOk.breakReported (p : Port) : (s.breakReported p).linksOk := by
  unfold State.breakReported
  split
  · exact h
  · exact h.latch p _
  all_goals exact (h.latch p _).enterHold p _ _

theorem State.linksOk.breakOn (l : LaneId) : (s.breakOn l).linksOk := by
  cases l with
  | panel => exact h
  | split p =>
    refine State.linksOk.breakReported ?_ p
    exact h.congr rfl (fun _ => rfl) rfl

theorem State.linksOk.carrierArrives (p : Port) : (s.carrierArrives p).linksOk := by
  have h1 := h.modPort_same p (f := fun q => { q with carrier := true }) (fun _ => rfl) fun _ => rfl
  unfold State.carrierArrives
  dsimp only
  split
  · rename_i hd
    exact h1.enterOffer ((h.1.free (by rw [hd.1]; nofun)).congr rfl)
  · exact h1

theorem State.linksOk.carrierLost (p : Port) : (s.carrierLost p).linksOk := by
  have h1 := h.modPort_same p (f := fun q => { q with carrier := false }) (fun _ => rfl) fun _ => rfl
  unfold State.carrierLost
  dsimp only
  split
  · exact h1
  · exact (h1.latch p _).enterDown p _ _

omit h in
theorem LinkPort.timer_of_runs {q : LinkPort} {k : TimerKind} (hr : q.runs k = true) :
    ∃ since, q.timer = some (k, since) := by
  unfold LinkPort.runs at hr
  split at hr
  · cases hr
  · rename_i k' since ht
    obtain rfl := of_decide_eq_true hr
    exact ⟨since, ht⟩

theorem State.linksOk.state_of_runs {p : Port} {k : TimerKind} (hr : (s.ports.get p).runs k = true) :
    (s.ports.get p).state = k.state := by
  obtain ⟨since, ht⟩ := LinkPort.timer_of_runs hr
  exact h.2 p k since ht

theorem State.linksOk.holdExpired (p : Port) : (s.holdExpired p).linksOk := by
  unfold State.holdExpired
  split
  · rename_i hr
    split
    · exact h.enterOffer (h.1.free (by rw [h.state_of_runs hr]; nofun))
    · exact h.enterDown p _ _
  · exact h

theorem State.linksOk.offerWaitExpired (p : Port) : (s.offerWaitExpired p).linksOk := by
  unfold State.offerWaitExpired
  split
  · exact (h.latch p _).enterHold p _ _
  · exact h

theorem State.linksOk.confirmWaitExpired (p : Port) : (s.confirmWaitExpired p).linksOk := by
  unfold State.confirmWaitExpired
  split
  · exact (h.latch p _).enterHold p _ _
  · exact h

theorem State.linksOk.inhibitExpired (p : Port) : (s.inhibitExpired p).linksOk := by
  unfold State.inhibitExpired
  split
  · exact h.enterHold p _ _
  · exact h

theorem State.linksOk.readyPorts : s.readyPorts.linksOk := by
  refine foldl_inv _ State.linksOk (fun u p hu => ?_) allPorts s h
  split
  · rename_i hd
    exact hu.enterOffer (hu.1.free (by rw [hd.2]; nofun))
  · exact hu

theorem State.linksOk.changeRate (r : BoxRate) : (s.changeRate r).linksOk := by
  have h1 : ({ s with rate := r }.restPairs).linksOk :=
    h.congr rfl (fun k => State.seated_updateAllPairs k _ _) rfl
  unfold State.changeRate State.holdLivePorts
  refine foldl_inv _ State.linksOk (fun u p hu => ?_) allPorts _ h1
  split
  · exact hu
  · exact hu.enterHold p _ _

/-! ## Events of the bus -/

theorem State.linksOk.nextChip (c : Chip) : (s.nextChip c).linksOk := by
  unfold State.nextChip
  split
  · exact h.congr rfl (fun _ => rfl) rfl
  · have h1 : (s.modBus fun b => { b with pass := .ready, pollPos := 0 }).linksOk := h.congr rfl (fun _ => rfl) rfl
    have h2 := h1.readyPorts
    unfold State.becomeReady
    generalize (s.modBus fun b => { b with pass := .ready, pollPos := 0 }).readyPorts = u at h2 ⊢
    exact h2.congr rfl (fun _ => rfl) rfl

theorem State.linksOk.passFailsChip (c : Chip) : (s.passFailsChip c).linksOk := by
  refine State.linksOk.nextChip ?_ c
  exact h.congr rfl (fun _ => rfl) rfl

theorem State.linksOk.startIdentityEnded (c : Chip) (v : Option Byte) : (s.startIdentityEnded c v).linksOk := by
  unfold State.startIdentityEnded
  split_ifs
  · exact h.congr rfl (fun _ => rfl) rfl
  · exact h.congr rfl (fun _ => rfl) rfl
  · exact h.passFailsChip c

theorem State.linksOk.startWriteTaken (c : Chip) (k : Channel) : (s.startWriteTaken c k).linksOk := by
  unfold State.startWriteTaken
  dsimp only
  split
  · exact h.congr rfl (fun k' => by simp [State.passTxn]) rfl
  · refine State.linksOk.nextChip ?_ c
    refine State.linksOk.congr h (by simp) (fun k' => ?_) (by simp)
    simp only [State.seated_raiseChip, State.seated_modBus, State.seated_modPhantom, State.seated_becomeKnown]

theorem State.linksOk.startVerified (c : Chip) (k : Channel) (w : Option Byte) : (s.startVerified c k w).linksOk := by
  unfold State.startVerified
  split
  · exact h.startWriteTaken c k
  · refine State.linksOk.passFailsChip ?_ c
    exact foldl_inv (fun acc i => State.faultMove i acc) State.linksOk
      (fun u i hu => hu.congr rfl (fun k => State.seated_faultMove k i u) rfl) _ s h

theorem State.linksOk.startAdoptionEnded (c : Chip) (k : Channel) (w : Option Byte) :
    (s.startAdoptionEnded c k w).linksOk := by
  unfold State.startAdoptionEnded
  cases w with
  | none => exact h.passFailsChip c
  | some x =>
    dsimp only
    split
    · exact h.congr rfl (fun _ => rfl) rfl
    · refine State.linksOk.nextChip ?_ c
      exact h.congr (by simp) (by simp) (by simp)

end

theorem State.blocksReset_linksOk (b : Bus) (s : State) : (s.blocksReset b).linksOk := by
  have hnone : ∀ k, (s.blocksReset b).entries.get k = none := fun k => by simp [State.blocksReset, State.reset]
  refine ⟨⟨fun k => ?_, ?_, ?_, ?_⟩, fun p k since hk => ?_⟩
  · rw [hnone]
    simp [State.blocksReset, State.reset, PairStore.atPowerOn]
  · intro k k' c c' hc
    simp [hnone] at hc
  · intro k c hc
    simp [hnone] at hc
  · intro k k' c c' p hc
    simp [hnone] at hc
  · simp [State.blocksReset, State.portsAtPowerOn, LinkPort.atPowerOn] at hk

theorem State.restartNow_linksOk (s : State) : s.restartNow.linksOk := by
  unfold State.restartNow
  split
  · exact (State.blocksReset_linksOk { Bus.atPowerOn with adopting := true } s).congr rfl (fun _ => rfl) rfl
  · exact State.blocksReset_linksOk _ s

end Sys2Proof.Machine
end

section
/-! PROOF. Every step keeps the arbiter and the parties in order, and with them the consumer table and the timers (R21,
R39, R130). -/

namespace Sys2Proof.Machine

/-! ## One input's owner and waiters -/

/-- What `State.ownersOk` and `State.partiesOk` ask of one input: the owner is the panel or has an entry, every consumer
that waits is PRESENT, and R39 holds. -/
def Ownership.fits (e : Tab 6 (Option Consumer)) (o : Ownership) : Prop :=
  o.ok ∧ ∀ k, (o.owner = some (.consumer k) → (e.get k).isSome = true) ∧
    (.consumer k ∈ o.waiting → ∃ c, e.get k = some c ∧ c.presence.isKeeping = false)

section
variable {e : Tab 6 (Option Consumer)} {o : Ownership} (h : o.fits e)
include h

theorem Ownership.fits.of_same {o' : Ownership} (ho : o'.owner = o.owner) (hw : o'.waiting = o.waiting) : o'.fits e := by
  unfold Ownership.fits Ownership.ok
  rw [ho, hw]
  exact h

/-- An owner with an entry fits, and no owner where nobody waits (R51). -/
theorem Ownership.fits.give {who : Option Party} (hwho : ∀ k, who = some (.consumer k) → (e.get k).isSome = true)
    (hnone : who = none → o.waiting = []) : (o.give who).fits e := by
  obtain ⟨⟨h1, h2, h3⟩, h4⟩ := h
  cases who with
  | none =>
    have hw := hnone rfl
    exact ⟨⟨h1, fun _ _ => nofun, fun _ => hw⟩, fun k => ⟨nofun, (h4 k).2⟩⟩
  | some w =>
    refine ⟨⟨h1.filter _, fun x hx heq => ?_, nofun⟩, fun k => ⟨fun hk => hwho k hk, fun hk => ?_⟩⟩
    · have := (List.mem_filter.mp hx).2
      cases heq
      simp at this
    · exact (h4 k).2 (List.mem_filter.mp hk).1

/-- Ownership that passes to the oldest waiter, or to none (R43). -/
theorem Ownership.fits.passOn : (o.give o.waiting.head?).fits e := by
  refine h.give (fun k hk => ?_) fun hk => List.head?_eq_none_iff.mp hk
  obtain ⟨c, hc, -⟩ := (h.2 k).2 (List.mem_of_mem_head? hk)
  rw [hc]
  rfl

theorem Ownership.fits.leave (who : Party) : (o.leave who).fits e := by
  obtain ⟨⟨h1, h2, h3⟩, h4⟩ := h
  refine ⟨⟨h1.filter _, fun x hx => h2 x (List.mem_filter.mp hx).1, fun hn => ?_⟩,
    fun k => ⟨(h4 k).1, fun hk => (h4 k).2 (List.mem_filter.mp hk).1⟩⟩
  unfold Ownership.leave
  dsimp only
  rw [h3 hn]
  rfl

/-- A new waiter of an input that somebody else owns (R41). -/
theorem Ownership.fits.wait {who : Party} (hown : o.owner ≠ some who) (hsome : o.owner ≠ none) (hnot : who ∉ o.waiting)
    (hwho : ∀ k, who = .consumer k → ∃ c, e.get k = some c ∧ c.presence.isKeeping = false) :
    ({ o with waiting := o.waiting ++ [who] } : Ownership).fits e := by
  obtain ⟨⟨h1, h2, h3⟩, h4⟩ := h
  refine ⟨⟨?_, fun x hx => ?_, fun hn => absurd hn hsome⟩, fun k => ⟨(h4 k).1, fun hk => ?_⟩⟩
  · exact List.nodup_append.mpr ⟨h1, List.nodup_singleton _, fun a ha b hb hab =>
      hnot (by rw [← List.mem_singleton.mp hb, ← hab]; exact ha)⟩
  · rcases List.mem_append.mp hx with hx | hx
    · exact h2 x hx
    · rw [List.mem_singleton.mp hx]
      exact hown
  · rcases List.mem_append.mp hk with hk | hk
    · exact (h4 k).2 hk
    · exact hwho k (List.mem_singleton.mp hk).symm

/-- Another table in which owners keep an entry and waiters stay PRESENT. -/
theorem Ownership.fits.table {e' : Tab 6 (Option Consumer)} (ht : ∀ k c, e.get k = some c →
    (o.owner = some (.consumer k) → (e'.get k).isSome = true) ∧
    (.consumer k ∈ o.waiting → c.presence.isKeeping = false → ∃ c', e'.get k = some c' ∧ c'.presence.isKeeping = false)) :
    o.fits e' := by
  refine ⟨h.1, fun k => ⟨fun hk => ?_, fun hk => ?_⟩⟩
  · obtain ⟨c, hc⟩ := Option.isSome_iff_exists.mp ((h.2 k).1 hk)
    exact (ht k c hc).1 hk
  · obtain ⟨c, hc, hpres⟩ := (h.2 k).2 hk
    exact (ht k c hc).2 hk hpres

end

/-! ## The arbiter -/

/-- The arbiter and the parties are in order. -/
def State.partnersOk (s : State) : Prop := ∀ i, (s.own.get i).fits s.entries

theorem State.partnersOk_iff (s : State) : s.partnersOk ↔ s.ownersOk ∧ s.partiesOk :=
  ⟨fun h => ⟨fun i => (h i).1, fun i => (h i).2⟩, fun h i => ⟨h.1 i, h.2 i⟩⟩

theorem State.partnersOk.congr {s t : State} (h : s.partnersOk) (ho : t.own = s.own) (he : t.entries = s.entries) :
    t.partnersOk := by
  unfold State.partnersOk
  rw [ho, he]
  exact h

theorem State.partnersOk.modify {s t : State} (h : s.partnersOk) {i : Input} {f : Ownership → Ownership}
    (ho : t.own = s.own.modify i f) (he : t.entries = s.entries)
    (hf : (s.own.get i).fits s.entries → (f (s.own.get i)).fits s.entries) : t.partnersOk := by
  intro j
  rw [ho, he, Tab.get_modify]
  split
  · rename_i hj
    rw [hj]
    exact hf (h i)
  · exact h j

@[simp] theorem State.changeOwner_own (i : Input) (who : Option Party) (s : State) :
    (s.changeOwner i who).own = s.own.modify i (Ownership.give who) := by
  unfold State.changeOwner
  rw [State.raiseOwner_own, State.handOwnerTarget_own]
  rfl

/-- What an erasure makes of one input: an owner that is erased is followed by the panel where the input is locked, and
else by the oldest waiter (R53, R54). -/
def Ownership.handed (k : Seat) (o : Ownership) : Ownership :=
  if o.owner = some (.consumer k) then o.give (if o.lock then some .panel else o.waiting.head?) else o

theorem State.handOn_own (k : Seat) (i : Input) (s : State) :
    (s.handOn k i).own = s.own.modify i (Ownership.handed k) := by
  have heq : ∀ f : Ownership → Ownership, f (s.own.get i) = (s.own.get i).handed k →
      s.own.modify i f = s.own.modify i (Ownership.handed k) := fun f hf => by simp only [Tab.modify, hf]
  unfold State.handOn
  split
  · rename_i hown
    split
    · rename_i hlock
      unfold State.passToPanel
      dsimp only
      rw [State.changeOwner_own]
      exact heq _ (by simp [Ownership.handed, hown, hlock])
    · rename_i hlock
      unfold State.passOn
      rw [State.changeOwner_own]
      exact heq _ (by simp [Ownership.handed, hown, hlock])
  · rename_i hown
    exact (Tab.modify_id _ _ (by simp [Ownership.handed, hown])).symm

/-- What an erasure makes of the arbiter (R53). -/
theorem State.erase_own (k : Seat) (s : State) (i : Input) : ((s.erase k).own.get i) = (s.own.get i).handed k := by
  have h := foldl_cells (fun acc i => State.handOn k i acc) (fun u i => u.own.get i) (fun _ => True)
    (fun _ a b => b = a.handed k) (fun _ _ _ => trivial) (fun u i _ => by simp [State.handOn_own])
    (fun u i j _ hj => by simp [State.handOn_own, Tab.get_modify, hj]) allInputs (List.nodup_finRange 48) s trivial
  have hi : i ∈ allInputs := List.mem_finRange i
  have h1 := h.1 i hi
  simpa only [State.erase] using h1

theorem State.erase_entries (k : Seat) (s : State) : (s.erase k).entries = s.entries.set k none := by
  unfold State.erase
  dsimp only
  rw [foldl_keeps _ State.entries (fun u i => State.handOn_entries k i u)]

/-- An input of a consumer that is erased, and does not wait (R30, R53). -/
theorem Ownership.fits.handed {e : Tab 6 (Option Consumer)} {o : Ownership} (h : o.fits e) {k : Seat}
    (hw : .consumer k ∉ o.waiting) : (o.handed k).fits (e.set k none) := by
  have hfits : (o.handed k).fits e ∧ (o.handed k).owner ≠ some (.consumer k) ∧ .consumer k ∉ (o.handed k).waiting := by
    unfold Ownership.handed
    split
    · split
      · exact ⟨h.give (fun _ hk => by cases hk) nofun, nofun, fun hin => hw (List.mem_filter.mp hin).1⟩
      · refine ⟨h.passOn, fun hk => hw (List.mem_of_mem_head? hk), fun hin => hw ?_⟩
        unfold Ownership.give at hin
        dsimp only at hin
        split at hin
        · exact hin
        · exact (List.mem_filter.mp hin).1
    · rename_i hne
      exact ⟨h, hne, hw⟩
  obtain ⟨h1, h2, h3⟩ := hfits
  refine h1.table fun k' c hc => ?_
  have get : k' ≠ k → (e.set k none).get k' = some c := fun hne => by rw [Tab.get_set_ne _ hne, hc]
  refine ⟨fun hk => ?_, fun hk hp => ?_⟩
  · rw [get fun he => h2 (he ▸ hk)]
    rfl
  · exact ⟨c, get fun he => h3 (he ▸ hk), hp⟩

/-- Nobody waits who is not PRESENT. -/
theorem State.partnersOk.not_waiting {s : State} (h : s.partnersOk) {k : Seat} {c : Consumer}
    (hc : s.entries.get k = some c) (hk : c.presence.isKeeping = true) (i : Input) :
    .consumer k ∉ (s.own.get i).waiting := by
  intro hin
  obtain ⟨c', hc', hp⟩ := ((h i).2 k).2 hin
  rw [hc] at hc'
  cases hc'
  simp [hk] at hp

section
variable {s : State} (h : s.partnersOk)
include h

theorem State.partnersOk.erase {k : Seat} {c : Consumer} (hc : s.entries.get k = some c)
    (hk : c.presence.isKeeping = true) : (s.erase k).partnersOk := by
  intro i
  rw [State.erase_own, State.erase_entries]
  exact (h i).handed (h.not_waiting hc hk i)

/-- An entry takes a PRESENT consumer, or one that is as present as the one it had. -/
theorem State.partnersOk.setEntry {t : State} {k : Seat} {c : Consumer} (ho : t.own = s.own)
    (he : t.entries = s.entries.set k (some c))
    (hc : ∀ c0, s.entries.get k = some c0 → c0.presence.isKeeping = false → c.presence.isKeeping = false) :
    t.partnersOk := by
  intro i
  rw [ho, he]
  refine (h i).table fun k' c' hc' => ⟨fun _ => ?_, fun _ hp => ?_⟩
  · rw [Tab.get_set]
    split
    · rfl
    · rw [hc']
      rfl
  · rw [Tab.get_set]
    split
    · rename_i hkk
      exact ⟨c, rfl, hc c' (hkk ▸ hc') hp⟩
    · exact ⟨c', hc', hp⟩

theorem State.partnersOk.createConsumer (k : Seat) (r : BindReport) : (s.createConsumer k r).partnersOk :=
  h.setEntry rfl rfl fun _ _ _ => rfl

theorem State.partnersOk.unbind (p : Port) (stamp : Nat) : (s.unbind p stamp).partnersOk := by
  cases hk : seatOf s.entries p with
  | none =>
    have hu : s.unbind p stamp = s := by simp [State.unbind, hk]
    rw [hu]
    exact h
  | some k =>
    obtain ⟨c, hc, hpc⟩ := seatOf_get _ _ _ hk
    have he : (s.unbind p stamp).entries = s.entries.set k (some (c.losePort p s.clock stamp)) := by
      simp [State.unbind, hk, hc]
    by_cases hleft : (c.losePort p s.clock stamp).ports = []
    · have ho : (s.unbind p stamp).own = s.own.map (Ownership.leave (.consumer k)) := by
        simp [State.unbind, hk, hc, hleft]
      intro i
      rw [ho, he, Tab.get_map]
      refine ((h i).leave (.consumer k)).table fun k' c' hc' => ⟨fun _ => ?_, fun hw hp => ?_⟩
      · rw [Tab.get_set]
        split
        · rfl
        · rw [hc']
          rfl
      · have hne : k' ≠ k := by
          rintro rfl
          simp [Ownership.leave] at hw
        exact ⟨c', by rw [Tab.get_set_ne _ hne, hc'], hp⟩
    · have ho : (s.unbind p stamp).own = s.own := by
        simp [State.unbind, hk, hc, List.isEmpty_iff, hleft]
      refine h.setEntry ho he fun c0 hc0 hp => ?_
      rw [hc] at hc0
      cases hc0
      unfold Consumer.losePort
      dsimp only
      rw [if_neg]
      · exact hp
      · exact fun he => hleft (List.isEmpty_iff.mp he)

theorem State.partnersOk.leaveBound (p : Port) (stamp : Nat) : (s.leaveBound p stamp).partnersOk :=
  (h.unbind p stamp).congr rfl rfl

theorem State.partnersOk.leaveIfBound (p : Port) (stamp : Nat) : (s.leaveIfBound p stamp).partnersOk := by
  unfold State.leaveIfBound
  split
  · exact h.leaveBound p stamp
  · exact h

theorem State.partnersOk.enterHold (p : Port) (flags : Tab 12 Bool) (stamp : Nat) :
    (s.enterHold p flags stamp).partnersOk :=
  (h.leaveIfBound p stamp).congr (by simp [State.enterHold]) (by simp [State.enterHold])

theorem State.partnersOk.enterDown (p : Port) (flags : Tab 12 Bool) (stamp : Nat) :
    (s.enterDown p flags stamp).partnersOk :=
  (h.leaveIfBound p stamp).congr (by simp [State.enterDown]) (by simp [State.enterDown])

theorem State.partnersOk.enterFault (p : Port) (why : Reason) (tag : Byte) (nonce : BitVec 32) :
    (s.enterFault p why tag nonce).partnersOk := by
  have h1 : (s.send (.split p) (refuseBody tag why nonce)).partnersOk := h.congr rfl rfl
  exact (h1.leaveIfBound p s.nextStamp).congr rfl rfl

theorem State.partnersOk.resolveOffer (p : Port) (tag : Byte) (o : PartnerOffer) : (s.resolveOffer p tag o).partnersOk := by
  unfold State.resolveOffer
  split
  · exact h.congr (by simp) (by simp)
  · exact h.enterFault p _ tag _

theorem State.partnersOk.reoffer (p : Port) (tag : Byte) (o : PartnerOffer) : (s.reoffer p tag o).partnersOk := by
  refine State.partnersOk.resolveOffer ?_ p tag o
  exact (h.leaveBound p s.nextStamp).congr rfl rfl

omit h in
/-- The entry evicted is one whose keep timer runs (R24). -/
theorem evictedSeat_keeps {e : Tab 6 (Option Consumer)} {k : Seat} (hk : evictedSeat e = some k) :
    (keepStampOf e k).isSome = true := by
  refine foldl_inv _ (fun best : Option Seat => ∀ k, best = some k → (keepStampOf e k).isSome = true)
    (fun best a hb => ?_) allSeats none (fun _ h => nomatch h) k hk
  split
  · exact hb
  · rename_i n hn
    rintro k ⟨⟩
    rw [hn]
    rfl
  · rename_i n b hn
    split
    · rintro k ⟨⟩
      rw [hn]
      rfl
    · split
      · rintro k ⟨⟩
        rw [hn]
        rfl
      · exact hb

omit h in
theorem keepStampOf_isSome {e : Tab 6 (Option Consumer)} {k : Seat} (hk : (keepStampOf e k).isSome = true) :
    ∃ c, e.get k = some c ∧ c.presence.isKeeping = true := by
  unfold keepStampOf at hk
  split at hk
  · cases hk
  · rename_i c hc
    split at hk
    · exact ⟨c, hc, ‹_›⟩
    · cases hk

theorem State.partnersOk.bind (r : BindReport) : (s.bind r).1.partnersOk := by
  unfold State.bind
  split
  · split
    · exact h.createConsumer _ r
    · split
      · rename_i k hk
        obtain ⟨c, hc, hkeep⟩ := keepStampOf_isSome (evictedSeat_keeps hk)
        exact (h.erase hc hkeep).createConsumer k r
      · exact h
  · split
    · exact h
    · rename_i k _ _ c hc
      split
      · rename_i hkeep
        split
        · refine h.setEntry (k := k) (c := { c with
            presence := .present, ports := [r.port], name := r.name, format := r.format, slots := r.slots }) rfl ?_
            fun _ _ _ => rfl
          simp only [State.rebind, Tab.modify, hc, Option.map_some]
        · exact (h.erase hc hkeep).createConsumer k r
      · rename_i hkeep
        split
        · refine h.setEntry (k := k) (c := { c with ports := c.ports ++ [r.port], name := r.name }) rfl ?_ fun _ _ _ => by
            simpa using hkeep
          simp only [State.joinTwin, Tab.modify, hc, Option.map_some]
        · exact h

theorem State.partnersOk.matchConfirm (p : Port) (tag : Byte) (c : PartnerConfirm) :
    (s.matchConfirm p tag c).partnersOk := by
  have bound : ∀ pg r, (s.enterBound p tag pg r).partnersOk := by
    intro pg r
    have hb : (State.bind (bindReport p pg r)
        ((s.modPort p fun q => { q.goTo .bound with timer := none }).raiseLink p (s.ports.get p).state
          noFlags)).1.partnersOk := by
      refine State.partnersOk.bind ?_ _
      exact h.congr rfl rfl
    unfold State.enterBound
    dsimp only
    split
    · rename_i u hu
      rw [hu] at hb
      exact State.partnersOk.congr hb (by simp) (by simp)
    · rename_i u why hu
      rw [hu] at hb
      exact State.partnersOk.enterFault hb p why tag _
  unfold State.matchConfirm
  split
  · split
    · exact bound _ _
    · exact h.enterFault p _ tag _
  · exact h.enterFault p _ tag _
  · exact h.enterFault p _ tag _

theorem State.partnersOk.keepExpired (k : Seat) : (s.keepExpired k).partnersOk := by
  unfold State.keepExpired
  split
  · exact h
  · rename_i n hn
    obtain ⟨c, hc, hkeep⟩ := keepStampOf_isSome (e := s.entries) (k := k) (by rw [hn]; rfl)
    exact h.erase hc hkeep

theorem State.partnersOk.breakOn (l : LaneId) : (s.breakOn l).partnersOk := by
  cases l with
  | panel => exact h
  | split p =>
    have h1 : ∀ f, ((s.flushLane (.split p)).modPort p f).partnersOk := fun f => h.congr rfl rfl
    unfold State.breakOn State.breakReported
    dsimp only
    split
    · exact h.congr rfl rfl
    · exact h1 _
    all_goals exact (h1 _).enterHold p _ _

theorem State.partnersOk.carrierLost (p : Port) : (s.carrierLost p).partnersOk := by
  unfold State.carrierLost
  dsimp only
  split
  · exact h.congr rfl rfl
  · refine State.partnersOk.enterDown ?_ p _ _
    exact h.congr rfl rfl

theorem State.partnersOk.holdExpired (p : Port) : (s.holdExpired p).partnersOk := by
  unfold State.holdExpired
  split_ifs
  · exact h.congr rfl rfl
  · exact h.enterDown p _ _
  · exact h

theorem State.partnersOk.offerWaitExpired (p : Port) : (s.offerWaitExpired p).partnersOk := by
  unfold State.offerWaitExpired
  split
  · refine State.partnersOk.enterHold ?_ p _ _
    exact h.congr rfl rfl
  · exact h

theorem State.partnersOk.confirmWaitExpired (p : Port) : (s.confirmWaitExpired p).partnersOk := by
  unfold State.confirmWaitExpired
  split
  · refine State.partnersOk.enterHold ?_ p _ _
    exact h.congr rfl rfl
  · exact h

theorem State.partnersOk.inhibitExpired (p : Port) : (s.inhibitExpired p).partnersOk := by
  unfold State.inhibitExpired
  split
  · exact h.enterHold p _ _
  · exact h

theorem State.partnersOk.changeRate (r : BoxRate) : (s.changeRate r).partnersOk := by
  have h1 : ({ s with rate := r }.restPairs).partnersOk := h.congr rfl rfl
  unfold State.changeRate State.holdLivePorts
  refine foldl_inv _ State.partnersOk (fun u p hu => ?_) allPorts _ h1
  split
  · exact hu
  · exact hu.enterHold p _ _

theorem State.partnersOk.adoptChip (startUp : Bool) (c : Chip) (ws : List Byte) :
    (s.adoptChip startUp c ws).partnersOk := by
  have h1 : (s.modBus fun b => { Bus.takeWords c ws b with chips := b.chips.set c .ok, probe := [] }).partnersOk :=
    h.congr rfl rfl
  have h2 := foldl_inv (fun acc i => State.adopt startUp i (acc.bus.shadow.get i) acc) State.partnersOk
    (fun u i hu => hu.modify (State.adopt_own startUp i _ u) (by simp) fun ho => by
      split
      · exact ho.of_same rfl rfl
      · exact ho) (chipInputs c) _ h1
  exact h2.congr (by simp only [State.adoptChip, State.raiseChip_own])
    (by simp only [State.adoptChip, State.raiseChip_entries])

end

/-! ## The requests that touch owners and waiters -/

/-- The consumer table, the timers, the arbiter and the parties are in order. -/
def State.rosterOk (s : State) : Prop := s.linksOk ∧ s.partnersOk

theorem State.rosterOk.congr {s t : State} (h : s.rosterOk) (he : t.entries = s.entries)
    (hs : ∀ k, t.seated k = s.seated k) (hp : t.ports = s.ports) (ho : t.own = s.own) : t.rosterOk :=
  ⟨h.1.congr he hs hp, h.2.congr ho he⟩

/-- A change of the arbiter alone. -/
theorem State.rosterOk.modify {s t : State} (h : s.rosterOk) {i : Input} {f : Ownership → Ownership}
    (ho : t.own = s.own.modify i f) (he : t.entries = s.entries) (hs : ∀ k, t.seated k = s.seated k)
    (hp : t.ports = s.ports) (hf : (s.own.get i).fits s.entries → (f (s.own.get i)).fits s.entries) : t.rosterOk :=
  ⟨h.1.congr he hs hp, h.2.modify ho he hf⟩

section
variable {s : State} (h : s.rosterOk)
include h

/-- Who speaks on a lane has an entry and is PRESENT. -/
theorem State.rosterOk.speaker {k : Seat} (hk : s.speaks (.consumer k)) :
    ∃ c, s.entries.get k = some c ∧ c.presence.isKeeping = false := by
  obtain ⟨l, hl⟩ := hk
  cases l with
  | panel => cases hl
  | split p =>
    simp only [State.boundRequester, State.requester] at hl
    split at hl
    · obtain ⟨k', hk', heq⟩ := Option.map_eq_some_iff.mp hl
      cases heq
      obtain ⟨c, hc, hpc⟩ := seatOf_get _ _ _ hk'
      refine ⟨c, hc, ?_⟩
      have := (h.1.1.consumer hc).2.2.1
      cases hkeep : c.presence.isKeeping with
      | false => rfl
      | true => exact absurd (this.mp hkeep) (List.ne_nil_of_mem hpc)
    · cases hl

theorem State.rosterOk.changeOwner (i : Input) {who : Option Party}
    (hwho : ∀ k, who = some (.consumer k) → (s.entries.get k).isSome = true)
    (hnone : who = none → (s.own.get i).waiting = []) : (s.changeOwner i who).rosterOk :=
  h.modify (State.changeOwner_own i who s) (by simp) (by simp) (by simp) fun ho => ho.give hwho hnone

theorem State.rosterOk.passOn (i : Input) : (s.passOn i).rosterOk :=
  h.modify (State.changeOwner_own i _ s) (State.passOn_entries i s) (fun k => State.seated_changeOwner k i s _)
    (State.passOn_ports i s) fun ho => ho.passOn

theorem State.rosterOk.modOwn_same (i : Input) {f : Ownership → Ownership} (h1 : ∀ o, (f o).owner = o.owner)
    (h2 : ∀ o, (f o).waiting = o.waiting) : (s.modOwn i f).rosterOk :=
  h.modify rfl rfl (fun _ => rfl) rfl fun ho => ho.of_same (h1 _) (h2 _)

theorem State.rosterOk.storeMap (k : Seat) (m : List Input) : (s.storeMap k m).rosterOk := by
  cases hc : s.entries.get k with
  | none =>
    have he : (s.storeMap k m).entries = s.entries := Tab.modify_id _ _ (by simp [hc])
    exact h.congr he (fun _ => rfl) rfl rfl
  | some c =>
    have he : (s.storeMap k m).entries = s.entries.set k (some { c with map := m }) := by
      simp [State.storeMap, Tab.modify, hc]
    have hports := h.1.1.consumer hc
    refine ⟨⟨h.1.1.changeEntry hc he (fun _ => rfl) rfl rfl ⟨hports.1, hports.2⟩ fun _ hp => .inl hp,
      h.1.2.congr fun _ => ⟨rfl, rfl⟩⟩, h.2.setEntry rfl he fun c0 hc0 hp => ?_⟩
    rw [hc] at hc0
    cases hc0
    exact hp

end

/-! ## Every step -/

theorem rosterOk_blind : BlindToLanes State.rosterOk :=
  ⟨fun _ _ _ h => h.congr rfl (fun _ => rfl) rfl rfl, fun _ _ h => h.congr rfl (fun _ => rfl) rfl rfl,
    fun _ _ h => h.congr rfl (fun _ => rfl) rfl rfl⟩

theorem rosterOk_records (l : LaneId) : KeptByRecords l State.rosterOk State.rosterOk where
  stays _ h := h.1
  reply _ _ _ _ _ h _ := h.1.congr rfl (fun _ => rfl) rfl rfl
  consumer _ _ _ h := h.1.congr rfl (fun _ => rfl) rfl rfl
  level _ _ _ _ h := h.congr (by simp) (by simp) (by simp) (by simp)
  mute _ _ _ _ h := h.congr (by simp) (by simp) (by simp) (by simp)
  map k m _ h := h.storeMap k m
  take who i _ h hw _ := h.changeOwner i (fun k hk => by
    cases hk
    obtain ⟨c, hc, -⟩ := h.speaker hw
    rw [hc]
    rfl) nofun
  wait who i _ h hw hown hsome hnot := h.modify (f := fun o => { o with waiting := o.waiting ++ [who] }) rfl rfl
    (fun _ => rfl) rfl fun ho => ho.wait hown hsome hnot fun k hk => h.speaker (hk ▸ hw)
  release i _ h := h.passOn i
  leave who i _ h := h.modify rfl rfl (fun _ => rfl) rfl fun ho => ho.leave who
  pad i on s h := by
    have h1 := h.modOwn_same i (f := fun o => { o with padChoice := on }) (fun _ => rfl) fun _ => rfl
    unfold State.choosePad
    dsimp only
    split <;> exact h1.congr rfl (fun _ => rfl) rfl rfl
  phantom _ _ _ h := h.congr (by simp) (by simp) (by simp) (by simp)
  clearSat who i s h := h.congr rfl (fun k => State.seated_updatePair k i s who fun q => { q with sat := 0 }) rfl rfl
  clearSets p clear _ h := ⟨h.1.modPort_same p (fun _ => by split <;> rfl) fun _ => by split <;> rfl, h.2.congr rfl rfl⟩
  clearCounters _ _ _ h := h.congr rfl (fun _ => rfl) rfl rfl
  lock i _ _ h := h.modOwn_same i (fun _ => rfl) fun _ => rfl
  force i _ h := h.changeOwner i nofun nofun
  rate r _ h := ⟨h.1.changeRate r, h.2.changeRate r⟩
  align _ _ h := h.congr rfl (fun _ => rfl) rfl rfl
  resetHold p _ h := ⟨h.1.enterHold p _ _, h.2.enterHold p _ _⟩
  resetFlush _ _ h := h.congr rfl (fun _ => rfl) rfl rfl
  restart _ _ h := h.congr rfl (fun _ => rfl) rfl rfl
  ignore _ h := h.congr rfl (fun _ => rfl) rfl rfl
  reoffer p tag _ o _ _ h _ _ := ⟨h.1.reoffer p tag o, h.2.reoffer p tag o⟩
  resolveOffer p tag _ o _ _ h _ hst := ⟨h.1.resolveOffer tag o (h.1.1.free (by rcases hst with hst | hst <;> rw [hst] <;> nofun)),
    h.2.resolveOffer p tag o⟩
  matchConfirm p tag c _ _ h hst := ⟨h.1.matchConfirm p tag c hst, h.2.matchConfirm p tag c⟩

theorem rosterOk_bus : KeptByBus State.rosterOk where
  write _ _ _ _ _ h _ := h.congr (by simp) (by simp) (by simp) (by simp)
  verify _ _ _ _ _ h _ := h.congr (by simp) (by simp) (by simp) (by simp)
  status i v _ h := h.congr (by simp) (by simp) (by simp) (by simp)
  identity _ _ _ h := h.congr (by simp) (fun k => State.seated_congr (by simp) k) (by simp) (by simp)
  adoption c k w s h _ := by
    have h1 : (s.adoptionEnded c k w).rosterOk := by
      refine ⟨h.1.congr (by simp) (by simp) (by simp), ?_⟩
      unfold State.adoptionEnded
      cases w with
      | none => exact h.2.congr rfl rfl
      | some x =>
        dsimp only
        split
        · exact h.2.adoptChip false c _
        · exact h.2.congr rfl rfl
    exact h1.congr rfl (fun _ => rfl) rfl rfl
  startIdentity c v _ h := ⟨h.1.startIdentityEnded c v, h.2.congr (by simp) (by simp)⟩
  startWrite c k _ h := ⟨h.1.startWriteTaken c k, h.2.congr (by simp) (by simp)⟩
  startTimeout _ _ _ h := h.congr rfl (fun _ => rfl) rfl rfl
  startVerify c k w _ h := ⟨h.1.startVerified c k w, h.2.congr (by simp) (by simp)⟩
  startAdoption c k w s h _ := by
    refine ⟨h.1.startAdoptionEnded c k w, ?_⟩
    unfold State.startAdoptionEnded
    cases w with
    | none => exact h.2.congr (by simp) (by simp)
    | some x =>
      dsimp only
      split
      · exact h.2.congr rfl rfl
      · have h1 := h.2.adoptChip true c (s.bus.probe ++ [x])
        exact h1.congr (State.nextChip_own c _) (State.nextChip_entries c _)
  discard _ h := h.congr rfl (fun _ => rfl) rfl rfl

theorem State.blocksReset_partnersOk (b : Bus) (s : State) : (s.blocksReset b).partnersOk := by
  intro i
  simp [State.blocksReset, State.reset, Ownership.atPowerOn, Ownership.fits, Ownership.ok]

theorem State.restartNow_rosterOk (s : State) : s.restartNow.rosterOk := by
  refine ⟨s.restartNow_linksOk, ?_⟩
  unfold State.restartNow
  split
  · exact (State.blocksReset_partnersOk { Bus.atPowerOn with adopting := true } s).congr rfl rfl
  · exact State.blocksReset_partnersOk _ s

theorem State.powerOn_rosterOk (s : State) : s.powerOn.rosterOk :=
  ⟨(State.blocksReset_linksOk Bus.atPowerOn s).congr rfl (fun _ => rfl) rfl,
    (State.blocksReset_partnersOk Bus.atPowerOn s).congr rfl rfl⟩

theorem rosterOk_step : KeptByStep State.rosterOk where
  pending _ _ h := h.congr rfl (fun _ => rfl) rfl rfl
  powerOn s _ := s.powerOn_rosterOk
  restart s _ := s.restartNow_rosterOk
  samplePeriod _ _ h := h.congr (by simp [State.samplePeriod]) (by simp) (by simp [State.samplePeriod])
    (by simp [State.samplePeriod])
  rampStep _ _ _ h := h.congr (by simp) (by simp) (by simp) (by simp)
  landing _ _ h := h.congr (by simp) (by simp) (by simp) (by simp)
  fadeOutEnd _ _ h := h.congr (by simp) (fun k => State.seated_congr (by simp) k) (by simp) (by simp)
  fadeInEnd _ _ h := h.congr (by simp) (fun k => State.seated_congr (by simp) k) (by simp) (by simp)
  settle _ _ h := h.congr (by simp) (by simp) (by simp) (by simp)
  keep k _ h := ⟨h.1.keepExpired k, h.2.keepExpired k⟩
  carrierArrival p _ h := ⟨h.1.carrierArrives p, h.2.congr (by simp) (by simp)⟩
  carrierLoss p _ h := ⟨h.1.carrierLost p, h.2.carrierLost p⟩
  character l v parity stop start _ h := rosterOk_blind.character rosterOk_records h
    (fun l _ h => ⟨h.1.breakOn l, h.2.breakOn l⟩) l v parity stop start
  break_ l _ h := ⟨h.1.breakOn l, h.2.breakOn l⟩
  byte l _ h := rosterOk_blind.byteSent rosterOk_records h (fun s _ => s.restartNow_rosterOk) l
  breakEnd _ _ h := h.congr rfl (fun _ => rfl) rfl rfl
  hold p _ h := ⟨h.1.holdExpired p, h.2.holdExpired p⟩
  offerWait p _ h := ⟨h.1.offerWaitExpired p, h.2.offerWaitExpired p⟩
  confirmWait p _ h := ⟨h.1.confirmWaitExpired p, h.2.confirmWaitExpired p⟩
  inhibit p _ h := ⟨h.1.inhibitExpired p, h.2.inhibitExpired p⟩
  record l kind tag fields _ h := rosterOk_blind.deliver rosterOk_records h l kind tag fields
  bus := rosterOk_bus

/-- Settles O56: ports change hands only through binds and unbinds, and owners and waiters only through the arbiter. -/
theorem everyStepKeepsOwnersAndTable : Obligations.EveryStepKeepsOwnersAndTable := by
  intro s t howners htable hparties htimers ht
  obtain ⟨⟨htable, htimers⟩, hpartners⟩ :=
    rosterOk_step.step ⟨⟨htable, htimers⟩, s.partnersOk_iff.mpr ⟨howners, hparties⟩⟩ ht
  obtain ⟨howners, hparties⟩ := t.partnersOk_iff.mp hpartners
  exact ⟨howners, htable, hparties, htimers⟩

end Sys2Proof.Machine
end

section
/-! PROOF. Every step keeps the numbers of the audio path within their bounds: levels, trims, targets, phases and
saturation counts, D, the landing counts and the clip counts (R1, R5, R10, R16, R59, R69, R106). -/

namespace Sys2Proof.Machine

/-! ## One pair's numbers -/

theorem countUp_le (n : Nat) : countUp n ≤ 65535 := min_le_left _ _

theorem clampTo_bounds {lo hi : Int} (h : lo ≤ hi) (x : Int) : lo ≤ clampTo lo hi x ∧ clampTo lo hi x ≤ hi :=
  ⟨le_max_left _ _, max_le h (min_le_left _ _)⟩

theorem clampLevel_bounds (x : Int) : -600 ≤ clampLevel x ∧ clampLevel x ≤ 840 := clampTo_bounds (by decide) x

theorem trimClamp_bounds (x : Int) : -400 ≤ trimClamp x ∧ trimClamp x ≤ 240 := clampTo_bounds (by decide) x

theorem trimTarget_bounds (level : Option Int) (a : Int) : -400 ≤ trimTarget level a ∧ trimTarget level a ≤ 240 := by
  cases level with
  | none => exact ⟨(by decide : (-400 : Int) ≤ 0), (by decide : (0 : Int) ≤ 240)⟩
  | some l => exact trimClamp_bounds _

/-- A level that a pair may hold. -/
def levelOk (level : Option Int) : Prop := ∀ l, level = some l → -600 ≤ l ∧ l ≤ 840

theorem levelOk_none : levelOk none := nofun

theorem storedLevel_ok (field : Option Int) : levelOk (storedLevel field) := by
  intro l hl
  obtain ⟨x, -, rfl⟩ := Option.map_eq_some_iff.mp hl
  exact clampLevel_bounds x

theorem BoxRate.rampInterval_pos (r : BoxRate) : 0 < r.rampInterval := by cases r <;> decide

/-- Numbers within their ranges, the ramp phase not counted: at a change of box rate the phases return to 0. -/
def Pair.valuesOk (q : Pair) : Prop :=
  levelOk q.level ∧ (-400 ≤ q.trim ∧ q.trim ≤ 240) ∧ (-400 ≤ q.target ∧ q.target ≤ 240) ∧ q.sat ≤ 65535

theorem Pair.inRange_iff (r : BoxRate) (q : Pair) : q.inRange r ↔ q.valuesOk ∧ q.phase < r.rampInterval :=
  ⟨fun ⟨hl, ht, hg, hp, hs⟩ => ⟨⟨hl, ht, hg, hs⟩, hp⟩, fun ⟨⟨hl, ht, hg, hs⟩, hp⟩ => ⟨hl, ht, hg, hp, hs⟩⟩

section
variable {r : BoxRate} {q : Pair} (h : q.inRange r)
include h

theorem Pair.inRange.settleTrim (b : TrimState) (st : AnalogStatus) (a : Int) : (Pair.settleTrim b st a q).inRange r := by
  obtain ⟨hl, ht, hg, hp, hs⟩ := h
  refine ⟨hl, ht, hg, ?_, hs⟩
  dsimp only [Pair.settleTrim]
  split
  · exact r.rampInterval_pos
  · exact hp

theorem Pair.inRange.setTarget {x : Int} (hx : -400 ≤ x ∧ x ≤ 240) : ({ q with target := x } : Pair).inRange r :=
  ⟨h.1, h.2.1, hx, h.2.2.2⟩

theorem Pair.inRange.setTrim {x : Int} (hx : -400 ≤ x ∧ x ≤ 240) : ({ q with trim := x } : Pair).inRange r :=
  ⟨h.1, hx, h.2.2⟩

theorem Pair.inRange.setLevel {level : Option Int} (hl : levelOk level) : ({ q with level := level } : Pair).inRange r :=
  ⟨hl, h.2⟩

theorem Pair.inRange.setSat {n : Nat} (hn : n ≤ 65535) : ({ q with sat := n } : Pair).inRange r :=
  ⟨h.1, h.2.1, h.2.2.1, h.2.2.2.1, hn⟩

theorem Pair.inRange.retarget (st : AnalogStatus) (a : Int) : (Pair.retarget st a q).inRange r :=
  Pair.inRange.settleTrim (h.setTarget (trimTarget_bounds _ _)) _ _ _

theorem Pair.inRange.storeLevel (st : AnalogStatus) (a : Int) {level : Option Int} (hl : levelOk level) :
    (Pair.storeLevel st a level q).inRange r := by
  cases st with
  | known => exact Pair.inRange.retarget (h.setLevel hl) _ _
  | uncertain => exact Pair.inRange.settleTrim (h.setLevel hl) _ _ _

theorem Pair.inRange.land (st : AnalogStatus) (d a : Int) : (Pair.land st d a q).inRange r := by
  unfold Pair.land
  split
  · exact h
  · exact Pair.inRange.retarget (h.setTrim (trimClamp_bounds _)) _ _

/-- A ramp step ends between the trim and its target (R10). -/
theorem Pair.inRange.rampStep (st : AnalogStatus) (a : Int) : (Pair.rampStep st a q).inRange r := by
  obtain ⟨hl, ht, hg, -, hs⟩ := h
  refine Pair.inRange.settleTrim (q := { q with trim := stepToward q.trim q.target, phase := 0 })
    ⟨hl, ?_, hg, r.rampInterval_pos, hs⟩ _ _ _
  unfold stepToward
  dsimp only
  split_ifs <;> omega

theorem Pair.inRange.rampAdvance (st : AnalogStatus) (a : Int) : (Pair.rampAdvance r st a q).inRange r := by
  unfold Pair.rampAdvance
  split_ifs with _ _ hdue
  · exact h
  · exact h.rampStep st a
  · obtain ⟨hl, ht, hg, -, hs⟩ := h
    exact ⟨hl, ht, hg, not_le.mp hdue, hs⟩
  · exact h

theorem Pair.inRange.turnGate (n : Nat) (seq : SeqState) : (Pair.turnGate n seq q).inRange r := by
  have hsame : ∃ d, Pair.turnGate n seq q = { q with dir := d } := by
    unfold Pair.turnGate
    split <;> exact ⟨_, rfl⟩
  obtain ⟨d, hd⟩ := hsame
  rw [hd]
  exact h

theorem Pair.inRange.gateStep (n : Nat) : (Pair.gateStep n q).inRange r := by
  unfold Pair.gateStep
  split <;> exact h

theorem Pair.inRange.countClip (n : Nat) (x : Sample) : (Pair.countClip n x q).inRange r := by
  unfold Pair.countClip
  split
  · exact h.setSat (countUp_le _)
  · exact h

end

theorem Pair.fresh_inRange (r : BoxRate) (n : Nat) (st : AnalogStatus) (seq : SeqState) :
    (Pair.fresh n st seq).inRange r := by
  refine Pair.inRange.turnGate ?_ n seq
  exact ⟨levelOk_none, ⟨by simp, by simp⟩, ⟨by simp, by simp⟩, r.rampInterval_pos, Nat.zero_le _⟩

/-- A pair at rest is in range at any rate, since its phase is 0 (R20). -/
theorem Pair.valuesOk.rest {q : Pair} (h : q.valuesOk) (r : BoxRate) (n : Nat) (st : AnalogStatus) (a : Int) :
    (Pair.rest n st a q).inRange r := by
  obtain ⟨hl, ht, hg, hs⟩ := h
  unfold Pair.rest
  dsimp only
  split
  · exact Pair.inRange.settleTrim (q := { q with
      gate := _, dir := _, phase := 0, stepped := false, trim := q.target }) ⟨hl, hg, hg, r.rampInterval_pos, hs⟩ _ _ _
  · exact ⟨hl, ht, hg, r.rampInterval_pos, hs⟩

/-! ## Landing counts -/

/-- A landing count fits one byte (R59, R69). -/
def Move.countOk (m : Move) : Prop := ∀ a n, m = .landing a n → n ≤ 255

theorem Move.countOk_idle : Move.idle.countOk := nofun

theorem MoveCtl.deal_countOk {m : MoveCtl} (h : m.move.countOk) (hold : Bool) (t : Setting) :
    (MoveCtl.deal hold t m).1.move.countOk := by
  unfold MoveCtl.deal
  split
  · exact h
  · split_ifs
    · exact h
    · exact h
    · exact h
    · exact nofun

theorem MoveCtl.goOnWire_countOk {m : MoveCtl} (h : m.move.countOk) : m.goOnWire.move.countOk := by
  unfold MoveCtl.goOnWire
  split
  · exact nofun
  all_goals exact h

/-! ## The state -/

/-- Every pair's numbers are within their ranges. -/
def State.pairsOk (s : State) : Prop := ∀ who i q, s.pair? who i = some q → q.inRange s.rate

/-- The numbers of the audio path are within their bounds. -/
def State.audioOk (s : State) : Prop :=
  s.pairsOk ∧ s.align ≤ 255 ∧ (∀ i, (s.moves.get i).move.countOk) ∧ ∀ i, s.bus.clips.get i ≤ 65535

theorem State.pairsOk.congr {s t : State} (h : s.pairsOk) (hp : t.pairs = s.pairs) (hr : t.rate = s.rate) : t.pairsOk := by
  intro who i q hq
  rw [hr]
  exact h who i q (by rw [← State.pair?_congr hp]; exact hq)

theorem State.pairsOk.mapped {s t : State} (h : s.pairsOk) (hr : t.rate = s.rate)
    (hp : ∀ who i q', t.pair? who i = some q' → ∃ q, s.pair? who i = some q ∧ (q.inRange s.rate → q'.inRange s.rate)) :
    t.pairsOk := by
  intro who i q' hq'
  obtain ⟨q, hq, himp⟩ := hp who i q' hq'
  rw [hr]
  exact himp (h who i q hq)

theorem State.audioOk.congr {s t : State} (h : s.audioOk) (hp : t.pairs = s.pairs) (hr : t.rate = s.rate)
    (ha : t.align = s.align) (hm : t.moves = s.moves) (hb : t.bus.clips = s.bus.clips) : t.audioOk := by
  obtain ⟨h1, h2, h3, h4⟩ := h
  exact ⟨h1.congr hp hr, by rw [ha]; exact h2, by rw [hm]; exact h3, by rw [hb]; exact h4⟩

section
variable {s : State} (h : s.audioOk)
include h

/-- A change of the pairs. -/
theorem State.audioOk.ofPairs {t : State} (hp : t.pairsOk) (ha : t.align = s.align) (hm : t.moves = s.moves)
    (hb : t.bus.clips = s.bus.clips) : t.audioOk :=
  ⟨hp, by rw [ha]; exact h.2.1, by rw [hm]; exact h.2.2.1, by rw [hb]; exact h.2.2.2⟩

theorem State.audioOk.updatePairs (i : Input) {f : Pair → Pair} (hf : ∀ q : Pair, q.inRange s.rate → (f q).inRange s.rate) :
    (s.updatePairs i f).audioOk := by
  refine h.ofPairs (h.1.mapped rfl fun who j q' hq' => ?_) rfl rfl rfl
  rw [State.pair?_updatePairs] at hq'
  split at hq'
  · obtain ⟨q, hq, rfl⟩ := Option.map_eq_some_iff.mp hq'
    exact ⟨q, hq, hf q⟩
  · exact ⟨q', hq', id⟩

theorem State.audioOk.updatePair (who : Party) (i : Input) {f : Pair → Pair}
    (hf : ∀ q : Pair, q.inRange s.rate → (f q).inRange s.rate) : (s.updatePair who i f).audioOk := by
  refine h.ofPairs (h.1.mapped rfl fun who' j q' hq' => ?_) rfl rfl rfl
  rw [State.pair?_updatePair] at hq'
  split at hq'
  · obtain ⟨q, hq, rfl⟩ := Option.map_eq_some_iff.mp hq'
    exact ⟨q, hq, hf q⟩
  · exact ⟨q', hq', id⟩

theorem State.audioOk.turnGates (i : Input) : (s.turnGates i).audioOk := by
  refine h.ofPairs (h.1.mapped rfl fun who j q' hq' => ?_) rfl rfl rfl
  rw [State.pair?_turnGates] at hq'
  split at hq'
  · obtain ⟨q, hq, rfl⟩ := Option.map_eq_some_iff.mp hq'
    exact ⟨q, hq, fun hq => hq.turnGate _ _⟩
  · exact ⟨q', hq', id⟩

/-- A change of one input's move. -/
theorem State.audioOk.modMove (i : Input) {f : MoveCtl → MoveCtl} (hf : (f (s.moves.get i)).move.countOk) :
    (s.modMove i f).audioOk := by
  obtain ⟨h1, h2, h3, h4⟩ := h
  refine ⟨h1.congr rfl rfl, h2, fun j => ?_, h4⟩
  simp only [State.modMove, Tab.get_modify]
  split
  · rename_i hj
    rw [hj]
    exact hf
  · exact h3 j

theorem State.audioOk.modMove_same (i : Input) {f : MoveCtl → MoveCtl} (hf : ∀ m, (f m).move = m.move) :
    (s.modMove i f).audioOk := h.modMove i (by rw [hf]; exact h.2.2.1 i)

theorem State.audioOk.modPhantom (i : Input) (f : PhantomCtl → PhantomCtl) : (s.modPhantom i f).audioOk :=
  h.congr rfl rfl rfl rfl rfl

theorem State.audioOk.modBus {f : Bus → Bus} (hf : (f s.bus).clips = s.bus.clips) : (s.modBus f).audioOk :=
  h.congr rfl rfl rfl rfl hf

/-! Targets and owners. -/

theorem State.audioOk.handTarget (i : Input) (t : Setting) : (s.handTarget i t).audioOk := by
  obtain ⟨h1, h2, h3, h4⟩ := h
  refine ⟨h1.congr rfl rfl, h2, fun j => ?_, fun j => ?_⟩
  · simp only [State.handTarget, Tab.get_set]
    split
    · exact MoveCtl.deal_countOk (h3 i) _ _
    · exact h3 j
  · unfold State.handTarget
    dsimp only
    split <;> exact h4 j

theorem State.audioOk.dealPending (i : Input) : (s.dealPending i).audioOk := by
  unfold State.dealPending
  split
  · exact h.handTarget i _
  all_goals exact h

theorem State.audioOk.handOwnerTarget (i : Input) : (s.handOwnerTarget i).audioOk := by
  unfold State.handOwnerTarget
  split
  · exact h
  · exact h.handTarget i _

theorem State.audioOk.changeOwner (i : Input) (who : Option Party) : (s.changeOwner i who).audioOk := by
  have h1 : (s.modOwn i (Ownership.give who)).audioOk := h.congr rfl rfl rfl rfl rfl
  exact (h1.handOwnerTarget i).congr rfl rfl rfl rfl rfl

theorem State.audioOk.setLevel (who : Party) (i : Input) {level : Option Int} (hl : levelOk level) :
    (s.setLevel who i level).audioOk := by
  have h1 := h.updatePair who i (f := Pair.storeLevel (s.moves.get i).status (s.analog i) level)
    fun q hq => hq.storeLevel _ _ hl
  unfold State.setLevel
  dsimp only
  split
  · exact h1.handOwnerTarget i
  · exact h1

theorem State.audioOk.setMute (who : Party) (i : Input) (on : Bool) : (s.setMute who i on).audioOk := by
  have h1 := h.updatePair who i (f := fun q =>
    Pair.turnGate s.rate.fade (s.phantoms.get i).seq { q with mute := on }) fun q hq =>
      Pair.inRange.turnGate (q := { q with mute := on }) hq _ _
  exact h1.congr rfl rfl rfl rfl rfl

theorem State.audioOk.passToPanel (k : Seat) (i : Input) : (s.passToPanel k i).audioOk := by
  unfold State.passToPanel
  dsimp only
  refine State.audioOk.changeOwner ?_ i _
  refine h.updatePair _ _ fun q hq => hq.storeLevel _ _ ?_
  split
  · exact levelOk_none
  · rename_i q' hq'
    exact (h.1 _ i q' hq').1

theorem State.audioOk.handOn (k : Seat) (i : Input) : (s.handOn k i).audioOk := by
  unfold State.handOn
  split
  · split
    · exact h.passToPanel k i
    · exact h.changeOwner i _
  · exact h

theorem State.audioOk.erase (k : Seat) : (s.erase k).audioOk := by
  have h1 := foldl_inv (fun acc i => State.handOn k i acc) State.audioOk (fun _ i hs => hs.handOn k i) allInputs s h
  unfold State.erase
  dsimp only
  generalize allInputs.foldl (fun acc i => State.handOn k i acc) s = u at h1
  refine h1.ofPairs (h1.1.mapped rfl fun who i q hq => ⟨q, ?_, id⟩) rfl rfl rfl
  cases who with
  | panel => exact hq
  | consumer k' =>
    simp only [State.pair?, PairStore.get, Tab.get_set] at hq ⊢
    split at hq
    · cases hq
    · exact hq

theorem State.audioOk.keepExpired (k : Seat) : (s.keepExpired k).audioOk := by
  unfold State.keepExpired
  split
  · exact h
  · exact h.erase k

theorem State.audioOk.createConsumer (k : Seat) (r : BindReport) : (s.createConsumer k r).audioOk := by
  refine h.ofPairs (fun who i q hq => ?_) rfl rfl rfl
  cases who with
  | panel => exact h.1 .panel i q hq
  | consumer k' =>
    by_cases hk : k' = k
    · subst hk
      simp only [State.pair?, PairStore.get, State.createConsumer, Tab.get_set_self, Option.map_some, State.freshPairs,
        Tab.get_ofFn, Option.some.injEq] at hq
      subst hq
      exact Pair.fresh_inRange _ _ _ _
    · refine h.1 (.consumer k') i q ?_
      simpa only [State.pair?, PairStore.get, State.createConsumer, Tab.get_set, hk, if_false] using hq

theorem State.audioOk.bind (r : BindReport) : (s.bind r).1.audioOk := by
  unfold State.bind
  split
  · split
    · exact h.createConsumer _ r
    · split
      · exact (h.erase _).createConsumer _ r
      · exact h
  · split
    · exact h
    · split
      · split
        · exact h.congr rfl rfl rfl rfl rfl
        · exact (h.erase _).createConsumer _ r
      · split
        · exact h.congr rfl rfl rfl rfl rfl
        · exact h

theorem State.audioOk.matchConfirm (p : Port) (tag : Byte) (c : PartnerConfirm) : (s.matchConfirm p tag c).audioOk := by
  have fault : ∀ {u : State}, u.audioOk → ∀ why nonce, (u.enterFault p why tag nonce).audioOk :=
    fun hu why nonce => hu.congr (by simp) (by simp) (by simp) (by simp) (by simp)
  have bound : ∀ pg r, (s.enterBound p tag pg r).audioOk := by
    intro pg r
    have hb : (State.bind (bindReport p pg r)
        ((s.modPort p fun q => { q.goTo .bound with timer := none }).raiseLink p (s.ports.get p).state noFlags)).1.audioOk := by
      refine State.audioOk.bind ?_ _
      exact h.congr rfl rfl rfl rfl rfl
    unfold State.enterBound
    dsimp only
    split
    · rename_i u hu
      rw [hu] at hb
      exact State.audioOk.congr hb (by simp) (by simp) (by simp) (by simp) (by simp)
    · rename_i u why hu
      rw [hu] at hb
      exact fault hb _ _
  unfold State.matchConfirm
  split
  · split
    · exact bound _ _
    · exact fault h _ _
  · exact fault h _ _
  · exact fault h _ _

theorem State.audioOk.choosePad (i : Input) (pad : Bool) : (s.choosePad i pad).audioOk := by
  have h1 : (s.modOwn i fun o => { o with padChoice := pad }).audioOk := h.congr rfl rfl rfl rfl rfl
  unfold State.choosePad
  dsimp only
  split <;> exact h1.handTarget i _

theorem State.audioOk.arbiterAdopts (i : Input) : (s.arbiterAdopts i).audioOk := by
  unfold State.arbiterAdopts
  split
  · exact h.congr rfl rfl rfl rfl rfl
  · exact h.handOwnerTarget i

/-! Phantom sequences. -/

theorem State.audioOk.startSequence (i : Input) (on : Bool) : (s.startSequence i on).audioOk :=
  State.audioOk.congr ((h.modPhantom i _).turnGates i) rfl rfl rfl rfl rfl

theorem State.audioOk.enterFadeIn (i : Input) : (s.enterFadeIn i).audioOk := (h.modPhantom i _).turnGates i

theorem State.audioOk.enterWriting (i : Input) : (s.enterWriting i).audioOk := by
  refine h.congr rfl rfl rfl rfl ?_
  unfold State.enterWriting
  dsimp only
  split <;> rfl

theorem State.audioOk.raisePhantom (i : Input) (o : PhantomOutcome) : (s.raisePhantom i o).audioOk :=
  h.congr rfl rfl rfl rfl rfl

theorem State.audioOk.raiseEnd (i : Input) (o : Option SeqOutcome) : (s.raiseEnd i o).audioOk := by
  unfold State.raiseEnd
  split
  · exact h
  · exact h.raisePhantom i _

theorem State.audioOk.endSequence (i : Input) : (s.endSequence i).audioOk :=
  State.audioOk.dealPending (State.audioOk.raiseEnd (h.modPhantom i _) i _) i

theorem State.audioOk.endFadeOut (i : Input) : (s.endFadeOut i).audioOk := by
  unfold State.endFadeOut
  split
  · exact h.enterWriting i
  · exact h

theorem State.audioOk.endFadeIn (i : Input) : (s.endFadeIn i).audioOk := by
  unfold State.endFadeIn
  split
  · exact h.endSequence i
  · exact h

theorem State.audioOk.settleExpired (i : Input) : (s.settleExpired i).audioOk := by
  unfold State.settleExpired
  split
  · split
    · exact State.audioOk.enterWriting (h.modPhantom i _) i
    · exact h.enterFadeIn i
  · exact h

theorem State.audioOk.phantomTaken (i : Input) : (s.phantomTaken i).audioOk := by
  unfold State.phantomTaken
  split
  · exact State.audioOk.modPhantom (h.modPhantom i _) i _
  · exact h

theorem State.audioOk.phantomNotTaken (i : Input) : (s.phantomNotTaken i).audioOk := by
  unfold State.phantomNotTaken
  split
  · exact State.audioOk.enterFadeIn (h.modPhantom i _) i
  · exact h

theorem State.audioOk.phantomInFadeOut (i : Input) (on : Bool) : (s.phantomInFadeOut i on).audioOk := by
  unfold State.phantomInFadeOut
  split_ifs
  · exact h
  · exact State.audioOk.enterFadeIn (h.modPhantom i _) i
  · exact h.modPhantom i _

theorem State.audioOk.phantomRequest (i : Input) (on : Bool) : (s.phantomRequest i on).audioOk := by
  unfold State.phantomRequest
  split
  · split_ifs
    · exact h.modPhantom i _
    · exact h.modPhantom i _
    · exact h.startSequence i on
  · exact h.phantomInFadeOut i on
  · exact h.modPhantom i _
  · exact h.modPhantom i _
  · split_ifs
    · exact h
    · exact h.startSequence i on

theorem State.audioOk.startHeld (i : Input) : (s.startHeld i).audioOk := by
  unfold State.startHeld
  split
  · exact h
  · exact State.audioOk.startSequence (h.modPhantom i _) i _

theorem State.audioOk.failSequence (i : Input) : (s.failSequence i).audioOk :=
  State.audioOk.enterFadeIn (h.modPhantom i _) i

theorem State.audioOk.faultPhantom (i : Input) : (s.faultPhantom i).audioOk := by
  unfold State.faultPhantom
  split
  · unfold State.dropHeld
    split
    · exact h
    · exact State.audioOk.raisePhantom (h.modPhantom i _) i _
  all_goals exact h.failSequence i

theorem State.audioOk.phantomFault (i : Input) : (s.phantomFault i).audioOk := by
  have h1 := State.audioOk.raisePhantom (h.modPhantom i fun q => { q with phantom := .faulted }) i .fault
  unfold State.phantomFault
  split
  · exact h
  · unfold State.faultDuringSettle
    split
    · exact State.audioOk.enterFadeIn (h1.modPhantom i _) i
    · exact h1

/-! The ends of moves. -/

theorem State.audioOk.endMove (i : Input) (o : MovedOutcome) : (s.endMove i o).audioOk := by
  have h1 : (s.modMove i fun m => { m with move := .idle }).audioOk := h.modMove i Move.countOk_idle
  have h2 : ((s.modMove i fun m => { m with move := .idle }).raiseMoved i o).audioOk := h1.congr rfl rfl rfl rfl rfl
  exact (h2.startHeld i).dealPending i

theorem State.audioOk.land (i : Input) (t : Setting) : (s.land i t).audioOk := by
  have h1 := h.modMove_same i (f := fun m => { m with setting := t }) fun _ => rfl
  refine State.audioOk.endMove ?_ i _
  exact h1.updatePairs i fun q hq => hq.land _ _ _

theorem State.audioOk.landIfDue (i : Input) : (s.landIfDue i).audioOk := by
  unfold State.landIfDue
  split
  · exact h.land i _
  all_goals exact h

theorem State.audioOk.landingBoundary (i : Input) : (s.landingBoundary i).audioOk := by
  unfold State.landingBoundary
  split
  · exact h.land i _
  · rename_i t n hm
    have hle := h.2.2.1 i t (n + 1) hm
    exact h.modMove i (by rintro a m ⟨⟩; omega)
  all_goals exact h

theorem State.audioOk.moveTaken (i : Input) : (s.moveTaken i).audioOk := by
  unfold State.moveTaken
  split
  · exact h.modMove i (by rintro a m ⟨⟩; exact h.2.1)
  all_goals exact h

theorem State.audioOk.moveNotTaken (i : Input) : (s.moveNotTaken i).audioOk := by
  unfold State.moveNotTaken
  split
  · refine State.audioOk.endMove ?_ i _
    exact h.modMove_same i fun _ => rfl
  all_goals exact h

theorem State.audioOk.faultMove (i : Input) : (s.faultMove i).audioOk := by
  have h1 : (s.modMove i MoveCtl.abandon).audioOk := h.modMove i Move.countOk_idle
  exact h1.updatePairs i fun q hq => hq.settleTrim _ _ _

theorem State.audioOk.becomeKnown (i : Input) (t : Setting) : (s.becomeKnown i t).audioOk := by
  have h1 := h.modMove_same i (f := fun m => { m with setting := t, failed := none, status := .known }) fun _ => rfl
  exact h1.updatePairs i fun q hq => hq.retarget _ _

theorem State.audioOk.adopt (startUp : Bool) (i : Input) (w : Byte) : (s.adopt startUp i w).audioOk := by
  have h1 := h.becomeKnown i (wordSetting w)
  refine State.audioOk.modPhantom (State.audioOk.dealPending (State.audioOk.arbiterAdopts ?_ i) i) i _
  split
  · exact h1
  · exact h1.congr rfl rfl rfl rfl rfl

/-! Chips. -/

theorem State.audioOk.faultMoves (c : Chip) : ((chipInputs c).foldl (fun acc i => State.faultMove i acc) s).audioOk :=
  foldl_inv _ State.audioOk (fun _ i hs => hs.faultMove i) _ s h

theorem State.audioOk.raiseChip (c : Chip) : (s.raiseChip c).audioOk := h.congr rfl rfl rfl rfl rfl

theorem State.audioOk.chipFault (c : Chip) : (s.chipFault c).audioOk := by
  have h1 : (s.modBus (Bus.faultChip c)).audioOk := h.modBus rfl
  have h2 := foldl_inv (fun acc i => State.faultPhantom i acc) State.audioOk (fun _ i hs => hs.faultPhantom i)
    (chipInputs c) _ (h1.faultMoves c)
  unfold State.chipFault
  exact State.audioOk.raiseChip h2 c

theorem State.audioOk.adoptChip (startUp : Bool) (c : Chip) (ws : List Byte) : (s.adoptChip startUp c ws).audioOk := by
  have h1 : (s.modBus fun b => { Bus.takeWords c ws b with chips := b.chips.set c .ok, probe := [] }).audioOk :=
    h.modBus rfl
  have h2 := foldl_inv (fun acc i => State.adopt startUp i (acc.bus.shadow.get i) acc) State.audioOk
    (fun _ i hs => hs.adopt startUp i _) (chipInputs c) _ h1
  unfold State.adoptChip
  exact State.audioOk.raiseChip h2 c

theorem State.audioOk.writeTaken (c : Command) (w : Byte) : (s.writeTaken c w).audioOk := by
  have h1 : (s.modBus fun b => { b with shadow := b.shadow.set c.input w }).audioOk := h.modBus rfl
  cases c with
  | gain i pad p => exact h1.moveTaken i
  | phantom i on => exact h1.phantomTaken i

theorem State.audioOk.writeReplied (c : Command) (o n : Byte) (reply : Option Byte) :
    (s.writeReplied c o n reply).audioOk := by
  unfold State.writeReplied
  split
  · exact h.writeTaken c n
  · exact h.modBus rfl

theorem State.audioOk.verified (c : Command) (o n : Byte) (w : Option Byte) : (s.verified c o n w).audioOk := by
  unfold State.verified
  split_ifs
  · exact h.writeTaken c n
  · cases c with
    | gain i pad p => exact h.moveNotTaken i
    | phantom i on => exact h.phantomNotTaken i
  · exact h.chipFault _

theorem State.audioOk.clipLatched (i : Input) : (s.clipLatched i).audioOk := by
  unfold State.clipLatched
  split
  · rename_i hlt
    obtain ⟨h1, h2, h3, h4⟩ := h
    refine ⟨h1.congr rfl rfl, h2, h3, fun j => ?_⟩
    simp only [State.raise, State.modBus, Tab.get_set]
    split
    · exact hlt
    · exact h4 j
  · exact h

theorem State.audioOk.statusEnded (i : Input) (v : Option Byte) : (s.statusEnded i v).audioOk := by
  have h1 : (s.modBus fun b => { b with pollPos := nextInput i }).audioOk := h.modBus rfl
  have latched : ∀ {u : State}, u.audioOk → (u.faultLatched i).audioOk := fun {u} hu =>
    State.audioOk.phantomFault (hu.modBus rfl) i
  unfold State.statusEnded
  cases v with
  | none => exact h1.chipFault _
  | some x =>
    dsimp only
    split_ifs
    · exact latched (h1.clipLatched i)
    · exact latched h1
    · exact h1.clipLatched i
    · exact h1

theorem State.audioOk.identityEnded (c : Chip) (v : Option Byte) : (s.identityEnded c v).audioOk := by
  refine h.modBus ?_
  dsimp only
  split <;> rfl

theorem State.audioOk.adoptionEnded (c : Chip) (k : Channel) (w : Option Byte) : (s.adoptionEnded c k w).audioOk := by
  unfold State.adoptionEnded
  cases w with
  | none => exact h.modBus rfl
  | some x =>
    dsimp only
    split
    · exact h.adoptChip false c _
    · exact h.modBus rfl

omit h in
theorem Bus.next_clips (b : Bus) : b.next.clips = b.clips := by
  unfold Bus.next
  split
  · rfl
  · split <;> rfl

theorem State.audioOk.beginNext : s.beginNext.audioOk := by
  obtain ⟨h1, h2, h3, h4⟩ := h
  refine ⟨h1.congr rfl rfl, h2, fun j => ?_, fun j => ?_⟩
  · unfold State.beginNext
    dsimp only
    split
    · rw [Tab.get_modify]
      split
      · exact MoveCtl.goOnWire_countOk (h3 _)
      · exact h3 j
    · exact h3 j
  · rw [show s.beginNext.bus = s.bus.next from rfl, Bus.next_clips]
    exact h4 j

theorem State.audioOk.passTxn (t : Txn) : (s.passTxn t).audioOk := h.modBus rfl

theorem State.audioOk.nextChip (c : Chip) : (s.nextChip c).audioOk := by
  have h1 : (s.modBus fun b => { b with pass := .ready, pollPos := 0 }).audioOk := h.modBus rfl
  have h2 := h1.congr (t := (s.modBus fun b => { b with pass := .ready, pollPos := 0 }).readyPorts) (by simp) (by simp)
    (by simp) (by simp) (by simp)
  unfold State.nextChip
  split
  · exact h.passTxn _
  · exact h2.beginNext

theorem State.audioOk.passFailsChip (c : Chip) : (s.passFailsChip c).audioOk := by
  refine State.audioOk.nextChip (State.audioOk.raiseChip ?_ c) c
  exact h.modBus rfl

theorem State.audioOk.startIdentityEnded (c : Chip) (v : Option Byte) : (s.startIdentityEnded c v).audioOk := by
  unfold State.startIdentityEnded
  split_ifs
  · exact State.audioOk.passTxn (s := s.modBus fun b => { b with probe := [] }) (h.modBus rfl) _
  · exact h.passTxn _
  · exact h.passFailsChip c

theorem State.audioOk.startWriteTaken (c : Chip) (k : Channel) : (s.startWriteTaken c k).audioOk := by
  have h1 : (s.modBus fun b => { b with shadow := b.shadow.set (inputAt c k) 0#8 }).audioOk := h.modBus rfl
  have h2 := (h1.becomeKnown (inputAt c k) (wordSetting 0#8)).modPhantom (inputAt c k) fun q => { q with phantom := .off }
  unfold State.startWriteTaken
  dsimp only
  split
  · exact h2.passTxn _
  · exact State.audioOk.nextChip (State.audioOk.raiseChip (h2.modBus rfl) c) c

theorem State.audioOk.startVerified (c : Chip) (k : Channel) (w : Option Byte) : (s.startVerified c k w).audioOk := by
  unfold State.startVerified
  split
  · exact h.startWriteTaken c k
  · exact (h.faultMoves c).passFailsChip c

theorem State.audioOk.startAdoptionEnded (c : Chip) (k : Channel) (w : Option Byte) :
    (s.startAdoptionEnded c k w).audioOk := by
  unfold State.startAdoptionEnded
  cases w with
  | none => exact h.passFailsChip c
  | some x =>
    dsimp only
    split
    · exact State.audioOk.passTxn (s := s.modBus fun b => { b with probe := b.probe ++ [x] }) (h.modBus rfl) _
    · exact (h.adoptChip true c _).nextChip c

/-! The sample period and the box rate. -/

theorem State.audioOk.rampPairs : s.rampPairs.audioOk := by
  refine h.ofPairs (h.1.mapped rfl fun who i q' hq' => ?_) rfl rfl rfl
  have : (s.pairs.get who i).map (Pair.rampAdvance s.rate (s.moves.get i).status (s.analog i)) = some q' := by
    rw [← hq']
    exact (PairStore.get_mapAll s.pairs i
      (fun i q => q.rampAdvance s.rate (s.moves.get i).status (s.analog i)) who).symm
  obtain ⟨q, hq, rfl⟩ := Option.map_eq_some_iff.mp this
  exact ⟨q, hq, fun hq => hq.rampAdvance _ _⟩

theorem State.audioOk.stepGates : s.stepGates.audioOk := by
  refine h.ofPairs (h.1.mapped rfl fun who i q' hq' => ?_) rfl rfl rfl
  simp only [State.pair?, State.stepGates, PairStore.get_mapAll] at hq'
  obtain ⟨q, hq, rfl⟩ := Option.map_eq_some_iff.mp hq'
  exact ⟨q, hq, fun hq => hq.gateStep _⟩

theorem State.audioOk.formFrames (x : Tab 48 Sample) : (s.formFrames x).audioOk := by
  refine h.ofPairs (h.1.mapped rfl fun who i q' hq' => ?_) rfl rfl rfl
  cases who with
  | panel => exact ⟨q', hq', id⟩
  | consumer k =>
    simp only [State.pair?, State.formFrames, PairStore.get, State.countClips, Tab.get_imap, Option.map_map] at hq' ⊢
    obtain ⟨t, ht, rfl⟩ := Option.map_eq_some_iff.mp hq'
    refine ⟨t.get i, by rw [ht]; rfl, fun hq => ?_⟩
    simp only [Function.comp_apply, Tab.get_imap]
    split
    · exact hq.countClip _ _
    · exact hq

theorem State.audioOk.samplePeriod (x : Tab 48 Sample) : (s.samplePeriod x).audioOk := by
  have h0 : s.tick.audioOk := h.congr rfl rfl rfl rfl rfl
  have h1 : s.tick.landings.audioOk :=
    foldl_inv (fun acc i => State.landingBoundary i acc) State.audioOk (fun _ i hs => hs.landingBoundary i) allInputs _ h0
  have h2 : s.tick.landings.takeMaps.audioOk := h1.congr (by simp) (by simp) (by simp) (by simp) (by simp)
  have h3 := h2.rampPairs.stepGates.formFrames x
  unfold State.samplePeriod State.endFades
  exact foldl_inv (fun acc i => State.endFadeIn i (State.endFadeOut i acc)) State.audioOk
    (fun _ i hs => (hs.endFadeOut i).endFadeIn i) allInputs _ h3

theorem State.audioOk.rampStep (who : Party) (i : Input) : (s.rampStep who i).audioOk := by
  unfold State.rampStep
  split
  · exact h
  · split
    · exact h.updatePair who i fun q hq => hq.rampStep (s.moves.get i).status (s.analog i)
    · exact h

theorem State.audioOk.changeRate (r : BoxRate) : (s.changeRate r).audioOk := by
  have h1 : ({ s with rate := r }.restPairs).pairsOk := by
    intro who i q' hq'
    have : (s.pairs.get who i).map (Pair.rest r.fade (s.moves.get i).status (s.analog i)) = some q' := by
      rw [← hq']
      exact (PairStore.get_mapAll s.pairs i
        (fun i q => Pair.rest r.fade (s.moves.get i).status (s.analog i) q) who).symm
    obtain ⟨q, hq, rfl⟩ := Option.map_eq_some_iff.mp this
    exact ((Pair.inRange_iff s.rate q).mp (h.1 who i q hq)).1.rest _ _ _ _
  have h2 : ({ s with rate := r }.restPairs).audioOk := h.ofPairs h1 rfl rfl rfl
  exact h2.congr (by simp [State.changeRate]) (by simp [State.changeRate]) (by simp [State.changeRate])
    (by simp [State.changeRate]) (by simp [State.changeRate])

theorem State.audioOk.setAlign (d : Nat) : { s with align := min d 255 }.audioOk :=
  ⟨h.1.congr rfl rfl, min_le_right _ _, h.2.2⟩

end

theorem State.blocksReset_audioOk {b : Bus} (hb : b.clips = Tab.const 48 0) (s : State) : (s.blocksReset b).audioOk := by
  refine ⟨fun who i q hq => ?_, by simp [State.blocksReset, State.reset], fun i => ?_, fun i => ?_⟩
  · cases who with
    | panel =>
      simp only [State.pair?, State.blocksReset, State.reset, PairStore.atPowerOn, PairStore.get, Tab.get_const,
        Option.some.injEq] at hq
      subst hq
      exact ⟨levelOk_none, by simp [Pair.atPowerOn], by simp [Pair.atPowerOn], BoxRate.rampInterval_pos _, Nat.zero_le _⟩
    | consumer k => simp [State.pair?, State.blocksReset, State.reset, PairStore.atPowerOn, PairStore.get] at hq
  · simp only [State.blocksReset, State.reset, Tab.get_const]
    exact Move.countOk_idle
  · simp [State.blocksReset, hb]

theorem State.restartNow_audioOk (s : State) : s.restartNow.audioOk := by
  unfold State.restartNow
  split
  · exact State.audioOk.passTxn (s.blocksReset_audioOk (b := { Bus.atPowerOn with adopting := true }) rfl) _
  · exact s.blocksReset_audioOk rfl

/-! ## Every step -/

theorem audioOk_blind : BlindToLanes State.audioOk :=
  ⟨fun _ _ _ h => h.congr rfl rfl rfl rfl rfl, fun _ _ h => h.congr rfl rfl rfl rfl rfl,
    fun _ _ h => h.congr rfl rfl rfl rfl rfl⟩

theorem audioOk_records (l : LaneId) : KeptByRecords l State.audioOk State.audioOk where
  stays _ h := h.1
  reply _ _ _ _ _ h _ := h.1.congr rfl rfl rfl rfl rfl
  consumer _ _ _ h := h.1.congr rfl rfl rfl rfl rfl
  level who i field _ h := h.setLevel who i (storedLevel_ok field)
  mute _ _ _ _ h := h.setMute _ _ _
  map _ _ _ h := h.congr rfl rfl rfl rfl rfl
  take _ _ _ h _ _ := h.changeOwner _ _
  wait _ _ _ h _ _ _ _ := h.congr rfl rfl rfl rfl rfl
  release _ _ h := h.changeOwner _ _
  leave _ _ _ h := h.congr rfl rfl rfl rfl rfl
  pad _ _ _ h := h.choosePad _ _
  phantom _ _ _ h := h.phantomRequest _ _
  clearSat who i _ h :=
    (h.updatePair who i (f := fun q => { q with sat := 0 }) fun _ hq => hq.setSat (Nat.zero_le _)).congr rfl rfl rfl rfl rfl
  clearSets _ _ _ h := h.congr rfl rfl rfl rfl rfl
  clearCounters _ _ _ h := h.congr rfl rfl rfl rfl rfl
  lock _ _ _ h := h.congr rfl rfl rfl rfl rfl
  force _ _ h := h.changeOwner _ _
  rate _ _ h := h.changeRate _
  align _ _ h := h.setAlign _
  resetHold _ _ h := h.congr (by simp) (by simp) (by simp) (by simp) (by simp)
  resetFlush _ _ h := h.congr rfl rfl rfl rfl rfl
  restart _ _ h := h.congr rfl rfl rfl rfl rfl
  ignore _ h := h.congr rfl rfl rfl rfl rfl
  reoffer _ _ _ _ _ _ h _ _ := h.congr (by simp) (by simp) (by simp) (by simp) (by simp)
  resolveOffer _ _ _ _ _ _ h _ _ := h.congr (by simp) (by simp) (by simp) (by simp) (by simp)
  matchConfirm _ _ _ _ _ h _ := h.matchConfirm _ _ _

theorem audioOk_bus : KeptByBus State.audioOk where
  write c o n reply _ h _ := (h.writeReplied c o n reply).beginNext
  verify c o n w _ h _ := (h.verified c o n w).beginNext
  status i v _ h := (h.statusEnded i v).beginNext
  identity c v _ h := (h.identityEnded c v).beginNext
  adoption c k w _ h _ := (h.adoptionEnded c k w).beginNext
  startIdentity c v _ h := h.startIdentityEnded c v
  startWrite c k _ h := h.startWriteTaken c k
  startTimeout _ _ _ h := h.passTxn _
  startVerify c k w _ h := h.startVerified c k w
  startAdoption c k w _ h _ := h.startAdoptionEnded c k w
  discard _ h := h.passTxn _

theorem audioOk_step : KeptByStep State.audioOk where
  pending _ _ h := h.congr rfl rfl rfl rfl rfl
  powerOn s _ := State.audioOk.passTxn (s.blocksReset_audioOk (b := Bus.atPowerOn) rfl) _
  restart s _ := s.restartNow_audioOk
  samplePeriod x _ h := h.samplePeriod x
  rampStep who i _ h := h.rampStep who i
  landing i _ h := h.landIfDue i
  fadeOutEnd i _ h := h.endFadeOut i
  fadeInEnd i _ h := h.endFadeIn i
  settle i _ h := h.settleExpired i
  keep k _ h := h.keepExpired k
  carrierArrival _ _ h := h.congr (by simp) (by simp) (by simp) (by simp) (by simp)
  carrierLoss _ _ h := h.congr (by simp) (by simp) (by simp) (by simp) (by simp)
  character l v parity stop start _ h := audioOk_blind.character audioOk_records h
    (fun _ _ h => h.congr (by simp) (by simp) (by simp) (by simp) (by simp)) l v parity stop start
  break_ _ _ h := h.congr (by simp) (by simp) (by simp) (by simp) (by simp)
  byte l _ h := audioOk_blind.byteSent audioOk_records h (fun s _ => s.restartNow_audioOk) l
  breakEnd _ _ h := h.congr rfl rfl rfl rfl rfl
  hold _ _ h := h.congr (by simp) (by simp) (by simp) (by simp) (by simp)
  offerWait _ _ h := h.congr (by simp) (by simp) (by simp) (by simp) (by simp)
  confirmWait _ _ h := h.congr (by simp) (by simp) (by simp) (by simp) (by simp)
  inhibit _ _ h := h.congr (by simp) (by simp) (by simp) (by simp) (by simp)
  record l kind tag fields _ h := audioOk_blind.deliver audioOk_records h l kind tag fields
  bus := audioOk_bus

end Sys2Proof.Machine
end

section
/-! PROOF. Every step keeps the names within 16 bytes (R164), and the receive queues and the counters within their bounds
(R151, R156). -/

namespace Sys2Proof.Machine

/-! ## Names -/

/-- The names of the table and of the partner pages are of at most 16 bytes. -/
def State.namesOk (s : State) : Prop :=
  (∀ k c, s.entries.get k = some c → c.name.length ≤ 16) ∧ ∀ p pg, (s.ports.get p).page = some pg → pg.name.length ≤ 16

theorem parseOffer_name {fields : List Byte} {o : PartnerOffer} (h : parseOffer fields = some o) : o.name.length ≤ 16 := by
  unfold parseOffer at h
  split at h
  · split at h
    · rename_i hlen
      cases h
      exact hlen.1.trans_le hlen.2
    · cases h
  · cases h

theorem State.namesOk.congr {s t : State} (h : s.namesOk) (he : t.entries = s.entries) (hp : t.ports = s.ports) :
    t.namesOk := by
  unfold State.namesOk
  rw [he, hp]
  exact h

section
variable {s : State} (h : s.namesOk)
include h

theorem State.namesOk.modPort (p : Port) {f : LinkPort → LinkPort}
    (hf : ∀ pg, (f (s.ports.get p)).page = some pg → pg.name.length ≤ 16) : (s.modPort p f).namesOk := by
  refine ⟨h.1, fun p' pg => ?_⟩
  simp only [State.modPort, Tab.get_modify]
  split
  · rename_i hp
    rw [hp]
    exact hf pg
  · exact h.2 p' pg

/-- A change of a port that keeps its page or discards it. -/
theorem State.namesOk.modPort_same (p : Port) {f : LinkPort → LinkPort}
    (hf : ∀ q, (f q).page = q.page ∨ (f q).page = none) : (s.modPort p f).namesOk := by
  refine h.modPort p fun pg hpg => ?_
  rcases hf (s.ports.get p) with hq | hq <;> rw [hq] at hpg
  · exact h.2 p pg hpg
  · cases hpg

/-- An entry takes a consumer, or none, whose name fits. -/
theorem State.namesOk.setEntry {t : State} {k : Seat} {o : Option Consumer} (he : t.entries = s.entries.set k o)
    (hp : t.ports = s.ports) (ho : ∀ c, o = some c → c.name.length ≤ 16) : t.namesOk := by
  unfold State.namesOk
  rw [hp, he]
  refine ⟨fun k' c hc => ?_, h.2⟩
  rw [Tab.get_set] at hc
  split at hc
  · exact ho c hc
  · exact h.1 k' c hc

theorem State.namesOk.unbind (p : Port) (stamp : Nat) : (s.unbind p stamp).namesOk := by
  unfold State.unbind
  split
  · exact h
  · rename_i k _
    refine h.setEntry rfl rfl fun c hc => ?_
    obtain ⟨c0, hc0, rfl⟩ := Option.map_eq_some_iff.mp hc
    exact h.1 k c0 hc0

theorem State.namesOk.leaveBound (p : Port) (stamp : Nat) : (s.leaveBound p stamp).namesOk :=
  (h.unbind p stamp).congr rfl (by simp)

theorem State.namesOk.leaveIfBound (p : Port) (stamp : Nat) : (s.leaveIfBound p stamp).namesOk := by
  unfold State.leaveIfBound
  split
  · exact h.leaveBound p stamp
  · exact h

theorem State.namesOk.enterHold (p : Port) (flags : Tab 12 Bool) (stamp : Nat) : (s.enterHold p flags stamp).namesOk := by
  have h1 := (h.leaveIfBound p stamp).modPort_same p
    (f := fun q => { q.discardAll.goTo .hold with timer := some (.hold, s.clock) }) fun _ => .inr rfl
  exact h1.congr (by simp [State.enterHold]) (by simp [State.enterHold, State.modPort])

theorem State.namesOk.enterDown (p : Port) (flags : Tab 12 Bool) (stamp : Nat) : (s.enterDown p flags stamp).namesOk := by
  have h1 := (h.leaveIfBound p stamp).modPort_same p (f := fun q => q.discardAll.goTo .down) fun _ => .inr rfl
  exact h1.congr (by simp [State.enterDown]) (by simp [State.enterDown, State.modPort])

theorem State.namesOk.enterOffer (p : Port) : (s.enterOffer p).namesOk := by
  have h1 := h.modPort_same p (f := fun q => { q.discardAll.goTo .offer with
    nonce := some (Config.freeNonce s.draws), timer := some (.offerWait, s.clock) }) fun _ => .inr rfl
  exact h1.congr rfl rfl

theorem State.namesOk.enterFault (p : Port) (why : Reason) (tag : Byte) (nonce : BitVec 32) :
    (s.enterFault p why tag nonce).namesOk := by
  have h0 : (s.send (.split p) (refuseBody tag why nonce)).namesOk := h.congr rfl rfl
  have h1 := (h0.leaveIfBound p s.nextStamp).modPort_same p (f := fun q =>
    { (LinkPort.latch why.flag q).discardAll.goTo .fault with timer := some (.rebindInhibit, s.clock) }) fun _ => .inr rfl
  exact h1.congr rfl rfl

theorem State.namesOk.resolveOffer (p : Port) (tag : Byte) {o : PartnerOffer} (ho : o.name.length ≤ 16) :
    (s.resolveOffer p tag o).namesOk := by
  unfold State.resolveOffer
  split
  · rename_i r _
    have h1 := h.modPort p (f := fun q => { q.goTo .confirm with
        page := some (o.page r.role), resolved := some r, timer := some (.confirmWait, s.clock) })
      (by rintro pg ⟨⟩; exact ho)
    unfold State.acceptOffer
    dsimp only
    split <;> exact h1.congr rfl rfl
  · exact h.enterFault p _ tag _

theorem State.namesOk.reoffer (p : Port) (tag : Byte) {o : PartnerOffer} (ho : o.name.length ≤ 16) :
    (s.reoffer p tag o).namesOk :=
  State.namesOk.resolveOffer ((h.leaveBound p s.nextStamp).enterOffer p) p tag ho

theorem State.namesOk.erase (k : Seat) : (s.erase k).namesOk :=
  h.setEntry (State.erase_entries k s) (by simp) nofun

theorem State.namesOk.createConsumer (k : Seat) {r : BindReport} (hr : r.name.length ≤ 16) :
    (s.createConsumer k r).namesOk := h.setEntry rfl rfl (by rintro c ⟨⟩; exact hr)

/-- A change of an entry's consumer that keeps its name or takes one that fits. -/
theorem State.namesOk.modifyEntry {t : State} {k : Seat} {f : Consumer → Consumer}
    (he : t.entries = s.entries.modify k fun o => o.map f) (hp : t.ports = s.ports)
    (hf : ∀ c, c.name.length ≤ 16 → (f c).name.length ≤ 16) : t.namesOk := by
  refine h.setEntry he hp fun c hc => ?_
  obtain ⟨c0, hc0, rfl⟩ := Option.map_eq_some_iff.mp hc
  exact hf c0 (h.1 k c0 hc0)

theorem State.namesOk.bind {r : BindReport} (hr : r.name.length ≤ 16) : (s.bind r).1.namesOk := by
  unfold State.bind
  split
  · split
    · exact h.createConsumer _ hr
    · split
      · exact (h.erase _).createConsumer _ hr
      · exact h
  · split
    · exact h
    · split
      · split
        · exact h.modifyEntry rfl rfl fun _ _ => hr
        · exact (h.erase _).createConsumer _ hr
      · split
        · exact h.modifyEntry rfl rfl fun _ _ => hr
        · exact h

theorem State.namesOk.matchConfirm (p : Port) (tag : Byte) (c : PartnerConfirm) : (s.matchConfirm p tag c).namesOk := by
  have bound : ∀ pg r, (s.ports.get p).page = some pg → (s.enterBound p tag pg r).namesOk := by
    intro pg r hpg
    have h1 := h.modPort_same p (f := fun q => { q.goTo .bound with timer := none }) fun _ => .inl rfl
    have hb : (State.bind (bindReport p pg r)
        ((s.modPort p fun q => { q.goTo .bound with timer := none }).raiseLink p (s.ports.get p).state noFlags)).1.namesOk := by
      refine State.namesOk.bind ?_ (h.2 p pg hpg)
      exact h1.congr rfl rfl
    unfold State.enterBound
    dsimp only
    split
    · rename_i u hu
      rw [hu] at hb
      exact State.namesOk.congr hb (by simp) (by simp)
    · rename_i u why hu
      rw [hu] at hb
      exact State.namesOk.enterFault hb p why tag _
  unfold State.matchConfirm
  split
  · rename_i pg r hpg _
    split
    · exact bound pg r hpg
    · exact h.enterFault p _ tag _
  · exact h.enterFault p _ tag _
  · exact h.enterFault p _ tag _

theorem State.namesOk.latch (p : Port) (f : LinkFlag) : (s.modPort p (LinkPort.latch f)).namesOk :=
  h.modPort_same p fun _ => .inl rfl

theorem State.namesOk.breakOn (l : LaneId) : (s.breakOn l).namesOk := by
  cases l with
  | panel => exact h
  | split p =>
    have h1 : (s.flushLane (.split p)).namesOk := h.congr rfl rfl
    have h2 := h1.latch p .breakSeen
    unfold State.breakOn State.breakReported
    dsimp only
    split
    · exact h1
    · exact h2
    all_goals exact h2.enterHold p _ _

theorem State.namesOk.carrierArrives (p : Port) : (s.carrierArrives p).namesOk := by
  have h1 := h.modPort_same p (f := fun q => { q with carrier := true }) fun _ => .inl rfl
  unfold State.carrierArrives
  dsimp only
  split
  · exact h1.enterOffer p
  · exact h1

theorem State.namesOk.carrierLost (p : Port) : (s.carrierLost p).namesOk := by
  have h1 := h.modPort_same p (f := fun q => { q with carrier := false }) fun _ => .inl rfl
  unfold State.carrierLost
  dsimp only
  split
  · exact h1
  · exact (h1.latch p _).enterDown p _ _

theorem State.namesOk.holdExpired (p : Port) : (s.holdExpired p).namesOk := by
  unfold State.holdExpired
  split_ifs
  · exact h.enterOffer p
  · exact h.enterDown p _ _
  · exact h

theorem State.namesOk.offerWaitExpired (p : Port) : (s.offerWaitExpired p).namesOk := by
  unfold State.offerWaitExpired
  split
  · exact (h.latch p _).enterHold p _ _
  · exact h

theorem State.namesOk.confirmWaitExpired (p : Port) : (s.confirmWaitExpired p).namesOk := by
  unfold State.confirmWaitExpired
  split
  · exact (h.latch p _).enterHold p _ _
  · exact h

theorem State.namesOk.inhibitExpired (p : Port) : (s.inhibitExpired p).namesOk := by
  unfold State.inhibitExpired
  split
  · exact h.enterHold p _ _
  · exact h

theorem State.namesOk.readyPorts : s.readyPorts.namesOk := by
  refine foldl_inv _ State.namesOk (fun u p hu => ?_) allPorts s h
  split
  · exact hu.enterOffer p
  · exact hu

theorem State.namesOk.changeRate (r : BoxRate) : (s.changeRate r).namesOk := by
  have h1 : ({ s with rate := r }.restPairs).namesOk := h.congr rfl rfl
  unfold State.changeRate State.holdLivePorts
  refine foldl_inv _ State.namesOk (fun u p hu => ?_) allPorts _ h1
  split
  · exact hu
  · exact hu.enterHold p _ _

theorem State.namesOk.nextChip (c : Chip) : (s.nextChip c).namesOk := by
  unfold State.nextChip
  split
  · exact h.congr rfl rfl
  · have h1 : (s.modBus fun b => { b with pass := .ready, pollPos := 0 }).namesOk := h.congr rfl rfl
    have h2 := h1.readyPorts
    unfold State.becomeReady
    generalize (s.modBus fun b => { b with pass := .ready, pollPos := 0 }).readyPorts = u at h2 ⊢
    exact h2.congr rfl rfl

theorem State.namesOk.passFailsChip (c : Chip) : (s.passFailsChip c).namesOk := by
  refine State.namesOk.nextChip ?_ c
  exact h.congr rfl rfl

theorem State.namesOk.startIdentityEnded (c : Chip) (v : Option Byte) : (s.startIdentityEnded c v).namesOk := by
  unfold State.startIdentityEnded
  split_ifs
  · exact h.congr rfl rfl
  · exact h.congr rfl rfl
  · exact h.passFailsChip c

theorem State.namesOk.startWriteTaken (c : Chip) (k : Channel) : (s.startWriteTaken c k).namesOk := by
  unfold State.startWriteTaken
  dsimp only
  split
  · exact h.congr (by simp [State.passTxn]) (by simp [State.passTxn])
  · refine State.namesOk.nextChip ?_ c
    exact h.congr (by simp) (by simp)

theorem State.namesOk.startVerified (c : Chip) (k : Channel) (w : Option Byte) : (s.startVerified c k w).namesOk := by
  unfold State.startVerified
  split
  · exact h.startWriteTaken c k
  · refine State.namesOk.passFailsChip ?_ c
    exact foldl_inv (fun acc i => State.faultMove i acc) State.namesOk (fun u i hu => hu.congr rfl rfl) _ s h

theorem State.namesOk.startAdoptionEnded (c : Chip) (k : Channel) (w : Option Byte) :
    (s.startAdoptionEnded c k w).namesOk := by
  unfold State.startAdoptionEnded
  cases w with
  | none => exact h.passFailsChip c
  | some x =>
    dsimp only
    split
    · exact h.congr rfl rfl
    · refine State.namesOk.nextChip ?_ c
      exact h.congr (by simp) (by simp)

end

theorem State.blocksReset_namesOk (b : Bus) (s : State) : (s.blocksReset b).namesOk := by
  refine ⟨fun k c hc => ?_, fun p pg hp => ?_⟩
  · simp [State.blocksReset, State.reset] at hc
  · simp [State.blocksReset, State.portsAtPowerOn, LinkPort.atPowerOn] at hp

theorem State.restartNow_namesOk (s : State) : s.restartNow.namesOk := by
  unfold State.restartNow
  split
  · exact (State.blocksReset_namesOk { Bus.atPowerOn with adopting := true } s).congr rfl rfl
  · exact State.blocksReset_namesOk _ s

theorem namesOk_blind : BlindToLanes State.namesOk :=
  ⟨fun _ _ _ h => h.congr rfl rfl, fun _ _ h => h.congr rfl rfl, fun _ _ h => h.congr rfl rfl⟩

theorem namesOk_records (l : LaneId) : KeptByRecords l State.namesOk State.namesOk where
  stays _ h := h.1
  reply _ _ _ _ _ h _ := h.1.congr rfl rfl
  consumer _ _ _ h := h.1.congr rfl rfl
  level _ _ _ _ h := h.congr (by simp) (by simp)
  mute _ _ _ _ h := h.congr rfl rfl
  map _ _ _ h := h.modifyEntry rfl rfl fun _ hc => hc
  take _ _ _ h _ _ := h.congr (by simp) (by simp)
  wait _ _ _ h _ _ _ _ := h.congr rfl rfl
  release _ _ h := h.congr (by simp) (by simp)
  leave _ _ _ h := h.congr rfl rfl
  pad _ _ _ h := h.congr (by simp) (by simp)
  phantom _ _ _ h := h.congr (by simp) (by simp)
  clearSat _ _ _ h := h.congr rfl rfl
  clearSets p clear _ h := h.modPort_same p fun _ => .inl (by split <;> rfl)
  clearCounters _ _ _ h := h.congr rfl rfl
  lock _ _ _ h := h.congr rfl rfl
  force _ _ h := h.congr (by simp) (by simp)
  rate r _ h := h.changeRate r
  align _ _ h := h.congr rfl rfl
  resetHold p _ h := h.enterHold p _ _
  resetFlush _ _ h := h.congr rfl rfl
  restart _ _ h := h.congr rfl rfl
  ignore _ h := h.congr rfl rfl
  reoffer p tag _ _ _ _ h ho _ := h.reoffer p tag (parseOffer_name ho)
  resolveOffer p tag _ _ _ _ h ho _ := h.resolveOffer p tag (parseOffer_name ho)
  matchConfirm p tag c _ _ h _ := h.matchConfirm p tag c

theorem namesOk_bus : KeptByBus State.namesOk where
  write _ _ _ _ _ h _ := h.congr (by simp) (by simp)
  verify _ _ _ _ _ h _ := h.congr (by simp) (by simp)
  status _ _ _ h := h.congr (by simp) (by simp)
  identity _ _ _ h := h.congr (by simp) (by simp)
  adoption _ _ _ _ h _ := h.congr (by simp) (by simp)
  startIdentity c v _ h := h.startIdentityEnded c v
  startWrite c k _ h := h.startWriteTaken c k
  startTimeout _ _ _ h := h.congr rfl rfl
  startVerify c k w _ h := h.startVerified c k w
  startAdoption c k w _ h _ := h.startAdoptionEnded c k w
  discard _ h := h.congr rfl rfl

theorem namesOk_step : KeptByStep State.namesOk where
  pending _ _ h := h.congr rfl rfl
  powerOn s _ := (State.blocksReset_namesOk Bus.atPowerOn s).congr rfl rfl
  restart s _ := s.restartNow_namesOk
  samplePeriod _ _ h := h.congr (by simp [State.samplePeriod]) (by simp [State.samplePeriod])
  rampStep _ _ _ h := h.congr (by simp) (by simp)
  landing _ _ h := h.congr (by simp) (by simp)
  fadeOutEnd _ _ h := h.congr (by simp) (by simp)
  fadeInEnd _ _ h := h.congr (by simp) (by simp)
  settle _ _ h := h.congr (by simp) (by simp)
  keep k s h := by
    unfold State.keepExpired
    split
    · exact h
    · exact h.erase k
  carrierArrival p _ h := h.carrierArrives p
  carrierLoss p _ h := h.carrierLost p
  character l v parity stop start _ h := namesOk_blind.character namesOk_records h (fun l _ h => h.breakOn l) l v parity
    stop start
  break_ l _ h := h.breakOn l
  byte l _ h := namesOk_blind.byteSent namesOk_records h (fun s _ => s.restartNow_namesOk) l
  breakEnd _ _ h := h.congr rfl rfl
  hold p _ h := h.holdExpired p
  offerWait p _ h := h.offerWaitExpired p
  confirmWait p _ h := h.confirmWaitExpired p
  inhibit p _ h := h.inhibitExpired p
  record l kind tag fields _ h := namesOk_blind.deliver namesOk_records h l kind tag fields
  bus := namesOk_bus

/-! ## Receiving sides -/

/-- One receiving side's queue and counters are within their bounds. -/
def RxSide.inRange (r : RxSide) : Prop :=
  r.queue.length ≤ 512 ∧ r.counters.gap ≤ 65535 ∧ r.counters.marked ≤ 65535 ∧ r.counters.length ≤ 65535 ∧
    r.counters.check ≤ 65535 ∧ r.counters.overrun ≤ 65535 ∧ r.counters.ignored ≤ 65535

/-- Every receiving side is within its bounds. -/
def State.rxOk (s : State) : Prop := ∀ n, (s.rx.get n).inRange

section
variable {r : RxSide} (h : r.inRange)
include h

theorem RxSide.inRange.flushed :
    ({ r with queue := [], overrunPending := false, gapRef := none, framer := .hunt } : RxSide).inRange :=
  ⟨Nat.zero_le _, h.2⟩

theorem RxSide.inRange.clearCounters : ({ r with counters := Counters.zero } : RxSide).inRange :=
  ⟨h.1, by simp [Counters.zero]⟩

theorem RxSide.inRange.ignore :
    ({ r with counters := { r.counters with ignored := countUp r.counters.ignored } } : RxSide).inRange := by
  obtain ⟨h0, h1, h2, h3, h4, h5, -⟩ := h
  exact ⟨h0, h1, h2, h3, h4, h5, countUp_le _⟩

theorem RxSide.inRange.store (v : Byte) (framing parity gap : Bool) : (RxSide.store v framing parity gap r).inRange := by
  obtain ⟨h0, h1, h2, h3, h4, h5, h6⟩ := h
  unfold RxSide.store
  split
  · exact ⟨h0, h1, h2, h3, h4, countUp_le _, h6⟩
  · rename_i hroom
    refine ⟨?_, h1, h2, h3, h4, h5, h6⟩
    simp only [List.length_append, List.length_singleton]
    exact not_le.mp hroom

theorem RxSide.inRange.keepChar (v : Byte) : (r.keepChar v).inRange := by
  obtain ⟨h0, h1, h2, h3, h4, h5, h6⟩ := h
  unfold RxSide.keepChar
  split
  · exact ⟨h0, h1, h2, h3, h4, h5, h6⟩
  · exact ⟨h0, h1, h2, h3, h4, h5, h6⟩
  · split
    · exact ⟨h0, h1, h2, h3, h4, h5, h6⟩
    · exact ⟨h0, h1, h2, countUp_le _, h4, h5, h6⟩
  · split <;> exact ⟨h0, h1, h2, h3, h4, h5, h6⟩
  · exact ⟨h0, h1, h2, h3, h4, h5, h6⟩
  · split
    · exact ⟨h0, h1, h2, h3, h4, h5, h6⟩
    · exact ⟨h0, h1, h2, h3, countUp_le _, h5, h6⟩

theorem RxSide.inRange.recordChar (c : RxChar) : (r.recordChar c).inRange := by
  obtain ⟨h0, h1, h2, h3, h4, h5, h6⟩ := h
  unfold RxSide.recordChar
  split
  · exact ⟨h0, countUp_le _, h2, h3, h4, h5, h6⟩
  · split
    · exact ⟨h0, h1, countUp_le _, h3, h4, h5, h6⟩
    · exact RxSide.inRange.keepChar ⟨h0, h1, h2, h3, h4, h5, h6⟩ c.value

theorem RxSide.inRange.readChar (c : RxChar) : (r.readChar c).inRange := by
  unfold RxSide.readChar
  split
  · exact h
  · exact h.recordChar c
  · exact h.recordChar c
  · exact h.recordChar c
  · exact h

end

theorem State.rxOk.congr {s t : State} (h : s.rxOk) (hr : t.rx = s.rx) : t.rxOk := by
  unfold State.rxOk
  rw [hr]
  exact h

theorem State.rxOk.modRx {s : State} (h : s.rxOk) (l : LaneId) {f : RxSide → RxSide}
    (hf : ∀ r : RxSide, r.inRange → (f r).inRange) : (s.modRx l f).rxOk := by
  intro n
  simp only [State.modRx, Tab.get_modify]
  split
  · rename_i hn
    rw [hn]
    exact hf _ (h _)
  · exact h n

section
variable {s : State} (h : s.rxOk)
include h

theorem State.rxOk.flushLane (l : LaneId) : (s.flushLane l).rxOk := by
  have h1 := h.modRx l (f := fun r => { r with queue := [], overrunPending := false, gapRef := none, framer := .hunt })
    fun r hr => hr.flushed
  exact h1.congr rfl

theorem State.rxOk.enterHold (p : Port) (flags : Tab 12 Bool) (stamp : Nat) : (s.enterHold p flags stamp).rxOk := by
  have h1 : (s.leaveIfBound p stamp).rxOk := h.congr (by simp)
  have h2 := h1.flushLane (.split p)
  exact h2.congr rfl

theorem State.rxOk.enterDown (p : Port) (flags : Tab 12 Bool) (stamp : Nat) : (s.enterDown p flags stamp).rxOk := by
  have h1 : (s.leaveIfBound p stamp).rxOk := h.congr (by simp)
  have h2 := h1.flushLane (.split p)
  exact h2.congr rfl

theorem State.rxOk.breakOn (l : LaneId) : (s.breakOn l).rxOk := by
  cases l with
  | panel => exact h
  | split p =>
    have h1 := h.flushLane (.split p)
    have h2 : ((s.flushLane (.split p)).modPort p (LinkPort.latch .breakSeen)).rxOk := h1.congr rfl
    unfold State.breakOn State.breakReported
    dsimp only
    split
    · exact h1
    · exact h2
    all_goals exact h2.enterHold p _ _

theorem State.rxOk.carrierLost (p : Port) : (s.carrierLost p).rxOk := by
  have h1 : (s.modPort p fun q => { q with carrier := false }).rxOk := h.congr rfl
  have h2 : ((s.modPort p fun q => { q with carrier := false }).modPort p (LinkPort.latch .carrierLost)).rxOk := h.congr rfl
  unfold State.carrierLost
  dsimp only
  split
  · exact h1
  · exact h2.enterDown p _ _

theorem State.rxOk.latchHold (p : Port) (f : LinkFlag) (flags : Tab 12 Bool) (stamp : Nat) :
    ((s.modPort p (LinkPort.latch f)).enterHold p flags stamp).rxOk := by
  have h1 : (s.modPort p (LinkPort.latch f)).rxOk := h.congr rfl
  exact h1.enterHold p flags stamp

theorem State.rxOk.holdExpired (p : Port) : (s.holdExpired p).rxOk := by
  unfold State.holdExpired
  split_ifs
  · exact h.congr (by simp)
  · exact h.enterDown p _ _
  · exact h

theorem State.rxOk.offerWaitExpired (p : Port) : (s.offerWaitExpired p).rxOk := by
  unfold State.offerWaitExpired
  split
  · exact h.latchHold p _ _ _
  · exact h

theorem State.rxOk.confirmWaitExpired (p : Port) : (s.confirmWaitExpired p).rxOk := by
  unfold State.confirmWaitExpired
  split
  · exact h.latchHold p _ _ _
  · exact h

theorem State.rxOk.inhibitExpired (p : Port) : (s.inhibitExpired p).rxOk := by
  unfold State.inhibitExpired
  split
  · exact h.enterHold p _ _
  · exact h

theorem State.rxOk.changeRate (r : BoxRate) : (s.changeRate r).rxOk := by
  have h1 : ({ s with rate := r }.restPairs).rxOk := h.congr rfl
  unfold State.changeRate State.holdLivePorts
  refine foldl_inv _ State.rxOk (fun u p hu => ?_) allPorts _ h1
  split
  · exact hu
  · exact hu.enterHold p _ _

end

theorem rxOk_records (l : LaneId) : KeptByRecords l State.rxOk State.rxOk where
  stays _ h := h.1
  reply _ _ _ _ _ h _ := h.1.congr rfl
  consumer _ _ _ h := h.1.congr rfl
  level _ _ _ _ h := h.congr (by simp)
  mute _ _ _ _ h := h.congr rfl
  map _ _ _ h := h.congr rfl
  take _ _ _ h _ _ := h.congr (by simp)
  wait _ _ _ h _ _ _ _ := h.congr rfl
  release _ _ h := h.congr (by simp)
  leave _ _ _ h := h.congr rfl
  pad _ _ _ h := h.congr (by simp)
  phantom _ _ _ h := h.congr (by simp)
  clearSat _ _ _ h := h.congr rfl
  clearSets _ _ _ h := h.congr rfl
  clearCounters n clear _ h := h.modRx n fun r hr => by
    split
    · exact hr.clearCounters
    · exact hr
  lock _ _ _ h := h.congr rfl
  force _ _ h := h.congr (by simp)
  rate r _ h := h.changeRate r
  align _ _ h := h.congr rfl
  resetHold p _ h := h.enterHold p _ _
  resetFlush p _ h := h.flushLane _
  restart _ _ h := h.congr rfl
  ignore _ h := h.modRx _ fun _ hr => hr.ignore
  reoffer _ _ _ _ _ _ h _ _ := h.congr (by simp)
  resolveOffer _ _ _ _ _ _ h _ _ := h.congr (by simp)
  matchConfirm _ _ _ _ _ h _ := h.congr (by simp)

theorem State.rxOk.service {s : State} (h : s.rxOk) (l : LaneId) : (s.service l).rxOk := by
  refine State.service_inv State.rxOk (fun l c rest s hs hq => ?_)
    (fun l kind tag fields s hs => (rxOk_records l).takeRecord hs kind tag fields)
    (fun l s hs => hs.modRx l fun _ hr => hr) l s h
  refine fun n => ?_
  simp only [State.modRx, Tab.get_modify]
  split
  · rename_i hn
    rw [hn]
    refine RxSide.inRange.readChar ?_ c
    have hr := hs l.idx
    refine ⟨?_, hr.2⟩
    have hlen := hr.1
    rw [hq, List.length_cons] at hlen
    exact Nat.le_of_succ_le hlen
  · exact hs n

theorem rxOk_bus : KeptByBus State.rxOk where
  write _ _ _ _ _ h _ := h.congr (by simp)
  verify _ _ _ _ _ h _ := h.congr (by simp)
  status _ _ _ h := h.congr (by simp)
  identity _ _ _ h := h.congr (by simp)
  adoption _ _ _ _ h _ := h.congr (by simp)
  startIdentity _ _ _ h := h.congr (by simp)
  startWrite _ _ _ h := h.congr (by simp)
  startTimeout _ _ _ h := h.congr rfl
  startVerify _ _ _ _ h := h.congr (by simp)
  startAdoption _ _ _ _ h _ := h.congr (by simp)
  discard _ h := h.congr rfl

theorem State.blocksReset_rxOk (b : Bus) (s : State) : (s.blocksReset b).rxOk := by
  intro n
  simp [State.blocksReset, State.reset, RxSide.atPowerOn, RxSide.inRange, Counters.zero]

theorem State.restartNow_rxOk (s : State) : s.restartNow.rxOk := by
  unfold State.restartNow
  split
  · exact (State.blocksReset_rxOk { Bus.atPowerOn with adopting := true } s).congr rfl
  · exact State.blocksReset_rxOk _ s

theorem rxOk_step : KeptByStep State.rxOk where
  pending _ _ h := h.congr rfl
  powerOn s _ := (State.blocksReset_rxOk Bus.atPowerOn s).congr rfl
  restart s _ := s.restartNow_rxOk
  samplePeriod _ _ h := h.congr (by simp [State.samplePeriod])
  rampStep _ _ _ h := h.congr (by simp)
  landing _ _ h := h.congr (by simp)
  fadeOutEnd _ _ h := h.congr (by simp)
  fadeInEnd _ _ h := h.congr (by simp)
  settle _ _ h := h.congr (by simp)
  keep _ _ h := h.congr (by simp)
  carrierArrival _ _ h := h.congr (by simp)
  carrierLoss p _ h := h.carrierLost p
  character l v parity stop start s h := State.characterReceived_inv State.rxOk (fun l _ h => h.breakOn l)
    (fun l v framing parity gap moment s hs => hs.modRx l fun r hr => hr.store v framing parity gap)
    (fun l _ h => h.service l) l v parity stop start s h
  break_ l _ h := h.breakOn l
  byte l s h := State.byteSent_inv State.rxOk (fun _ _ _ h => h.congr rfl) (fun s _ => s.restartNow_rxOk)
    (fun l _ h => h.service l) l s h
  breakEnd _ _ h := h.congr rfl
  hold p _ h := h.holdExpired p
  offerWait p _ h := h.offerWaitExpired p
  confirmWait p _ h := h.confirmWaitExpired p
  inhibit p _ h := h.inhibitExpired p
  record l kind tag fields s h := State.deliver_inv State.rxOk
    (fun l vs s hs => hs.modRx l fun r hr =>
      foldl_inv (fun r v => RxSide.store v false false false r) RxSide.inRange (fun r v hr => hr.store v false false false)
        vs r hr)
    (fun l _ s hs => hs.modRx l fun _ hr => hr) (fun l _ h => h.service l) l kind tag fields s h
  bus := rxOk_bus

end Sys2Proof.Machine
end

section
/-! PROOF. The lanes that the part's events go to: those of bound ports and lane P, and never past the room of a transmit
queue (R159, R160, R175). -/

namespace Sys2Proof.Machine

/-! ## Offers to lanes -/

/-- From the first to the second, frames have joined transmit queues only where room for them is left, and only on lanes
of the given kind. -/
def Comm.heardOn (live : LaneId → Prop) (c d : Comm) : Prop :=
  (∀ n, (d.tx.get n).queue.length ≤ max 512 (c.tx.get n).queue.length) ∧
    ∀ p : Port, ¬live (.split p) → d.tx.get p.succ = c.tx.get p.succ

section
variable {live : LaneId → Prop}

theorem Comm.heardOn.of_tx {c d : Comm} (h : d.tx = c.tx) : c.heardOn live d :=
  ⟨fun n => by rw [h]; exact le_max_right _ _, fun p _ => by rw [h]⟩

theorem Comm.heardOn.refl (c : Comm) : c.heardOn live c := .of_tx rfl

theorem Comm.heardOn.trans {c d e : Comm} (h : c.heardOn live d) (k : d.heardOn live e) : c.heardOn live e :=
  ⟨fun n => (k.1 n).trans (max_le (le_max_left _ _) (h.1 n)), fun p hp => (k.2 p hp).trans (h.2 p hp)⟩

theorem Comm.heardOn.mono {live' : LaneId → Prop} {c d : Comm} (h : c.heardOn live d) (hl : ∀ l, live l → live' l) :
    c.heardOn live' d := ⟨h.1, fun p hp => h.2 p fun h' => hp (hl _ h')⟩

/-- The queue of a frame that fits behind what its lane holds. -/
theorem Comm.heardOn.queueFrame {c : Comm} {l : LaneId} {body : List Byte} (hl : live l)
    (hfit : c.used l + (frameOf body).length ≤ 512) : c.heardOn live (c.queueFrame l body) := by
  refine ⟨fun n => ?_, fun p hp => ?_⟩
  · simp only [Comm.queueFrame, Tab.get_modify]
    split
    · rename_i hn
      rw [hn, List.length_append]
      exact le_max_of_le_left hfit
    · exact le_max_right _ _
  · simp only [Comm.queueFrame, Tab.get_modify]
    split
    · rename_i hn
      cases l with
      | panel => exact absurd hn (Fin.succ_ne_zero p)
      | split q =>
        obtain rfl := Fin.succ_injective 6 hn
        exact absurd hl hp
    · rfl

theorem Comm.passes_fits {c : Comm} {l : LaneId} {body : List Byte} (h : c.passes l body = true) :
    c.used l + (frameOf body).length ≤ 512 := by
  have := of_decide_eq_true h
  simp only [Config.reserve, Config.transmitRoom] at this
  omega

theorem Comm.heardOn.offer {l : LaneId} (hl : live l) (n : Notice) (c : Comm) : c.heardOn live (c.offer l n) := by
  unfold Comm.offer
  split
  · exact .refl c
  · split
    · rename_i hpass
      exact (Comm.heardOn.queueFrame hl (Comm.passes_fits hpass)).trans (.of_tx (Comm.told_tx _ _ _))
    · exact .of_tx (Comm.setMark_tx _ _ _ _)

theorem Comm.heardOn.foldl {α : Type} {f : Comm → α → Comm} {as : List α} (h : ∀ (c : Comm), ∀ a ∈ as, c.heardOn live (f c a))
    (c : Comm) : c.heardOn live (as.foldl f c) := by
  induction as generalizing c with
  | nil => exact .refl c
  | cons a as ih =>
    exact (h c a List.mem_cons_self).trans (ih (fun c a ha => h c a (List.mem_cons_of_mem _ ha)) _)

theorem Comm.heardOn.offers {lanes : List LaneId} (hl : ∀ l ∈ lanes, live l) (n : Notice) (c : Comm) :
    c.heardOn live (lanes.foldl (fun c l => c.offer l n) c) :=
  Comm.heardOn.foldl (fun c l hm => Comm.heardOn.offer (hl l hm) n c) c

theorem Comm.heardOn.limitEvent {lanes : List LaneId} (hl : ∀ l ∈ lanes, live l) (i : Input) (a : Int)
    (before : Option Pair) (f : Pair → Pair) (c : Comm) : c.heardOn live (c.limitEvent lanes i a before f) := by
  unfold Comm.limitEvent
  split
  · exact .refl c
  · split
    · exact .refl c
    · exact Comm.heardOn.offers hl _ c

end

/-! ## Who is told -/

/-- The lane is lane P or the lane of a bound port. -/
def State.seatedLane (s : State) (l : LaneId) : Prop := ∀ p, l = .split p → (seatOf s.entries p).isSome = true

theorem State.seatedLane_panel (s : State) : s.seatedLane .panel := nofun

theorem State.seatedLane_split {s : State} {p : Port} (h : (seatOf s.entries p).isSome = true) : s.seatedLane (.split p) := by
  rintro q ⟨⟩
  exact h

theorem State.seatedLane_congr {s t : State} (h : t.entries = s.entries) : t.seatedLane = s.seatedLane := by
  unfold State.seatedLane
  rw [h]

theorem State.partyLanes_seated (s : State) : ∀ l ∈ s.partyLanes, s.seatedLane l := by
  intro l hl
  rcases List.mem_append.mp hl with hl | hl
  · obtain ⟨p, hp, rfl⟩ := List.mem_map.mp hl
    exact State.seatedLane_split (List.mem_filter.mp hp).2
  · rw [List.mem_singleton.mp hl]
    exact s.seatedLane_panel

theorem State.clipLanes_seated (s : State) (i : Input) : ∀ l ∈ s.clipLanes i, s.seatedLane l := by
  intro l hl
  rcases List.mem_append.mp hl with hl | hl
  · obtain ⟨p, hp, rfl⟩ := List.mem_map.mp hl
    have := (List.mem_filter.mp hp).2
    rw [Bool.and_eq_true] at this
    exact State.seatedLane_split this.1
  · rw [List.mem_singleton.mp hl]
    exact s.seatedLane_panel

/-- A port that an entry holds has a seat. -/
theorem seatOf_isSome {e : Tab 6 (Option Consumer)} {k : Seat} {c : Consumer} {p : Port} (hc : e.get k = some c)
    (hp : p ∈ c.ports) : (seatOf e p).isSome = true := by
  cases h : seatOf e p with
  | some k => rfl
  | none => exact absurd hp (seatOf_none h k c hc)

theorem State.lanesOf_seated (s : State) (who : Party) : ∀ l ∈ s.lanesOf who, s.seatedLane l := by
  intro l hl
  cases who with
  | panel =>
    rw [List.mem_singleton.mp hl]
    exact s.seatedLane_panel
  | consumer k =>
    unfold State.lanesOf at hl
    dsimp only at hl
    split at hl
    · rename_i c hc
      obtain ⟨p, hp, rfl⟩ := List.mem_map.mp hl
      exact State.seatedLane_split (seatOf_isSome hc hp)
    · cases hl

/-- From the first state to the second, the bindings stand, and frames have joined the queues of lane P and of bound ports
only, where there was room. -/
def State.heard (s t : State) : Prop := t.entries = s.entries ∧ t.ports = s.ports ∧ s.comm.heardOn s.seatedLane t.comm

theorem State.heard.of_eq {s t : State} (he : t.entries = s.entries) (hp : t.ports = s.ports) (hc : t.comm = s.comm) :
    s.heard t := ⟨he, hp, .of_tx (by rw [hc])⟩

theorem State.heard.refl (s : State) : s.heard s := .of_eq rfl rfl rfl

theorem State.heard.trans {s t u : State} (h : s.heard t) (k : t.heard u) : s.heard u := by
  obtain ⟨h1, h2, h3⟩ := h
  obtain ⟨k1, k2, k3⟩ := k
  exact ⟨k1.trans h1, k2.trans h2, h3.trans (State.seatedLane_congr h1 ▸ k3)⟩

/-- What follows after a change that tells nobody. -/
theorem State.heard.after {s t u : State} (k : t.heard u) (he : t.entries = s.entries) (hp : t.ports = s.ports)
    (hc : t.comm = s.comm) : s.heard u := (State.heard.of_eq he hp hc).trans k

theorem State.heard.foldl {α : Type} {f : State → α → State} (h : ∀ (s : State) a, s.heard (f s a)) (as : List α)
    (s : State) : s.heard (as.foldl f s) := by
  induction as generalizing s with
  | nil => exact .refl s
  | cons a as ih => exact (h s a).trans (ih _)

section
variable (s : State) (i : Input)

theorem State.heard_raise {lanes : List LaneId} (hl : ∀ l ∈ lanes, s.seatedLane l) (n : Notice) : s.heard (s.raise lanes n) :=
  ⟨rfl, rfl, Comm.heardOn.offers hl n _⟩

theorem State.heard_broadcast (n : Notice) : s.heard (s.broadcast n) := s.heard_raise s.partyLanes_seated n

theorem State.heard_raisePanel (n : Notice) : s.heard (s.raise [.panel] n) :=
  s.heard_raise (fun _ hl => List.mem_singleton.mp hl ▸ s.seatedLane_panel) n

theorem State.heard_raiseChip (c : Chip) : s.heard (s.raiseChip c) := s.heard_raisePanel _

theorem State.heard_raisePhantom (o : PhantomOutcome) : s.heard (s.raisePhantom i o) := s.heard_broadcast _

theorem State.heard_raiseMoved (o : MovedOutcome) : s.heard (s.raiseMoved i o) := s.heard_broadcast _

theorem State.heard_updatePair (who : Party) (f : Pair → Pair) : s.heard (s.updatePair who i f) :=
  ⟨rfl, rfl, Comm.heardOn.limitEvent (s.lanesOf_seated who) _ _ _ _ _⟩

theorem State.heard_updatePairs (f : Pair → Pair) : s.heard (s.updatePairs i f) :=
  ⟨rfl, rfl, Comm.heardOn.foldl (fun c who _ => Comm.heardOn.limitEvent (s.lanesOf_seated who) _ _ _ _ c) _⟩

theorem State.heard_updateAllPairs (f : Input → Pair → Pair) : s.heard (s.updateAllPairs f) :=
  ⟨rfl, rfl, Comm.heardOn.foldl (fun c _ _ =>
    Comm.heardOn.foldl (fun c who _ => Comm.heardOn.limitEvent (s.lanesOf_seated who) _ _ _ _ c) c) _⟩

/-! Owners. -/

theorem State.heard_changeOwner (who : Option Party) : s.heard (s.changeOwner i who) :=
  (State.heard_broadcast ((s.modOwn i (Ownership.give who)).handOwnerTarget i) _).after (by simp) (by simp) (by simp)

theorem State.heard_passToPanel (k : Seat) : s.heard (s.passToPanel k i) :=
  (s.heard_updatePair i .panel _).trans (State.heard_changeOwner _ i _)

theorem State.heard_handOn (k : Seat) : s.heard (s.handOn k i) := by
  unfold State.handOn
  split_ifs
  · exact s.heard_passToPanel i k
  · exact s.heard_changeOwner i _
  · exact .refl s

theorem State.heard_setLevel (who : Party) (level : Option Int) : s.heard (s.setLevel who i level) := by
  have h1 := s.heard_updatePair i who (Pair.storeLevel (s.moves.get i).status (s.analog i) level)
  unfold State.setLevel
  dsimp only
  split
  · exact h1.trans (.of_eq (by simp) (by simp) (by simp))
  · exact h1

/-! Phantom sequences. -/

theorem State.heard_startSequence (on : Bool) : s.heard (s.startSequence i on) :=
  (State.heard_raisePhantom (State.turnGates i (State.modPhantom i _ s)) i .started).after rfl rfl rfl

theorem State.heard_raiseEnd (o : Option SeqOutcome) : s.heard (s.raiseEnd i o) := by
  unfold State.raiseEnd
  split
  · exact .refl s
  · exact s.heard_raisePhantom i _

theorem State.heard_endSequence : s.heard (s.endSequence i) := by
  unfold State.endSequence
  dsimp only
  refine State.heard.trans ?_
    (.of_eq (State.dealPending_entries i _) (State.dealPending_ports i _) (State.dealPending_comm i _))
  exact (State.heard_raiseEnd (State.modPhantom i _ s) i _).after rfl rfl rfl

theorem State.heard_endFadeOut : s.heard (s.endFadeOut i) := .of_eq (by simp) (by simp) (by simp)

theorem State.heard_endFadeIn : s.heard (s.endFadeIn i) := by
  unfold State.endFadeIn
  split
  · exact s.heard_endSequence i
  · exact .refl s

theorem State.heard_phantomRequest (on : Bool) : s.heard (s.phantomRequest i on) := by
  unfold State.phantomRequest
  split
  · split_ifs
    · exact .of_eq rfl rfl rfl
    · exact .of_eq rfl rfl rfl
    · exact s.heard_startSequence i on
  · exact .of_eq (by simp) (by simp) (by simp)
  · exact .of_eq rfl rfl rfl
  · exact .of_eq rfl rfl rfl
  · split
    · exact .refl s
    · exact s.heard_startSequence i on

theorem State.heard_startHeld : s.heard (s.startHeld i) := by
  unfold State.startHeld
  split
  · exact .refl s
  · exact (State.heard_startSequence (State.modPhantom i _ s) i _).after rfl rfl rfl

theorem State.heard_faultPhantom : s.heard (s.faultPhantom i) := by
  unfold State.faultPhantom
  split
  · unfold State.dropHeld
    split
    · exact .refl s
    · exact (State.heard_raisePhantom (State.modPhantom i _ s) i _).after rfl rfl rfl
  all_goals exact .of_eq rfl rfl rfl

theorem State.heard_phantomFault : s.heard (s.phantomFault i) := by
  unfold State.phantomFault
  split
  · exact .refl s
  · exact ((State.heard_raisePhantom (State.modPhantom i _ s) i _).after rfl rfl rfl).trans
      (.of_eq (State.faultDuringSettle_entries i _) (State.faultDuringSettle_ports i _) (State.faultDuringSettle_comm i _))

/-! The ends of moves. -/

theorem State.heard_endMove (o : MovedOutcome) : s.heard (s.endMove i o) := by
  have h1 := (State.heard_raiseMoved (s.modMove i fun m => { m with move := .idle }) i o).after (s := s) rfl rfl rfl
  have h2 := h1.trans (State.heard_startHeld _ i)
  exact h2.trans (.of_eq (State.dealPending_entries i _) (State.dealPending_ports i _) (State.dealPending_comm i _))

theorem State.heard_land (t : Setting) : s.heard (s.land i t) := by
  have h1 := (State.heard_updatePairs (s.modMove i fun m => { m with setting := t }) i
    (Pair.land (s.moves.get i).status (t.value - s.analog i) t.value)).after (s := s) rfl rfl rfl
  exact h1.trans (State.heard_endMove _ i _)

theorem State.heard_landIfDue : s.heard (s.landIfDue i) := by
  unfold State.landIfDue
  split
  · exact s.heard_land i _
  all_goals exact .refl s

theorem State.heard_landingBoundary : s.heard (s.landingBoundary i) := by
  unfold State.landingBoundary
  split
  · exact s.heard_land i _
  · exact .of_eq rfl rfl rfl
  all_goals exact .refl s

theorem State.heard_moveNotTaken : s.heard (s.moveNotTaken i) := by
  unfold State.moveNotTaken
  split
  · exact (State.heard_endMove (State.modMove i _ s) i _).after rfl rfl rfl
  all_goals exact .refl s

theorem State.heard_faultMove : s.heard (s.faultMove i) :=
  (State.heard_updatePairs (s.modMove i MoveCtl.abandon) i _).after rfl rfl rfl

theorem State.heard_becomeKnown (t : Setting) : s.heard (s.becomeKnown i t) :=
  (State.heard_updatePairs (s.modMove i fun m => { m with setting := t, failed := none, status := .known }) i _).after
    rfl rfl rfl

theorem State.heard_adopt (startUp : Bool) (w : Byte) : s.heard (s.adopt startUp i w) := by
  have h1 := s.heard_becomeKnown i (wordSetting w)
  unfold State.adopt
  dsimp only
  split
  · exact h1.trans (.of_eq (by simp) (by simp) (by simp))
  · exact (h1.trans (State.heard_raiseMoved _ i .adopted)).trans (.of_eq (by simp) (by simp) (by simp))

/-! Chips. -/

theorem State.heard_chipFault (c : Chip) : s.heard (s.chipFault c) := by
  have h1 := (State.heard.foldl (f := fun acc i => State.faultMove i acc) (fun s i => s.heard_faultMove i) (chipInputs c)
    (s.modBus (Bus.faultChip c))).after (s := s) rfl rfl rfl
  have h2 := h1.trans (State.heard.foldl (f := fun acc i => State.faultPhantom i acc) (fun s i => s.heard_faultPhantom i)
    (chipInputs c) _)
  exact h2.trans (State.heard_raiseChip _ c)

theorem State.heard_adoptChip (startUp : Bool) (c : Chip) (ws : List Byte) : s.heard (s.adoptChip startUp c ws) := by
  have h1 := (State.heard.foldl (f := fun acc i => State.adopt startUp i (acc.bus.shadow.get i) acc)
    (fun s i => s.heard_adopt i startUp _) (chipInputs c)
    (s.modBus fun b => { Bus.takeWords c ws b with chips := b.chips.set c .ok, probe := [] })).after (s := s) rfl rfl rfl
  exact h1.trans (State.heard_raiseChip _ c)

theorem State.heard_verified (c : Command) (o n : Byte) (w : Option Byte) : s.heard (s.verified c o n w) := by
  unfold State.verified
  split_ifs
  · exact .of_eq (by simp) (by simp) (by simp)
  · cases c with
    | gain i pad p => exact s.heard_moveNotTaken i
    | phantom i on => exact .of_eq (by simp [State.writeNotTaken]) (by simp [State.writeNotTaken]) (by simp [State.writeNotTaken])
  · exact s.heard_chipFault _

theorem State.heard_clipLatched : s.heard (s.clipLatched i) := by
  unfold State.clipLatched
  split
  · exact (State.heard_raise (s.modBus fun b => { b with clips := b.clips.set i (b.clips.get i + 1) })
      (State.clipLanes_seated _ i) _).after rfl rfl rfl
  · exact .refl s

theorem State.heard_statusEnded (v : Option Byte) : s.heard (s.statusEnded i v) := by
  have h1 : s.heard (s.modBus fun b => { b with pollPos := nextInput i }) := .of_eq rfl rfl rfl
  have latched : ∀ u : State, u.heard (u.faultLatched i) := fun u => (State.heard_phantomFault _ i).after rfl rfl rfl
  unfold State.statusEnded
  cases v with
  | none => exact h1.trans (State.heard_chipFault _ _)
  | some x =>
    dsimp only
    split_ifs
    · exact (h1.trans (State.heard_clipLatched _ i)).trans (latched _)
    · exact h1.trans (latched _)
    · exact h1.trans (State.heard_clipLatched _ i)
    · exact h1

theorem State.heard_adoptionEnded (c : Chip) (k : Channel) (w : Option Byte) : s.heard (s.adoptionEnded c k w) := by
  unfold State.adoptionEnded
  cases w with
  | none => exact .of_eq rfl rfl rfl
  | some x =>
    dsimp only
    split
    · exact s.heard_adoptChip false c _
    · exact .of_eq rfl rfl rfl

/-! The sample period. -/

theorem State.heard_rampStep (who : Party) : s.heard (s.rampStep who i) := by
  unfold State.rampStep
  split
  · exact .refl s
  · split
    · exact s.heard_updatePair i who _
    · exact .refl s

theorem State.heard_samplePeriod (x : Tab 48 Sample) : s.heard (s.samplePeriod x) := by
  have h0 : s.heard s.tick.landings :=
    (State.heard.foldl (f := fun acc i => State.landingBoundary i acc) (fun s i => s.heard_landingBoundary i) allInputs
      s.tick).after rfl rfl rfl
  have h1 : s.heard s.tick.landings.takeMaps := h0.trans (.of_eq (by simp) (by simp) (by simp))
  have h2 : s.heard s.tick.landings.takeMaps.rampPairs := h1.trans (State.heard_updateAllPairs _ _)
  have h3 := h2.trans (.of_eq (t := (s.tick.landings.takeMaps.rampPairs.stepGates).formFrames x) (by simp) (by simp) (by simp))
  unfold State.samplePeriod State.endFades
  exact h3.trans (State.heard.foldl (f := fun acc i => State.endFadeIn i (State.endFadeOut i acc))
    (fun s i => (s.heard_endFadeOut i).trans (State.heard_endFadeIn _ i)) allInputs _)

end

end Sys2Proof.Machine
end

section
/-! PROOF. The consumer table and the port timers, and the transmit queues: at most 512 bytes, and none on the lane of a
port in DOWN or HOLD (R159 to R161). -/

namespace Sys2Proof.Machine

/-! ## The table and the timers alone -/

theorem linksOk_records (l : LaneId) : KeptByRecords l State.linksOk State.linksOk where
  stays _ h := h.1
  reply _ _ _ _ _ h _ := h.1.congr rfl (fun _ => rfl) rfl
  consumer _ _ _ h := h.1.congr rfl (fun _ => rfl) rfl
  level _ _ _ _ h := h.congr (by simp) (by simp) (by simp)
  mute _ _ _ _ h := h.congr (by simp) (by simp) (by simp)
  map k m s h := by
    cases hc : s.entries.get k with
    | none => exact h.congr (Tab.modify_id _ _ (by simp [hc])) (fun _ => rfl) rfl
    | some c =>
      have he : (s.storeMap k m).entries = s.entries.set k (some { c with map := m }) := by
        simp [State.storeMap, Tab.modify, hc]
      have hports := h.1.consumer hc
      exact ⟨h.1.changeEntry hc he (fun _ => rfl) rfl rfl ⟨hports.1, hports.2⟩ fun _ hp => .inl hp,
        h.2.congr fun _ => ⟨rfl, rfl⟩⟩
  take _ _ _ h _ _ := h.congr (by simp) (by simp) (by simp)
  wait _ _ _ h _ _ _ _ := h.congr rfl (fun _ => rfl) rfl
  release _ _ h := h.congr (by simp) (by simp [State.passOn]) (by simp)
  leave _ _ _ h := h.congr rfl (fun _ => rfl) rfl
  pad i on _ h := h.congr (by simp) (fun k => State.seated_congr (by simp) k) (by simp)
  phantom _ _ _ h := h.congr (by simp) (by simp) (by simp)
  clearSat who i s h := h.congr rfl (fun k => State.seated_updatePair k i s who fun q => { q with sat := 0 }) rfl
  clearSets p clear _ h := h.modPort_same p (fun _ => by split <;> rfl) fun _ => by split <;> rfl
  clearCounters _ _ _ h := h.congr rfl (fun _ => rfl) rfl
  lock _ _ _ h := h.congr rfl (fun _ => rfl) rfl
  force _ _ h := h.congr (by simp) (by simp) (by simp)
  rate r _ h := h.changeRate r
  align _ _ h := h.congr rfl (fun _ => rfl) rfl
  resetHold p _ h := h.enterHold p _ _
  resetFlush _ _ h := h.congr rfl (fun _ => rfl) rfl
  restart _ _ h := h.congr rfl (fun _ => rfl) rfl
  ignore _ h := h.congr rfl (fun _ => rfl) rfl
  reoffer p tag _ o _ _ h _ _ := h.reoffer p tag o
  resolveOffer p tag _ o _ _ h _ hst :=
    h.resolveOffer tag o (h.1.free (by rcases hst with hst | hst <;> rw [hst] <;> nofun))
  matchConfirm p tag c _ _ h hst := h.matchConfirm p tag c hst

/-! ## Transmit queues -/

/-- The transmit queues hold at most 512 bytes, and none while the lane's port is in DOWN or HOLD. -/
def State.txOk (s : State) : Prop :=
  (∀ n, (s.comm.tx.get n).queue.length ≤ 512) ∧
    ∀ p, (s.ports.get p).state = .down ∨ (s.ports.get p).state = .hold → (s.comm.tx.get p.succ).queue = []

theorem frameOf_length (body : List Byte) : (frameOf body).length = body.length + 4 := by simp [frameOf]

theorem offerBody_length (p : Port) (rate : BoxRate) (nonce : BitVec 32) : (offerBody p rate nonce).length = 20 := rfl

theorem confirmBody_length (tag : Byte) (nonce : BitVec 32) (r : Resolved) : (confirmBody tag nonce r).length = 9 := rfl

theorem refuseBody_length (tag : Byte) (why : Reason) (nonce : BitVec 32) : (refuseBody tag why nonce).length = 7 := rfl

/-- The port of a split lane is in a state in which the part sends on it. -/
def State.sending (s : State) (l : LaneId) : Prop :=
  ∀ p, l = .split p → ¬((s.ports.get p).state = .down ∨ (s.ports.get p).state = .hold)

theorem State.sending_panel (s : State) : s.sending .panel := nofun

theorem State.sending_split {s : State} {p : Port}
    (h : ¬((s.ports.get p).state = .down ∨ (s.ports.get p).state = .hold)) : s.sending (.split p) := by
  rintro q ⟨⟩
  exact h

theorem State.laneUp.sending {s : State} {l : LaneId} (h : s.laneUp l) : s.sending l := by
  intro p hp
  rcases h p hp with h | h | h <;> simp [h]

/-- A bound port is no silent one. -/
theorem State.tableOk.seated_sending {s : State} (h : s.tableOk) {l : LaneId} (hl : s.seatedLane l) : s.sending l := by
  intro p hp
  obtain ⟨k, hk⟩ := Option.isSome_iff_exists.mp (hl p hp)
  obtain ⟨c, hc, hpc⟩ := seatOf_get _ _ _ hk
  rw [(h.consumer hc).2.2.2 p hpc]
  simp

theorem State.txOk.congr {s t : State} (h : s.txOk) (hp : t.ports = s.ports) (hc : t.comm.tx = s.comm.tx) : t.txOk := by
  unfold State.txOk
  rw [hp, hc]
  exact h

/-- What joins the queues of lanes on which the part sends. -/
theorem State.txOk.heardOn {s t : State} (h : s.txOk) {live : LaneId → Prop} (hl : ∀ l, live l → t.sending l)
    (hp : ∀ p, (t.ports.get p).state = .down ∨ (t.ports.get p).state = .hold →
      (s.ports.get p).state = .down ∨ (s.ports.get p).state = .hold)
    (hc : s.comm.heardOn live t.comm) : t.txOk := by
  refine ⟨fun n => (hc.1 n).trans (max_le le_rfl (h.1 n)), fun p hs => ?_⟩
  rw [hc.2 p fun hlive => hl _ hlive p rfl hs]
  exact h.2 p (hp p hs)

theorem State.txOk.heard {s t : State} (h : s.txOk) (ht : s.tableOk) (hh : s.heard t) : t.txOk := by
  obtain ⟨he, hp, hc⟩ := hh
  refine h.heardOn (fun l hl => ?_) (fun p hs => by rwa [hp] at hs) hc
  have := ht.seated_sending hl
  unfold State.sending at this ⊢
  rwa [hp]

/-- A change of one port that leaves it in its state, or in one in which the part sends. -/
theorem State.txOk.modPort {s : State} (h : s.txOk) (p : Port) {f : LinkPort → LinkPort}
    (hf : (f (s.ports.get p)).state = (s.ports.get p).state ∨
      ¬((f (s.ports.get p)).state = .down ∨ (f (s.ports.get p)).state = .hold)) : (s.modPort p f).txOk := by
  refine ⟨h.1, fun q hs => ?_⟩
  simp only [State.modPort, Tab.get_modify] at hs
  split at hs
  · rename_i hq
    subst hq
    rcases hf with hf | hf
    · exact h.2 q (hf ▸ hs)
    · exact absurd hs hf
  · exact h.2 q hs

theorem State.txOk.raiseLink {s : State} (h : s.txOk) (p : Port) (b : PortState) (flags : Tab 12 Bool) :
    (s.raiseLink p b flags).txOk := by
  refine h.heardOn (live := fun l => l = .panel) (fun l hl => hl ▸ State.sending_panel _) (fun _ hs => hs) ?_
  exact Comm.heardOn.offers (fun l hl => List.mem_singleton.mp hl) _ _

theorem State.used_raiseLink (s : State) (p q : Port) (b : PortState) (flags : Tab 12 Bool) :
    (s.raiseLink q b flags).comm.used (.split p) = s.comm.used (.split p) := by
  have hc : s.comm.heardOn (fun l => l = .panel) (s.raiseLink q b flags).comm :=
    Comm.heardOn.offers (fun l hl => List.mem_singleton.mp hl) _ _
  unfold Comm.used
  exact congrArg (fun t => t.queue.length) (hc.2 p (by simp))

theorem Comm.used_queueFrame (c : Comm) (l : LaneId) (body : List Byte) :
    (c.queueFrame l body).used l = c.used l + (body.length + 4) := by
  simp [Comm.used, Comm.queueFrame, frameOf_length]

/-- The part sends a frame that fits. -/
theorem State.txOk.send {s : State} (h : s.txOk) {l : LaneId} (hl : s.sending l) {body : List Byte}
    (hfit : s.comm.used l + (body.length + 4) ≤ 512) : (s.send l body).txOk := by
  refine h.heardOn (live := fun m => m = l) (fun m hm => hm ▸ hl) (fun _ hs => hs) ?_
  exact Comm.heardOn.queueFrame rfl (by rwa [frameOf_length])

theorem State.flushList_heardOn (s : State) (l : LaneId) (subs : List Subject) (c : Comm) :
    c.heardOn (fun m => m = l) (s.flushList l subs c) := by
  induction subs generalizing c with
  | nil => exact .refl c
  | cons sub subs ih =>
    unfold State.flushList
    split
    · exact .refl c
    · rename_i n _
      split
      · rename_i hpass
        refine ((Comm.heardOn.queueFrame (live := fun m => m = l) rfl (Comm.passes_fits hpass)).trans (.of_tx ?_)).trans (ih _)
        rw [Comm.setMark_tx, Comm.told_tx]
      · exact .refl c

theorem State.txOk.flush {s : State} (h : s.txOk) {l : LaneId} (hl : s.sending l) : (s.flush l).txOk :=
  h.heardOn (live := fun m => m = l) (fun _ hm => hm ▸ hl) (fun _ hs => hs) (s.flushList_heardOn l _ _)

theorem State.txOk.flushLane {s : State} (h : s.txOk) (l : LaneId) : (s.flushLane l).txOk := by
  refine ⟨fun n => ?_, fun p hs => ?_⟩
  · rw [State.flushLane_comm, Tab.get_modify]
    split
    · exact Nat.zero_le _
    · exact h.1 n
  · rw [State.flushLane_comm, Tab.get_modify]
    split
    · rfl
    · exact h.2 p hs

/-! ## Entries to a port state -/

/-- A port leaves for a state in which its lane has been flushed. -/
theorem State.txOk.leaves {s t : State} (h : s.txOk) (p : Port) (b : Bool)
    (hp : ∀ q, q ≠ p → (t.ports.get q).state = (s.ports.get q).state)
    (hc : (s.comm.flushed p b).heardOn (fun l => l = .panel) t.comm) : t.txOk := by
  have hq : ∀ n, ((s.comm.flushed p b).tx.get n).queue.length ≤ 512 := fun n => by
    simp only [Comm.flushed, Tab.get_set]
    split
    · exact Nat.zero_le _
    · exact h.1 n
  refine ⟨fun n => (hc.1 n).trans (max_le le_rfl (hq n)), fun q hs => ?_⟩
  rw [hc.2 q (by simp)]
  simp only [Comm.flushed, Tab.get_set]
  split
  · rfl
  · rename_i hne
    exact h.2 q (hp q (fun h => hne (by rw [h])) ▸ hs)

section
variable {s : State} (h : s.txOk)
include h

theorem State.txOk.enterHold (p : Port) (flags : Tab 12 Bool) (stamp : Nat) : (s.enterHold p flags stamp).txOk := by
  refine h.leaves p true (fun q hq => ?_) ?_
  · rw [State.enterHold_ports, Tab.get_modify, if_neg hq]
  · rw [← State.leaving_comm p stamp true s]
    exact Comm.heardOn.offers (fun l hl => List.mem_singleton.mp hl) _ _

theorem State.txOk.enterDown (p : Port) (flags : Tab 12 Bool) (stamp : Nat) : (s.enterDown p flags stamp).txOk := by
  refine h.leaves p false (fun q hq => ?_) ?_
  · rw [State.enterDown_ports, Tab.get_modify, if_neg hq]
  · rw [← State.leaving_comm p stamp false s]
    exact Comm.heardOn.offers (fun l hl => List.mem_singleton.mp hl) _ _

omit h in
theorem State.used_of_silent (h : s.txOk) {p : Port} (hs : (s.ports.get p).state = .down ∨ (s.ports.get p).state = .hold) :
    s.comm.used (.split p) = 0 := by
  rw [Comm.used, LaneId.idx, h.2 p hs, List.length_nil]

/-- The part's OFFER and its LINK event, where the OFFER fits. -/
theorem State.txOk.enterOffer {p : Port} (hfit : s.comm.used (.split p) + 24 ≤ 512) : (s.enterOffer p).txOk := by
  have h1 := h.modPort p (f := fun q => { q.discardAll.goTo .offer with
    nonce := some (Config.freeNonce s.draws), timer := some (.offerWait, s.clock) }) (.inr (by simp [LinkPort.goTo]))
  have h2 : ({ s.modPort p fun q => { q.discardAll.goTo .offer with
      nonce := some (Config.freeNonce s.draws), timer := some (.offerWait, s.clock) } with draws := s.draws + 1 }).txOk :=
    h1.congr rfl rfl
  refine State.txOk.send (h2.raiseLink p (s.ports.get p).state noFlags) ?_ ?_
  · exact State.sending_split (by simp [State.modPort, LinkPort.goTo])
  · rw [State.used_raiseLink, offerBody_length]
    exact hfit

omit h in
theorem State.used_enterOffer (s : State) (p : Port) :
    (s.enterOffer p).comm.used (.split p) = s.comm.used (.split p) + 24 := by
  unfold State.enterOffer
  dsimp only [State.send]
  rw [Comm.used_queueFrame, State.used_raiseLink, offerBody_length]
  rfl

omit h in
theorem State.leaveIfBound_tx (s : State) (p : Port) (stamp : Nat) : (s.leaveIfBound p stamp).comm.tx = s.comm.tx := by
  unfold State.leaveIfBound
  split <;> rfl

theorem State.txOk.leaveIfBound (p : Port) (stamp : Nat) : (s.leaveIfBound p stamp).txOk :=
  h.congr (by simp) (s.leaveIfBound_tx p stamp)

theorem State.txOk.enterFault {p : Port} (hp : s.sending (.split p)) (hfit : s.comm.used (.split p) + 11 ≤ 512)
    (why : Reason) (tag : Byte) (nonce : BitVec 32) : (s.enterFault p why tag nonce).txOk := by
  have h1 : (s.send (.split p) (refuseBody tag why nonce)).txOk := h.send hp (by rw [refuseBody_length]; exact hfit)
  have h2 := (h1.leaveIfBound p s.nextStamp).modPort p (f := fun q =>
    { (LinkPort.latch why.flag q).discardAll.goTo .fault with timer := some (.rebindInhibit, s.clock) })
    (.inr (by simp [LinkPort.goTo]))
  exact h2.raiseLink p (s.ports.get p).state (oneFlag why.flag)

theorem State.txOk.resolveOffer {p : Port} (hp : s.sending (.split p)) (hfit : s.comm.used (.split p) + 13 ≤ 512)
    (tag : Byte) (o : PartnerOffer) : (s.resolveOffer p tag o).txOk := by
  unfold State.resolveOffer
  split
  · rename_i r _
    have h1 := h.modPort p (f := fun q => { q.goTo .confirm with
        page := some (o.page r.role), resolved := some r, timer := some (.confirmWait, s.clock) })
      (.inr (by simp [LinkPort.goTo]))
    have hst : ∀ t : State, t.ports = (s.modPort p fun q => { q.goTo .confirm with
        page := some (o.page r.role), resolved := some r, timer := some (.confirmWait, s.clock) }).ports →
        t.sending (.split p) := fun t ht => State.sending_split (by rw [ht]; simp [State.modPort, LinkPort.goTo])
    unfold State.acceptOffer
    dsimp only
    split
    · exact h1.send (hst _ rfl) (by rw [confirmBody_length]; exact hfit)
    · exact State.txOk.send (h1.raiseLink p _ _) (hst _ rfl) (by
        rw [confirmBody_length, State.used_raiseLink]; exact hfit)
  · exact h.enterFault hp (by omega) _ tag _

theorem State.txOk.reoffer {p : Port} (hfit : s.comm.used (.split p) ≤ 416) (tag : Byte) (o : PartnerOffer) :
    (s.reoffer p tag o).txOk := by
  have h1 : (s.leaveBound p s.nextStamp).txOk := h.congr (by simp) rfl
  have hused : (s.leaveBound p s.nextStamp).comm.used (.split p) = s.comm.used (.split p) := rfl
  have h2 := h1.enterOffer (p := p) (by omega)
  refine h2.resolveOffer (State.sending_split ?_) ?_ tag o
  · simp [State.enterOffer_ports, LinkPort.goTo]
  · rw [State.used_enterOffer]
    omega

/-! ## Binds -/

omit h in
/-- A bind that the table refuses leaves it as it was. -/
theorem State.bind_refused (s : State) (r : BindReport) {u : State} {why : Reason} (hb : s.bind r = (u, some why)) :
    u = s := by
  unfold State.bind at hb
  split at hb
  · split at hb
    · simp only [Prod.mk.injEq, reduceCtorEq, and_false] at hb
    · split at hb
      · simp only [Prod.mk.injEq, reduceCtorEq, and_false] at hb
      · exact (congrArg Prod.fst hb).symm
  · split at hb
    · exact (congrArg Prod.fst hb).symm
    · split at hb
      · split at hb <;> simp only [Prod.mk.injEq, reduceCtorEq, and_false] at hb
      · split at hb
        · simp only [Prod.mk.injEq, reduceCtorEq, and_false] at hb
        · exact (congrArg Prod.fst hb).symm

theorem State.txOk.erase (ht : s.tableOk) (k : Seat) : (s.erase k).txOk := by
  have h1 := h.heard ht (State.heard.foldl (f := fun acc i => State.handOn k i acc) (fun s i => s.heard_handOn i k)
    allInputs s)
  unfold State.erase
  dsimp only
  generalize allInputs.foldl (fun acc i => State.handOn k i acc) s = u at h1 ⊢
  exact h1.congr rfl rfl

theorem State.txOk.keepExpired (ht : s.tableOk) (k : Seat) : (s.keepExpired k).txOk := by
  unfold State.keepExpired
  split
  · exact h
  · exact h.erase ht k

theorem State.txOk.createConsumer (k : Seat) (r : BindReport) : (s.createConsumer k r).txOk :=
  h.congr (State.createConsumer_ports k r s) (by rw [State.createConsumer_comm])

theorem State.txOk.bind (ht : s.tableOk) (r : BindReport) : (s.bind r).1.txOk := by
  unfold State.bind
  split
  · split
    · exact h.createConsumer _ r
    · split
      · exact (h.erase ht _).createConsumer _ r
      · exact h
  · split
    · exact h
    · split
      · split
        · exact h.congr rfl rfl
        · exact (h.erase ht _).createConsumer _ r
      · split
        · exact h.congr rfl rfl
        · exact h

theorem State.txOk.bindAccepted {p : Port} (hp : s.sending (.split p)) (r : Resolved) : (s.bindAccepted p r).txOk := by
  unfold State.bindAccepted
  refine State.txOk.flush ?_ hp
  exact h.congr rfl rfl

end

theorem State.txOk.enterBound {s : State} (h : s.txOk) (hl : s.linksOk) {p : Port} (hst : (s.ports.get p).state = .confirm)
    (hfit : s.comm.used (.split p) + 11 ≤ 512) (tag : Byte) (pg : Page) (r : Resolved) :
    (s.enterBound p tag pg r).txOk := by
  have h1 := (h.modPort p (f := fun q => { q.goTo .bound with timer := none })
    (.inr (by simp [LinkPort.goTo]))).raiseLink p (s.ports.get p).state noFlags
  obtain ⟨hl1, hb, -⟩ := hl.bound hst
  have hu := State.used_raiseLink (s.modPort p fun q => { q.goTo .bound with timer := none }) p p (s.ports.get p).state
    noFlags
  unfold State.enterBound
  dsimp only
  generalize (s.modPort p fun q => { q.goTo .bound with timer := none }).raiseLink p (s.ports.get p).state noFlags = u
    at h1 hl1 hb hu ⊢
  have h2 := h1.bind hl1.1 (bindReport p pg r)
  have hports : (u.bind (bindReport p pg r)).1.ports = u.ports := by simp
  split
  · rename_i v hv
    rw [hv] at h2 hports
    refine State.txOk.bindAccepted h2 (State.sending_split ?_) r
    rw [hports, hb]
    simp
  · rename_i v why hv
    obtain rfl := State.bind_refused _ _ hv
    exact h1.enterFault (State.sending_split (by rw [hb]; simp)) (by rw [hu]; exact hfit) _ _ _

theorem State.txOk.matchConfirm {s : State} (h : s.txOk) (hl : s.linksOk) {p : Port}
    (hst : (s.ports.get p).state = .confirm) (hfit : s.comm.used (.split p) + 11 ≤ 512) (tag : Byte) (c : PartnerConfirm) :
    (s.matchConfirm p tag c).txOk := by
  have fault : ∀ why nonce, (s.enterFault p why tag nonce).txOk :=
    fun why nonce => h.enterFault (State.sending_split (by rw [hst]; simp)) hfit why tag nonce
  unfold State.matchConfirm
  split
  · split
    · exact h.enterBound hl hst hfit tag _ _
    · exact fault _ _
  · exact fault _ _
  · exact fault _ _

end Sys2Proof.Machine
end

section
/-! PROOF. Every step keeps the numbers of the part within their bounds (O58). -/

namespace Sys2Proof.Machine

/-! ## The bus and the commands, for the table and the timers -/

theorem linksOk_bus : KeptByBus State.linksOk where
  write _ _ _ _ _ h _ := h.congr (by simp) (by simp) (by simp)
  verify _ _ _ _ _ h _ := h.congr (by simp) (by simp) (by simp)
  status i v _ h := h.congr (by simp) (by simp) (by simp)
  identity _ _ _ h := h.congr (by simp) (fun k => State.seated_congr (by simp) k) (by simp)
  adoption c k w s h _ := h.congr (by simp) (by simp) (by simp)
  startIdentity c v _ h := h.startIdentityEnded c v
  startWrite c k _ h := h.startWriteTaken c k
  startTimeout _ _ _ h := h.congr rfl (fun _ => rfl) rfl
  startVerify c k w _ h := h.startVerified c k w
  startAdoption c k w _ h _ := h.startAdoptionEnded c k w
  discard _ h := h.congr rfl (fun _ => rfl) rfl

theorem linksOk_blind : BlindToLanes State.linksOk :=
  ⟨fun _ _ _ h => h.congr rfl (fun _ => rfl) rfl, fun _ _ h => h.congr rfl (fun _ => rfl) rfl,
    fun _ _ h => h.congr rfl (fun _ => rfl) rfl⟩

theorem State.powerOn_linksOk (s : State) : s.powerOn.linksOk :=
  (State.blocksReset_linksOk Bus.atPowerOn s).congr rfl (fun _ => rfl) rfl

/-! ## The transmit queues at power-on and at READY -/

theorem State.blocksReset_txOk (b : Bus) (s : State) : (s.blocksReset b).txOk := by
  refine ⟨fun n => ?_, fun p _ => ?_⟩ <;> simp [State.blocksReset, State.reset, Comm.atPowerOn, TxSide.atPowerOn]

theorem State.restartNow_txOk (s : State) : s.restartNow.txOk := by
  unfold State.restartNow
  split
  · exact (State.blocksReset_txOk { Bus.atPowerOn with adopting := true } s).congr rfl rfl
  · exact State.blocksReset_txOk _ s

section
variable {s : State} (h : s.txOk)
include h

theorem State.txOk.enterOffer_silent {p : Port} (hs : (s.ports.get p).state = .down ∨ (s.ports.get p).state = .hold) :
    (s.enterOffer p).txOk := h.enterOffer (by rw [State.used_of_silent h hs]; omega)

theorem State.txOk.readyPorts : s.readyPorts.txOk := by
  refine foldl_inv _ State.txOk (fun u p hu => ?_) allPorts s h
  split
  · rename_i hd
    exact hu.enterOffer_silent (.inl hd.2)
  · exact hu

theorem State.txOk.nextChip (c : Chip) : (s.nextChip c).txOk := by
  unfold State.nextChip
  split
  · exact h.congr rfl rfl
  · have h1 : (s.modBus fun b => { b with pass := .ready, pollPos := 0 }).txOk := h.congr rfl rfl
    have h2 := h1.readyPorts
    unfold State.becomeReady
    generalize (s.modBus fun b => { b with pass := .ready, pollPos := 0 }).readyPorts = u at h2 ⊢
    exact h2.congr rfl rfl

theorem State.txOk.raisePanel (n : Notice) : (s.raise [.panel] n).txOk := by
  refine h.heardOn (live := fun l => l = .panel) (by rintro l rfl; exact State.sending_panel _) (fun _ hs => hs) ?_
  exact Comm.heardOn.offers (fun l hl => List.mem_singleton.mp hl) _ _

theorem State.txOk.passFailsChip (c : Chip) : (s.passFailsChip c).txOk := by
  refine State.txOk.nextChip (State.txOk.raisePanel ?_ _) c
  exact h.congr rfl rfl

theorem State.txOk.startIdentityEnded (c : Chip) (v : Option Byte) : (s.startIdentityEnded c v).txOk := by
  unfold State.startIdentityEnded
  split_ifs
  · exact h.congr rfl rfl
  · exact h.congr rfl rfl
  · exact h.passFailsChip c

theorem State.txOk.startWriteTaken (ht : s.tableOk) (c : Chip) (k : Channel) : (s.startWriteTaken c k).txOk := by
  have h1 := h.heard ht ((State.heard_becomeKnown (s.modBus fun b => { b with shadow := b.shadow.set (inputAt c k) 0#8 })
    (inputAt c k) (wordSetting 0#8)).after rfl rfl rfl)
  unfold State.startWriteTaken
  dsimp only
  generalize (s.modBus fun b => { b with shadow := b.shadow.set (inputAt c k) 0#8 }).becomeKnown (inputAt c k)
    (wordSetting 0#8) = u at h1 ⊢
  split
  · exact h1.congr rfl rfl
  · refine State.txOk.nextChip (State.txOk.raisePanel ?_ _) c
    exact h1.congr rfl rfl

theorem State.txOk.startVerified (ht : s.tableOk) (c : Chip) (k : Channel) (w : Option Byte) :
    (s.startVerified c k w).txOk := by
  unfold State.startVerified
  split
  · exact h.startWriteTaken ht c k
  · exact (h.heard ht (State.heard.foldl (f := fun acc i => State.faultMove i acc) (fun s i => s.heard_faultMove i) _ s)).passFailsChip c

theorem State.txOk.startAdoptionEnded (ht : s.tableOk) (c : Chip) (k : Channel) (w : Option Byte) :
    (s.startAdoptionEnded c k w).txOk := by
  unfold State.startAdoptionEnded
  cases w with
  | none => exact h.passFailsChip c
  | some x =>
    dsimp only
    split
    · exact h.congr rfl rfl
    · exact (h.heard ht (s.heard_adoptChip true c _)).nextChip c

/-! ## The events of the links -/

theorem State.txOk.changeRate (ht : s.tableOk) (r : BoxRate) : (s.changeRate r).txOk := by
  have h1 := h.heard ht ((State.heard_updateAllPairs { s with rate := r }
    fun i q => Pair.rest r.fade (s.moves.get i).status (s.analog i) q).after rfl rfl rfl)
  unfold State.changeRate State.holdLivePorts
  refine foldl_inv _ State.txOk (fun u p hu => ?_) allPorts _ h1
  split
  · exact hu
  · exact hu.enterHold p _ _

theorem State.txOk.latch (p : Port) (f : LinkFlag) : (s.modPort p (LinkPort.latch f)).txOk := h.modPort p (.inl rfl)

theorem State.txOk.breakOn (l : LaneId) : (s.breakOn l).txOk := by
  cases l with
  | panel => exact h
  | split p =>
    have h1 := h.flushLane (.split p)
    have h2 := h1.latch p .breakSeen
    unfold State.breakOn State.breakReported
    dsimp only
    split
    · exact h1
    · exact h2
    all_goals exact h2.enterHold p _ _

theorem State.txOk.carrierArrives (p : Port) : (s.carrierArrives p).txOk := by
  have h1 := h.modPort p (f := fun q => { q with carrier := true }) (.inl rfl)
  unfold State.carrierArrives
  dsimp only
  split
  · rename_i hd
    exact h1.enterOffer_silent (.inl (by simp [State.modPort, hd.1]))
  · exact h1

theorem State.txOk.carrierLost (p : Port) : (s.carrierLost p).txOk := by
  have h1 := h.modPort p (f := fun q => { q with carrier := false }) (.inl rfl)
  unfold State.carrierLost
  dsimp only
  split
  · exact h1
  · exact (h1.latch p _).enterDown p _ _

theorem State.txOk.holdExpired (hl : s.linksOk) (p : Port) : (s.holdExpired p).txOk := by
  unfold State.holdExpired
  split
  · rename_i hr
    split
    · exact h.enterOffer_silent (.inr (hl.state_of_runs hr))
    · exact h.enterDown p _ _
  · exact h

theorem State.txOk.offerWaitExpired (p : Port) : (s.offerWaitExpired p).txOk := by
  unfold State.offerWaitExpired
  split
  · exact (h.latch p _).enterHold p _ _
  · exact h

theorem State.txOk.confirmWaitExpired (p : Port) : (s.confirmWaitExpired p).txOk := by
  unfold State.confirmWaitExpired
  split
  · exact (h.latch p _).enterHold p _ _
  · exact h

theorem State.txOk.inhibitExpired (p : Port) : (s.inhibitExpired p).txOk := by
  unfold State.inhibitExpired
  split
  · exact h.enterHold p _ _
  · exact h

end

/-! ## The taking of records -/

/-- What the taking of records and the sending of bytes rest on: the table, the names and the transmit queues. -/
structure State.sendsOk (s : State) : Prop where
  links : s.linksOk
  names : s.namesOk
  tx : s.txOk

theorem State.sendsOk.congr {s t : State} (h : s.sendsOk) (he : t.entries = s.entries)
    (hs : ∀ k, t.seated k = s.seated k) (hp : t.ports = s.ports) (hc : t.comm.tx = s.comm.tx) : t.sendsOk :=
  ⟨h.links.congr he hs hp, h.names.congr he hp, h.tx.congr hp hc⟩

/-- What is told of to those who are to hear it. -/
theorem State.sendsOk.heard {s t : State} (h : s.sendsOk) (hs : ∀ k, t.seated k = s.seated k) (hh : s.heard t) : t.sendsOk :=
  ⟨h.links.congr hh.1 hs hh.2.1, h.names.congr hh.1 hh.2.1, h.tx.heard h.links.1 hh⟩

/-- The sending of a frame that fits. -/
theorem State.sendsOk.send {s : State} (h : s.sendsOk) {l : LaneId} (hl : s.sending l) {body : List Byte}
    (hfit : s.comm.used l + (body.length + 4) ≤ 512) : (s.send l body).sendsOk :=
  ⟨h.links.congr rfl (fun _ => rfl) rfl, h.names.congr rfl rfl, h.tx.send hl hfit⟩

/-- A QUERY_CONSUMER reply is of at most 30 bytes, the name's 16 among them (R169). -/
theorem State.namesOk.consumerPayload {s : State} (h : s.namesOk) (index : Byte) : (s.consumerPayload index).length ≤ 30 := by
  unfold State.consumerPayload
  split
  · simp [be32, panelName]
  · split
    · simp
    · split
      · simp [be32]
      · rename_i c hc
        have := h.1 _ c hc
        simp only [List.length_append, List.length_cons, List.length_nil, be32]
        omega

theorem sendsOk_records (l : LaneId) :
    KeptByRecords l (fun s => s.sendsOk ∧ s.comm.used l ≤ 416) State.sendsOk where
  stays _ h := h.1.1
  reply tag kind r payload _ h hlen := h.1.1.send h.2.sending (by
    have := h.1.2
    simp only [replyBody, List.length_append, List.length_cons, List.length_nil]
    omega)
  consumer tag index _ h := h.1.1.send h.2.sending (by
    have := h.1.2
    have := h.1.1.names.consumerPayload index
    simp only [replyBody, List.length_append, List.length_cons, List.length_nil]
    omega)
  level who i field s h := h.heard (by simp) (s.heard_setLevel i who _)
  mute _ _ _ _ h := h.congr (by simp) (by simp) (by simp) (by simp)
  map k m s h := ⟨(linksOk_records l).map k m s h.links, (namesOk_records l).map k m s h.names, h.tx.congr rfl rfl⟩
  take who i s h _ _ := h.heard (by simp) (s.heard_changeOwner i _)
  wait _ _ _ h _ _ _ _ := h.congr rfl (fun _ => rfl) rfl rfl
  release i s h := h.heard (by simp [State.passOn]) (s.heard_changeOwner i _)
  leave _ _ _ h := h.congr rfl (fun _ => rfl) rfl rfl
  pad i on _ h := h.congr (by simp) (fun k => State.seated_congr (by simp) k) (by simp) (by simp)
  phantom i on s h := h.heard (by simp) (s.heard_phantomRequest i on)
  clearSat who i s h := h.congr rfl (fun k => State.seated_updatePair k i s who fun q => { q with sat := 0 }) rfl rfl
  clearSets p clear s h := ⟨(linksOk_records l).clearSets p clear s h.links, (namesOk_records l).clearSets p clear s h.names,
    h.tx.modPort p (.inl (by split <;> rfl))⟩
  clearCounters _ _ _ h := h.congr rfl (fun _ => rfl) rfl rfl
  lock _ _ _ h := h.congr rfl (fun _ => rfl) rfl rfl
  force i s h := h.heard (by simp) (s.heard_changeOwner i _)
  rate r _ h := ⟨h.links.changeRate r, h.names.changeRate r, h.tx.changeRate h.links.1 r⟩
  align _ _ h := h.congr rfl (fun _ => rfl) rfl rfl
  resetHold p _ h := ⟨h.links.enterHold p _ _, h.names.enterHold p _ _, h.tx.enterHold p _ _⟩
  resetFlush p _ h := ⟨h.links.congr rfl (fun _ => rfl) rfl, h.names.congr rfl rfl, h.tx.flushLane _⟩
  restart _ _ h := h.congr rfl (fun _ => rfl) rfl rfl
  ignore _ h := h.1.congr rfl (fun _ => rfl) rfl rfl
  reoffer p tag fields o s hl h ho hb := ⟨h.1.links.reoffer p tag o, h.1.names.reoffer p tag (parseOffer_name ho),
    h.1.tx.reoffer (by have := h.2; rwa [hl] at this) tag o⟩
  resolveOffer p tag fields o s hl h ho hst := ⟨(linksOk_records l).resolveOffer p tag fields o s hl h.1.links ho hst,
    h.1.names.resolveOffer p tag (parseOffer_name ho),
    h.1.tx.resolveOffer (State.sending_split (by rcases hst with hst | hst <;> rw [hst] <;> simp))
      (by have := h.2; rw [hl] at this; omega) tag o⟩
  matchConfirm p tag c s hl h hst := ⟨h.1.links.matchConfirm p tag c hst, h.1.names.matchConfirm p tag c,
    h.1.tx.matchConfirm h.1.links hst (by have := h.2; rw [hl] at this; omega) tag c⟩

theorem State.canTake_used {s : State} {l : LaneId} (h : s.canTake l = true) : s.comm.used l ≤ 416 := by
  have := of_decide_eq_true ((Bool.and_eq_true _ _).mp h).1
  simp only [Config.reserve, Config.transmitRoom] at this
  omega

section
variable {s : State} (h : s.sendsOk)
include h

theorem State.sendsOk.modRx (l : LaneId) (f : RxSide → RxSide) : (s.modRx l f).sendsOk :=
  h.congr rfl (fun _ => rfl) rfl rfl

theorem State.sendsOk.takeHeld {l : LaneId} (ht : s.canTake l = true) (body : List Byte) : (s.takeHeld l body).sendsOk := by
  unfold State.takeHeld
  refine State.sendsOk.modRx ?_ l _
  split
  · exact (sendsOk_records l).takeRecord ⟨h, State.canTake_used ht⟩ _ _ _
  · exact h

/-- A lane takes its records only where there is room for their answers. -/
theorem State.sendsOk.readOn (l : LaneId) (n : Nat) : (State.readOn l n s).sendsOk := by
  induction n generalizing s with
  | zero => exact h
  | succ n ih =>
    unfold State.readOn
    split
    · split
      · rename_i ht
        exact ih (h.takeHeld ht _)
      · exact h
    · split
      · exact h
      · exact ih (h.modRx l _)

theorem State.sendsOk.deliver (l : LaneId) (kind tag : Byte) (fields : List Byte) : (s.deliver l kind tag fields).sendsOk :=
  State.deliver_inv State.sendsOk (fun l _ _ hs => hs.modRx l _) (fun l _ _ hs => hs.modRx l _)
    (fun l _ hs => hs.readOn l _) l kind tag fields s h

theorem State.sendsOk.breakOn (l : LaneId) : (s.breakOn l).sendsOk :=
  ⟨h.links.breakOn l, h.names.breakOn l, h.tx.breakOn l⟩

theorem State.sendsOk.roomGained {l : LaneId} (hl : s.sending l) : (s.roomGained l).sendsOk := by
  have h1 : (s.flush l).sendsOk := ⟨h.links.congr rfl (fun _ => rfl) rfl, h.names.congr rfl rfl, h.tx.flush hl⟩
  exact h1.readOn l _

/-- A byte leaves only a lane on which the part sends. -/
theorem State.sendsOk.byteSent (l : LaneId) : (s.byteSent l).sendsOk := by
  unfold State.byteSent
  split
  · exact h
  · exact h
  · rename_i b rest hq _
    have hl : s.sending l := by
      rintro p rfl hs
      have := h.tx.2 p hs
      rw [LaneId.idx] at hq
      rw [hq] at this
      cases this
    have h1 : (s.modTx l fun t => { t with queue := rest }).sendsOk := by
      refine ⟨h.links.congr rfl (fun _ => rfl) rfl, h.names.congr rfl rfl, fun n => ?_, fun p hs => ?_⟩
      · simp only [State.modTx, Tab.get_modify]
        split
        · have := h.tx.1 l.idx
          rw [hq, List.length_cons] at this
          exact Nat.le_of_succ_le this
        · exact h.tx.1 n
      · simp only [State.modTx, Tab.get_modify]
        split
        · rename_i hn
          cases l with
          | panel => exact absurd hn (Fin.succ_ne_zero p)
          | split q =>
            obtain rfl := Fin.succ_injective 6 hn
            exact absurd hs (hl p rfl)
        · exact h.tx.2 p hs
    dsimp only
    split
    · split
      · exact ⟨State.restartNow_linksOk _, State.restartNow_namesOk _, State.restartNow_txOk _⟩
      · refine State.sendsOk.roomGained ?_ (State.sending_panel _)
        exact h1.congr rfl (fun _ => rfl) rfl rfl
    · exact h1.roomGained (State.sending_panel _)
    · exact h1.roomGained hl

end

/-! ## Every step -/

theorem sendsOk_bus : KeptByBus State.sendsOk where
  write _ _ _ _ _ h _ := h.congr (by simp) (by simp) (by simp) (by simp)
  verify c o n w s h _ := by
    have h1 := h.heard (by simp) (s.heard_verified c o n w)
    exact h1.congr rfl (fun _ => rfl) rfl rfl
  status i v s h := by
    have h1 := h.heard (by simp) (s.heard_statusEnded i v)
    exact h1.congr rfl (fun _ => rfl) rfl rfl
  identity _ _ _ h := h.congr (by simp) (fun k => State.seated_congr (by simp) k) (by simp) (by simp)
  adoption c k w s h _ := by
    have h1 := h.heard (by simp) (s.heard_adoptionEnded c k w)
    exact h1.congr rfl (fun _ => rfl) rfl rfl
  startIdentity c v _ h := ⟨h.links.startIdentityEnded c v, h.names.startIdentityEnded c v, h.tx.startIdentityEnded c v⟩
  startWrite c k _ h := ⟨h.links.startWriteTaken c k, h.names.startWriteTaken c k, h.tx.startWriteTaken h.links.1 c k⟩
  startTimeout _ _ _ h := h.congr rfl (fun _ => rfl) rfl rfl
  startVerify c k w _ h := ⟨h.links.startVerified c k w, h.names.startVerified c k w, h.tx.startVerified h.links.1 c k w⟩
  startAdoption c k w _ h _ :=
    ⟨h.links.startAdoptionEnded c k w, h.names.startAdoptionEnded c k w, h.tx.startAdoptionEnded h.links.1 c k w⟩
  discard _ h := h.congr rfl (fun _ => rfl) rfl rfl

theorem State.txOk.driveBreak {s : State} (h : s.txOk) (l : LaneId) (b : Bool) : (s.driveBreak l b).txOk := by
  refine ⟨fun n => ?_, fun p hs => ?_⟩ <;> simp only [State.driveBreak, State.modTx, Tab.get_modify]
  · split
    · rename_i hn
      subst hn
      exact h.1 _
    · exact h.1 n
  · split
    · exact h.2 p hs
    · exact h.2 p hs

theorem sendsOk_step : KeptByStep State.sendsOk where
  pending _ _ h := h.congr rfl (fun _ => rfl) rfl rfl
  powerOn s _ := ⟨s.powerOn_linksOk, (State.blocksReset_namesOk Bus.atPowerOn s).congr rfl rfl,
    (State.blocksReset_txOk Bus.atPowerOn s).congr rfl rfl⟩
  restart s _ := ⟨s.restartNow_linksOk, s.restartNow_namesOk, s.restartNow_txOk⟩
  samplePeriod x s h := h.heard (by simp) (s.heard_samplePeriod x)
  rampStep who i s h := h.heard (by simp) (s.heard_rampStep i who)
  landing i s h := h.heard (by simp) (s.heard_landIfDue i)
  fadeOutEnd i s h := h.heard (fun k => State.seated_congr (by simp) k) (s.heard_endFadeOut i)
  fadeInEnd i s h := h.heard (fun k => State.seated_congr (by simp) k) (s.heard_endFadeIn i)
  settle _ _ h := h.congr (by simp) (by simp) (by simp) (by simp)
  keep k s h := ⟨h.links.keepExpired k, namesOk_step.keep k s h.names, h.tx.keepExpired h.links.1 k⟩
  carrierArrival p _ h := ⟨h.links.carrierArrives p, h.names.carrierArrives p, h.tx.carrierArrives p⟩
  carrierLoss p _ h := ⟨h.links.carrierLost p, h.names.carrierLost p, h.tx.carrierLost p⟩
  character l v parity stop start s h := State.characterReceived_inv State.sendsOk (fun l _ h => h.breakOn l)
    (fun l _ _ _ _ _ _ h => h.modRx l _) (fun l _ h => h.readOn l _) l v parity stop start s h
  break_ l _ h := h.breakOn l
  byte l _ h := h.byteSent l
  breakEnd p _ h := ⟨h.links.congr rfl (fun _ => rfl) rfl, h.names.congr rfl rfl, h.tx.driveBreak _ _⟩
  hold p _ h := ⟨h.links.holdExpired p, h.names.holdExpired p, h.tx.holdExpired h.links p⟩
  offerWait p _ h := ⟨h.links.offerWaitExpired p, h.names.offerWaitExpired p, h.tx.offerWaitExpired p⟩
  confirmWait p _ h := ⟨h.links.confirmWaitExpired p, h.names.confirmWaitExpired p, h.tx.confirmWaitExpired p⟩
  inhibit p _ h := ⟨h.links.inhibitExpired p, h.names.inhibitExpired p, h.tx.inhibitExpired p⟩
  record l kind tag fields _ h := h.deliver l kind tag fields
  bus := sendsOk_bus

/-- The numbers of the part by the block they belong to. -/
theorem State.numbersOk_iff (s : State) : s.numbersOk ↔ s.audioOk ∧ s.txOk ∧ s.namesOk ∧ s.rxOk :=
  ⟨fun ⟨hpairs, halign, hland, hlen, hsilent, hname, hpage, hclip, hrx⟩ =>
    ⟨⟨hpairs, halign, hland, hclip⟩, ⟨hlen, hsilent⟩, ⟨hname, hpage⟩, hrx⟩,
   fun ⟨⟨hpairs, halign, hland, hclip⟩, ⟨hlen, hsilent⟩, ⟨hname, hpage⟩, hrx⟩ =>
    ⟨hpairs, halign, hland, hlen, hsilent, hname, hpage, hclip, hrx⟩⟩

/-- Settles O58, block by block: the audio path, the receiving sides, the names, and the transmit queues, which a record is
answered on only where its lane has the room of R158 and a notice joins only where it passes the reserve test of R160. -/
theorem everyStepKeepsNumbers : Obligations.EveryStepKeepsNumbers := by
  intro s t htable htimers hs ht
  obtain ⟨haudio, htx, hnames, hrx⟩ := s.numbersOk_iff.mp hs
  have hsends := sendsOk_step.step ⟨⟨htable, htimers⟩, hnames, htx⟩ ht
  exact t.numbersOk_iff.mpr ⟨audioOk_step.step haudio ht, hsends.tx, hsends.names, rxOk_step.step hrx ht⟩

end Sys2Proof.Machine
end

section
/-! PROOF. Power-on, restart, and the step as a whole (O1 to O4, O60). -/

namespace Sys2Proof.Machine

/-- Settles O1. -/
theorem stepRunsTheFrontCommand : Obligations.StepRunsTheFrontCommand := by
  refine ⟨fun c rest s => rfl, fun s hs => ?_⟩
  unfold Machine.step
  rw [hs]

/-! ## The queue of waiting commands -/

/-- The waiting commands are `q`. -/
def State.waits (q : List Instr) (s : State) : Prop := s.pending = q

theorem State.waits.congr {q : List Instr} {s t : State} (h : s.waits q) (hp : t.pending = s.pending) : t.waits q := hp.trans h

theorem waits_blind (q : List Instr) : BlindToLanes (State.waits q) := ⟨fun _ _ _ h => h, fun _ _ h => h, fun _ _ h => h⟩

theorem waits_records (q : List Instr) (l : LaneId) : KeptByRecords l (State.waits q) (State.waits q) where
  stays _ h := h.1
  reply _ _ _ _ _ h _ := h.1
  consumer _ _ _ h := h.1
  level _ _ _ _ h := h.congr (by simp)
  mute _ _ _ _ h := h
  map _ _ _ h := h
  take _ _ _ h _ _ := h.congr (by simp)
  wait _ _ _ h _ _ _ _ := h
  release _ _ h := h.congr (by simp)
  leave _ _ _ h := h
  pad _ _ _ h := h.congr (by simp)
  phantom _ _ _ h := h.congr (by simp)
  clearSat _ _ _ h := h
  clearSets _ _ _ h := h
  clearCounters _ _ _ h := h
  lock _ _ _ h := h
  force _ _ h := h.congr (by simp)
  rate _ _ h := h.congr (by simp)
  align _ _ h := h
  resetHold _ _ h := h.congr (by simp)
  resetFlush _ _ h := h
  restart _ _ h := h
  ignore _ h := h
  reoffer _ _ _ _ _ _ h _ _ := h.congr (by simp)
  resolveOffer _ _ _ _ _ _ h _ _ := h.congr (by simp)
  matchConfirm _ _ _ _ _ h _ := h.congr (by simp)

theorem waits_bus (q : List Instr) : KeptByBus (State.waits q) where
  write _ _ _ _ _ h _ := h.congr (by simp)
  verify _ _ _ _ _ h _ := h.congr (by simp)
  status _ _ _ h := h.congr (by simp)
  identity _ _ _ h := h.congr (by simp)
  adoption _ _ _ _ h _ := h.congr (by simp)
  startIdentity _ _ _ h := h.congr (by simp)
  startWrite _ _ _ h := h.congr (by simp)
  startTimeout _ _ _ h := h
  startVerify _ _ _ _ h := h.congr (by simp)
  startAdoption _ _ _ _ h _ := h.congr (by simp)
  discard _ h := h

theorem State.restartNow_pending (s : State) : s.restartNow.pending = s.pending := by
  unfold State.restartNow
  split <;> rfl

theorem waits_exec (q : List Instr) : KeptByExec (State.waits q) where
  powerOn _ h := h
  restart s h := h.congr s.restartNow_pending
  samplePeriod _ _ h := h.congr (by simp [State.samplePeriod])
  rampStep _ _ _ h := h.congr (by simp)
  landing _ _ h := h.congr (by simp)
  fadeOutEnd _ _ h := h.congr (by simp)
  fadeInEnd _ _ h := h.congr (by simp)
  settle _ _ h := h.congr (by simp)
  keep _ _ h := h.congr (by simp)
  carrierArrival _ _ h := h.congr (by simp)
  carrierLoss _ _ h := h.congr (by simp)
  character l v parity stop start _ h := (waits_blind q).character (waits_records q) h
    (fun _ _ h => h.congr (by simp)) l v parity stop start
  break_ _ _ h := h.congr (by simp)
  byte l _ h := (waits_blind q).byteSent (waits_records q) h (fun s h => h.congr s.restartNow_pending) l
  breakEnd _ _ h := h
  hold _ _ h := h.congr (by simp)
  offerWait _ _ h := h.congr (by simp)
  confirmWait _ _ h := h.congr (by simp)
  inhibit _ _ h := h.congr (by simp)
  record l kind tag fields _ h := (waits_blind q).deliver (waits_records q) h l kind tag fields
  bus := waits_bus q

theorem exec_next (c : Instr) (s : State) : ∃ t, exec c s = .next t := by cases c <;> exact ⟨_, rfl⟩

/-- Settles O2. -/
theorem everyCommandCompletes : Obligations.EveryCommandCompletes := by
  intro c s
  obtain ⟨t, ht⟩ := exec_next c s
  exact ⟨t, ht, (waits_exec s.pending).exec rfl ht⟩

/-! ## Reset -/

theorem Tab.get_historyOnly_down (b : Fin 6) : ((Tab.const 6 false).set 0 true).get b = decide (b = 0) := by
  rw [Tab.get_set]
  by_cases h : b = 0 <;> simp [h]

/-- Settles O3. -/
theorem resetHoldsThePowerOnValues : Obligations.ResetHoldsThePowerOnValues := by
  unfold Obligations.ResetHoldsThePowerOnValues
  refine ⟨rfl, rfl, rfl, ?own, ?moves, ?phantoms, ?chips, ?shadow, ?clips, rfl, rfl, rfl, rfl, ?table, ?pairs, ?streams,
    ?ports, ?rx, ?tx, ?stale, ?inputMarks, ?portMarks, ?chipMarks, ?told⟩
  case ports =>
    intro p
    refine ⟨by simp [State.reset, LinkPort.atPowerOn], by simp [State.reset, LinkPort.atPowerOn],
      by simp [State.reset, LinkPort.atPowerOn], by simp [State.reset, LinkPort.atPowerOn],
      by simp [State.reset, LinkPort.atPowerOn], by simp [State.reset, LinkPort.atPowerOn], fun b => ?_, fun b => ?_⟩
    · simp only [State.reset, Tab.get_const, LinkPort.atPowerOn]
      exact Tab.get_historyOnly_down b
    · simp [State.reset, LinkPort.atPowerOn]
  all_goals
    intros
    simp [State.reset, Ownership.atPowerOn, MoveCtl.atPowerOn, PhantomCtl.atPowerOn, Bus.atPowerOn, PairStore.atPowerOn,
      Pair.atPowerOn, BoxRate.fade, Stream.atPowerOn, RxSide.atPowerOn, Counters.zero, Comm.atPowerOn, TxSide.atPowerOn]

/-- At power-on every block holds its power-on values. -/
theorem State.blocksReset_reset : State.reset = State.reset.blocksReset Bus.atPowerOn := by
  unfold State.blocksReset State.portsAtPowerOn
  have hports : (State.reset.ports.map fun q => { LinkPort.atPowerOn with carrier := q.carrier }) = State.reset.ports := by
    refine Tab.ext_get fun p => ?_
    simp [State.reset, LinkPort.atPowerOn]
  rw [hports]
  rfl

/-- Settles O60. -/
theorem resetIsInOrder : Obligations.ResetIsInOrder := by
  have hlinks : State.reset.linksOk := State.blocksReset_reset ▸ State.blocksReset_linksOk _ _
  have hpartners : State.reset.partnersOk := State.blocksReset_reset ▸ State.blocksReset_partnersOk _ _
  have hgates : State.reset.gatesOk := State.blocksReset_reset ▸ State.blocksReset_gatesOk _ _
  have hwords : State.reset.wordsOk := State.blocksReset_reset ▸ State.blocksReset_wordsOk Bus.atPowerOn_inRange
  have haudio : State.reset.audioOk := State.blocksReset_reset ▸ State.blocksReset_audioOk rfl _
  have hnames : State.reset.namesOk := State.blocksReset_reset ▸ State.blocksReset_namesOk _ _
  have hrx : State.reset.rxOk := State.blocksReset_reset ▸ State.blocksReset_rxOk _ _
  have htx : State.reset.txOk := State.blocksReset_reset ▸ State.blocksReset_txOk _ _
  obtain ⟨howners, hparties⟩ := State.reset.partnersOk_iff.mp hpartners
  exact ⟨howners, hlinks.1, hparties, hlinks.2, hgates, State.reset.numbersOk_iff.mpr ⟨haudio, htx, hnames, hrx⟩, hwords⟩

/-- Settles O4. -/
theorem powerOnAndRestartBeginAPass : Obligations.PowerOnAndRestartBeginAPass := by
  refine fun s => ⟨rfl, fun n hn => ?_, fun hn => ?_⟩
  · refine congrArg Host.Outcome.next ?_
    rw [hn]
    unfold State.restartNow
    cases s.bus.flight <;> rfl
  · refine congrArg Host.Outcome.next ?_
    rw [hn]

end Sys2Proof.Machine
end

section
/-! PROOF. The steps of phantom sequences, targets, and the timers and carriers of the links (O11, O13 to O15, O18 to O21). -/

namespace Sys2Proof.Machine

/-! ## Targets -/

/-- What a target does to an input whose move is under way (R62). -/
theorem State.handTarget_moving {s : State} {i : Input} {f : Setting} (h : (s.moves.get i).move.inFlight = some f)
    (a : Setting) : s.handTarget i a =
      { s with moves := s.moves.set i { s.moves.get i with pending := if a = f then none else some a } } := by
  simp [State.handTarget, MoveCtl.deal, h]

/-- Settles O15: the four cases of R61 on an idle input, and R62 on a moving one. -/
theorem targetsAreDealtWithInOrder : Obligations.TargetsAreDealtWithInOrder := by
  refine fun i a s => ⟨fun f hf => s.handTarget_moving hf a, fun hidle => ?_⟩
  have hnone : (s.moves.get i).move.inFlight = none := by rw [hidle]; rfl
  refine ⟨fun ha => ?_, fun ha hf => ?_, fun ha hf hhold => ?_, fun ha hf hknown hseq => ?_⟩
  · simp [State.handTarget, MoveCtl.deal, hnone, ha]
  · simp [State.handTarget, MoveCtl.deal, hnone, ha, hf]
  · have hh : s.holds i = true := by simpa [State.holds] using hhold
    simp [State.handTarget, MoveCtl.deal, hnone, ha, hf, hh]
  · have hh : s.holds i = false := by simp [State.holds, hknown, hseq]
    simp [State.handTarget, MoveCtl.deal, hnone, ha, hf, hh, Bus.addWrite]

/-! ## The steps of a phantom sequence -/

theorem mem_ofInput_iff {ps : PairStore} {i : Input} {q : Pair} : q ∈ ps.ofInput i ↔ ∃ who, ps.get who i = some q := by
  refine ⟨fun h => ?_, fun ⟨who, h⟩ => mem_ofInput h⟩
  obtain ⟨who, -, h⟩ := List.mem_filterMap.mp h
  exact ⟨who, h⟩

theorem State.allSilent_iff (s : State) (i : Input) :
    s.allSilent i = true ↔ ∀ who q, s.pair? who i = some q → q.gate = 0 := by
  unfold State.allSilent
  rw [List.all_eq_true]
  refine ⟨fun h who q hq => of_decide_eq_true (h q (mem_ofInput hq)), fun h q hq => ?_⟩
  obtain ⟨who, hq⟩ := mem_ofInput_iff.mp hq
  exact decide_eq_true (h who q hq)

theorem State.allOpen_iff (s : State) (i : Input) :
    s.allOpen i = true ↔ ∀ who q, s.pair? who i = some q → q.mute = false → q.dir = .opened := by
  unfold State.allOpen
  rw [List.all_eq_true]
  constructor
  · intro h who q hq hm
    simpa [hm] using h q (mem_ofInput hq)
  · intro h q hq
    obtain ⟨who, hq⟩ := mem_ofInput_iff.mp hq
    cases hm : q.mute with
    | true => rfl
    | false => simpa using h who q hq hm

/-- Entry to WRITING with a target (R86). -/
theorem State.enterWriting_target {s : State} {i : Input} {on : Bool} (h : (s.phantoms.get i).target = some on) :
    s.enterWriting i =
      { s with phantoms := s.phantoms.set i { s.phantoms.get i with seq := .writing, settle := none }
               bus := { s.bus with queue := s.bus.queue ++ [.write (.phantom i on)] } } := by
  simp [State.enterWriting, h, Bus.addWrite, Tab.modify]

/-- Settles O13. -/
theorem phantomStepsFollowOneAnother : Obligations.PhantomStepsFollowOneAnother := by
  refine ⟨fun i on s hseq htarget hall => ?_, fun i on s hseq hrev => ?_, fun i s hseq hrev => ?_⟩ <;>
    refine congrArg Host.Outcome.next ?_
  · rw [State.endFadeOut, if_pos ⟨hseq, (s.allSilent_iff i).mpr hall⟩]
    exact State.enterWriting_target htarget
  · rw [State.settleExpired, if_pos hseq, hrev]
    dsimp only
    rw [State.enterWriting_target (on := on) (by simp [State.modPhantom])]
    simp [State.modPhantom, Tab.modify]
  · rw [State.settleExpired, if_pos hseq, hrev]
    simp [State.enterFadeIn, State.modPhantom, State.turnGates, Tab.modify]

theorem State.dealPending_none {s : State} {i : Input} (h : (s.moves.get i).pending = none ∨ (s.moves.get i).move.busy = true) :
    s.dealPending i = s := by
  unfold State.dealPending
  split
  · rename_i hidle hp
    rcases h with h | h
    · rw [h] at hp
      cases hp
    · rw [hidle] at h
      cases h
  all_goals rfl

theorem State.dealPending_some {s : State} {i : Input} {b : Setting} (hidle : (s.moves.get i).move = .idle)
    (hb : (s.moves.get i).pending = some b) : s.dealPending i = s.handTarget i b := by
  unfold State.dealPending
  rw [hidle, hb]

/-- What handing a target over does to the moves and the bus depends on the moves, the phantoms and the bus alone. -/
theorem State.handTarget_congr {s t : State} (i : Input) (b : Setting) (hm : t.moves = s.moves)
    (hp : t.phantoms = s.phantoms) (hb : t.bus = s.bus) :
    (t.handTarget i b).moves = (s.handTarget i b).moves ∧ (t.handTarget i b).bus = (s.handTarget i b).bus := by
  unfold State.handTarget State.holds
  rw [hm, hp, hb]
  exact ⟨rfl, rfl⟩

/-- The sequence that FADE_IN ends, before a held gain target is dealt with (R88). -/
def State.sequenceOver (i : Input) (s : State) : State :=
  { s with
    phantoms := s.phantoms.set i
      { s.phantoms.get i with seq := .idle, origin := none, target := none, reversal := none, outcome := none }
    comm := s.comm.tells (match (s.phantoms.get i).outcome with
      | some o => [(s.partyLanes, .phantomState i (s.phantoms.get i).phantom .idle (.ended o))]
      | none => []) }

theorem State.endSequence_eq (i : Input) (s : State) : s.endSequence i = (s.sequenceOver i).dealPending i := by
  unfold State.endSequence State.sequenceOver
  dsimp only
  cases (s.phantoms.get i).outcome with
  | none => simp [State.raiseEnd, State.modPhantom, Tab.modify]
  | some o => simp [State.raiseEnd, State.modPhantom, Tab.modify, State.raisePhantom, State.broadcast, State.raise,
      Comm.tells, State.partyLanes]

/-- Settles O14. -/
theorem fadeInEndsTheSequence : Obligations.FadeInEndsTheSequence := by
  intro i s hseq hall
  refine ⟨(s.sequenceOver i).dealPending i, congrArg Host.Outcome.next ?_, ?_, fun hp => ?_, fun b hidle hb => ?_, ?_, ?_⟩
  · rw [State.endFadeIn, if_pos ⟨hseq, (s.allOpen_iff i).mpr hall⟩, State.endSequence_eq]
  · rw [State.dealPending_phantoms]
    rfl
  · rw [State.dealPending_none (s := s.sequenceOver i) hp]
    exact ⟨rfl, rfl⟩
  · rw [State.dealPending_some (s := s.sequenceOver i) hidle hb]
    exact State.handTarget_congr i b rfl rfl rfl
  · rw [State.dealPending_comm]
    rfl
  · rw [State.dealPending_phantoms, State.dealPending_comm]
    unfold State.dealPending
    split <;> rfl

/-! ## Timers, carriers and breaks -/

theorem LinkPort.runs_iff {q : LinkPort} {k : TimerKind} : q.runs k = true ↔ ∃ since, q.timer = some (k, since) := by
  refine ⟨LinkPort.timer_of_runs, fun ⟨since, h⟩ => ?_⟩
  simp [LinkPort.runs, h]

/-- Settles O20. -/
theorem waitsEndInHold : Obligations.WaitsEndInHold := by
  refine ⟨fun p since s ht => ⟨_, rfl, ?_⟩, fun p since s ht => ⟨_, rfl, ?_⟩, fun p since s ht => ⟨_, rfl, ?_⟩⟩ <;>
    have hr := LinkPort.runs_iff.mpr ⟨since, ht⟩
  · rw [State.offerWaitExpired, if_pos hr]
    exact State.enterHold_latched p _ _ _ s s.nextStamp_later
  · rw [State.confirmWaitExpired, if_pos hr]
    exact State.enterHold_latched p _ _ _ s s.nextStamp_later
  · rw [State.inhibitExpired, if_pos hr]
    exact State.enterHold_entered p _ _ s s.nextStamp_later

/-- Settles O19. -/
theorem holdEndsInOfferOrDown : Obligations.HoldEndsInOfferOrDown := by
  refine ⟨fun p since s ht => ⟨fun hc => ⟨_, rfl, ?_⟩, fun hc => ⟨_, rfl, ?_⟩⟩, fun p s => ?_⟩
  · rw [State.holdExpired, if_pos (LinkPort.runs_iff.mpr ⟨since, ht⟩), if_pos hc]
    exact State.enterOffer_entered p s
  · rw [State.holdExpired, if_pos (LinkPort.runs_iff.mpr ⟨since, ht⟩), if_neg (by simp [hc])]
    exact State.enterDown_entered p _ _ s s.nextStamp_later
  · rfl

/-- An entry to OFFER after a change of the port's own marks (R131, R134). -/
theorem State.enterOffer_modified {s : State} {p : Port} {q : LinkPort} (hst : q.state = (s.ports.get p).state) :
    s.enteredOffer p q ({ s with ports := s.ports.set p q }.enterOffer p) := by
  obtain ⟨hports, hdraws, hcomm, ht⟩ := State.enterOffer_entered p { s with ports := s.ports.set p q }
  refine ⟨?_, hdraws, ?_, ?_⟩
  · rw [hports]
    simp
  · rw [hcomm]
    simp [hst]
  · rw [ht]

/-- An entry to DOWN after a change of the port's own marks (R131). -/
theorem State.enterDown_modified {s : State} {p : Port} {q : LinkPort} (hst : q.state = (s.ports.get p).state)
    (flags : Tab 12 Bool) {stamp : Nat} (hstamp : s.laterStamp stamp) :
    s.enteredDown p q flags ({ s with ports := s.ports.set p q }.enterDown p flags stamp) := by
  obtain ⟨hports, hrx, hcomm, hleft, ht⟩ := State.enterDown_entered p flags stamp { s with ports := s.ports.set p q } hstamp
  refine ⟨?_, hrx, ?_, ?_, ?_⟩
  · rw [hports]
    simp
  · rw [hcomm]
    simp [hst]
  · apply State.portLeft.congr_left hleft <;> simp [hst]
  · rw [ht]

/-- Settles O18. -/
theorem carrierTakesAPortUpAndDown : Obligations.CarrierTakesAPortUpAndDown := by
  refine ⟨fun p s hd hr => ⟨_, rfl, ?_⟩, fun p s hn => congrArg Host.Outcome.next ?_, fun p s hn => ⟨_, rfl, ?_⟩,
    fun p s hd => congrArg Host.Outcome.next ?_⟩
  · rw [State.carrierArrives, if_pos ⟨hd, hr⟩]
    exact State.enterOffer_modified (q := { s.ports.get p with carrier := true }) rfl
  · rw [State.carrierArrives, if_neg]
    · rfl
    · rintro ⟨hd, hr⟩
      rcases hn with hn | hn
      · exact hn hd
      · rw [hr] at hn
        cases hn
  · rw [State.carrierLost, if_neg hn]
    have h := State.enterDown_modified (s := s) (p := p)
      (q := { s.ports.get p with carrier := false, flags := (s.ports.get p).flags.set 8 true }) rfl (oneFlag .carrierLost)
      s.nextStamp_later
    simpa [State.modPort, Tab.modify, LinkPort.latch, LinkFlag.bit] using h
  · rw [State.carrierLost, if_pos hd]
    rfl

/-- An entry to HOLD empties a lane that has just been flushed as it empties any lane (R152, R161). -/
theorem State.enteredHold.of_flushed {s t : State} {p : Port} {q : LinkPort} {why : Tab 12 Bool}
    (h : (s.flushLane (.split p)).enteredHold p q why t) : s.enteredHold p q why t := by
  obtain ⟨hports, hrx, hcomm, hleft, ht⟩ := h
  refine ⟨hports, ?_, ?_, hleft.congr_left rfl rfl rfl rfl rfl, ?_⟩
  · rw [hrx, State.flushLane_rx]
    exact Tab.modify_modify s.rx p.succ _ _
  · rw [hcomm]
    simp [Comm.flushed, State.flushLane_comm, Tab.modify, LaneId.idx]
  · rw [ht]
    rfl

/-- A break reported to a port that exchanges or has exchanged OFFERs sends it to HOLD (R132). -/
theorem State.breakReported_live {s : State} {p : Port} (hd : (s.ports.get p).state ≠ .down)
    (hh : (s.ports.get p).state ≠ .hold) : s.breakReported p =
      (s.modPort p (LinkPort.latch .breakSeen)).enterHold p (oneFlag .breakSeen) s.nextStamp := by
  unfold State.breakReported
  split
  case h_1 h => exact absurd h hd
  case h_2 h => exact absurd h hh
  all_goals rfl

/-- Settles O21. -/
theorem breakFlushesAndHolds : Obligations.BreakFlushesAndHolds := by
  refine ⟨fun s => rfl, fun p s => ⟨fun hd hh => ⟨_, rfl, ?_⟩, fun hst => congrArg Host.Outcome.next ?_⟩⟩
  · rw [State.breakOn, State.breakReported_live (s := s.flushLane (.split p)) hd hh]
    exact .of_flushed (State.enterHold_latched p .breakSeen _ _ (s.flushLane (.split p)) (State.nextStamp_later _))
  · unfold State.breakOn State.breakReported
    rcases hst with hst | hst <;> simp [hst, State.flushLane, State.modRx, State.modTx, State.modPort, Tab.modify,
      LinkPort.latch, LinkFlag.bit, LaneId.idx]

/-! ## A ramp step -/

theorem State.landingDue_iff (s : State) : s.landingDue = true ↔ ∃ j a, (s.moves.get j).move = .landing a 0 := by
  unfold State.landingDue
  rw [List.any_eq_true]
  constructor
  · rintro ⟨j, -, hj⟩
    unfold Move.due at hj
    split at hj
    case h_1 a h => exact ⟨j, a, h⟩
    all_goals cases hj
  · rintro ⟨j, a, hj⟩
    exact ⟨j, List.mem_finRange j, by rw [hj]; rfl⟩

theorem Pair.rampDue_iff (rate : BoxRate) (q : Pair) : q.rampDue rate = true ↔
    q.trimState = .ramping ∧ rate.rampInterval ≤ q.phase + 1 ∧ q.stepped = false := by
  simp [Pair.rampDue, and_assoc]

/-- A pair after the ramp step that a RAMP_STEP makes (R10; the mark: notes/assumptions/4.md). -/
def Pair.commandedStep (status : AnalogStatus) (a : Int) (q : Pair) : Pair := { q.rampStep status a with stepped := true }

/-- A ramp step that is not due, or that comes before a landing, changes nothing (R10, R68). -/
theorem State.rampStep_idle {s : State} {who : Party} {i : Input}
    (h : ∀ q, s.pair? who i = some q → q.rampDue s.rate = true → s.landingDue = true) : s.rampStep who i = s := by
  unfold State.rampStep
  split
  · rfl
  · rename_i q hq
    rw [if_neg]
    intro hc
    obtain ⟨hdue, hland⟩ := Bool.and_eq_true_iff.mp hc
    rw [h q hq hdue] at hland
    cases hland

/-- Settles O11. -/
theorem rampStepMovesTheTrim : Obligations.RampStepMovesTheTrim := by
  refine ⟨fun who i s h => congrArg Host.Outcome.next (State.rampStep_idle fun q hq hdue => ?_),
    fun who i s q hland hq hramp hstep hdue => ?_⟩
  · obtain ⟨hr, hp, hs⟩ := (Pair.rampDue_iff _ _).mp hdue
    rcases h with h | h | ⟨q', hq', h⟩
    · exact s.landingDue_iff.mpr h
    · rw [h] at hq
      cases hq
    · obtain rfl := Option.some.inj (hq'.symm.trans hq)
      rcases h with h | h | h
      · exact absurd hr h
      · rw [hs] at h
        cases h
      · omega
  · have hd : (q.rampDue s.rate && !s.landingDue) = true := by
      have hno : s.landingDue = false := by
        rw [← Bool.not_eq_true, s.landingDue_iff]
        rintro ⟨j, a, h⟩
        exact hland j a h
      rw [hno, (Pair.rampDue_iff _ _).mpr ⟨hramp, hdue, hstep⟩]
      rfl
    have ht : s.rampStep who i = s.updatePair who i (Pair.commandedStep (s.moves.get i).status (s.analog i)) := by
      unfold State.rampStep
      rw [hq]
      exact if_pos hd
    refine ⟨_, Pair.commandedStep _ _ q, congrArg Host.Outcome.next ht, ?_, ?_, rfl, fun who' j hj => ?_, ?_, rfl⟩
    · rw [State.pair?_updatePair, if_pos ⟨rfl, rfl⟩, hq]
      rfl
    · simp [Pair.commandedStep, Pair.rampStep, Pair.settleTrim, stepToward, hramp]
    · rw [State.pair?_updatePair, if_neg fun ⟨h1, h2⟩ => hj (by rw [h1, h2])]
    · exact State.updatePair_comm who i _ s q hq

end Sys2Proof.Machine
end

section
/-! PROOF. Characters, frames and records on a lane, and what follows the departure of a byte (O22 to O26). -/

namespace Sys2Proof.Machine

/-! ## The framer -/

theorem huntChar_eq (c : RxChar) :
    huntChar c = if c.value = 0xB7#8 ∧ c.framing = false ∧ c.parity = false then .length else .hunt := by
  unfold huntChar marker
  by_cases hv : c.value = 0xB7#8 <;> cases c.framing <;> cases c.parity <;> simp [hv]

/-- A framer inside a record tests a character before it keeps it (R154, R155). -/
theorem RxSide.readChar_inside {r : RxSide} (c : RxChar) (hh : r.framer ≠ .hunt) (hf : r.framer.isFree = true) :
    r.readChar c = r.recordChar c := by
  unfold RxSide.readChar
  split
  case h_1 h => exact absurd h hh
  case h_5 h =>
    rw [h] at hf
    cases hf
  all_goals rfl

theorem RxSide.readChar_hunt {r : RxSide} (c : RxChar) (h : r.framer = .hunt) :
    r.readChar c = { r with framer := huntChar c } := by
  unfold RxSide.readChar
  rw [h]

/-- A character without a mark is kept. -/
theorem RxSide.recordChar_unmarked {c : RxChar} (r : RxSide) (hg : c.gap = false)
    (hm : (c.framing || c.parity || c.overrun) = false) : r.recordChar c = r.keepChar c.value := by
  rw [RxSide.recordChar, if_neg (by simp [hg]), if_neg (by simp [hm])]

/-- Settles O23. -/
theorem framerKeepsOrDrops : Obligations.FramerKeepsOrDrops := by
  intro c r hh hf
  rw [RxSide.readChar_inside c hh hf]
  refine ⟨fun hg => ?_, fun hg hm => ?_, fun hg hm => ?_⟩
  · rw [RxSide.recordChar, if_pos hg, huntChar_eq]
    rfl
  · rw [RxSide.recordChar, if_neg (by simp [hg]), if_pos hm]
    rfl
  · rw [RxSide.recordChar_unmarked r hg hm]
    refine ⟨fun h => ?_, fun n got crc h hn => ?_, fun got crc h => ?_, fun body crc h => ?_, fun body b crc h => ?_⟩ <;>
      unfold RxSide.keepChar <;> rw [h] <;> dsimp only
    · rfl
    · rw [if_neg (by omega)]
    · rw [if_pos (by omega)]
    · rfl

/-! ## The reading of a lane -/

/-- A lane that reads on stops in one state. -/
theorem State.ReadsOn.unique {l : LaneId} {s t u : State} (ht : State.ReadsOn l s t) (hu : State.ReadsOn l s u) : t = u := by
  induction ht with
  | waits hheld hc =>
    cases hu with
    | waits => rfl
    | stops hf => simp [hheld, Framer.isFree] at hf
    | takes _ hc' => rw [hc] at hc'; cases hc'
    | reads hf => simp [hheld, Framer.isFree] at hf
  | stops hf hq =>
    cases hu with
    | waits hheld => simp [hheld, Framer.isFree] at hf
    | stops => rfl
    | takes hheld => simp [hheld, Framer.isFree] at hf
    | reads _ hq' => rw [hq] at hq'; cases hq'
  | takes hheld hc _ ih =>
    cases hu with
    | waits _ hc' => rw [hc] at hc'; cases hc'
    | stops hf => simp [hheld, Framer.isFree] at hf
    | takes hheld' _ hu' =>
      rw [hheld] at hheld'
      cases hheld'
      exact ih hu'
    | reads hf => simp [hheld, Framer.isFree] at hf
  | reads hf hq _ ih =>
    cases hu with
    | waits hheld => simp [hheld, Framer.isFree] at hf
    | stops _ hq' => rw [hq] at hq'; cases hq'
    | takes hheld => simp [hheld, Framer.isFree] at hf
    | reads _ hq' hu' =>
      rw [hq] at hq'
      cases hq'
      exact ih hu'

theorem State.ReadsOn.service_eq {l : LaneId} {s t : State} (h : State.ReadsOn l s t) : s.service l = t :=
  (State.service_readsOn l s).unique h

theorem State.service_waits {l : LaneId} {s : State} (hf : (s.rx.get l.idx).framer.isFree = false)
    (hc : s.canTake l = false) : s.service l = s := by
  cases hr : (s.rx.get l.idx).framer with
  | held body => exact (State.ReadsOn.waits hr hc).service_eq
  | hunt => rw [hr] at hf; cases hf
  | length => rw [hr] at hf; cases hf
  | body n got crc => rw [hr] at hf; cases hf
  | check b high crc => rw [hr] at hf; cases hf

theorem State.service_stops {l : LaneId} {s : State} (hf : (s.rx.get l.idx).framer.isFree = true)
    (hq : (s.rx.get l.idx).queue = []) : s.service l = s :=
  (State.ReadsOn.stops hf hq).service_eq

theorem State.service_reads {l : LaneId} {s : State} {c : RxChar} {rest : List RxChar}
    (hf : (s.rx.get l.idx).framer.isFree = true) (hq : (s.rx.get l.idx).queue = c :: rest) : s.service l =
      State.service l { s with rx := s.rx.set l.idx (RxSide.readChar c { s.rx.get l.idx with queue := rest }) } :=
  (State.ReadsOn.reads hf hq (State.service_readsOn l _)).service_eq

/-! ## The arrival of a record -/

theorem bringsRecord.exec_eq {c : Instr} {l : LaneId} {kind tag : Byte} {fields : List Byte}
    (h : bringsRecord c l kind tag fields) (s : State) : exec c s = .next (s.deliver l kind tag fields) := by
  rcases h with ⟨rfl, rfl⟩ | ⟨rfl, rfl⟩ | rfl | ⟨k, rfl, rfl⟩
  · rfl
  · rfl
  · rfl
  · exact exec_request k l tag fields s

/-- A record that finds the framer free is held, and the lane reads on. -/
theorem State.deliver_free {l : LaneId} {s : State} (hd : s.deaf l = false)
    (hf : (s.rx.get l.idx).framer.isFree = true) (kind tag : Byte) (fields : List Byte) :
    s.deliver l kind tag fields =
      (s.holding l (kind :: tag :: fields)).service l := by
  unfold State.deliver
  rw [hd, if_neg (by decide)]
  split
  · rename_i hb
    rw [hb] at hf
    cases hf
  · rfl

/-- The characters of a frame that wait behind a held record (notes/assumptions/8.md). -/
theorem RxSide.foldl_store (vs : List Byte) : ∀ r : RxSide, r.overrunPending = false → r.queue.length + vs.length ≤ 512 →
    vs.foldl (fun r v => r.store v false false false) r =
      { r with queue := r.queue ++ vs.map fun v =>
          { value := v, framing := false, parity := false, overrun := false, gap := false } } := by
  induction vs with
  | nil => intro r _ _; simp
  | cons v vs ih =>
    intro r ho hroom
    simp only [List.length_cons] at hroom
    have hstore : r.store v false false false =
        { r with queue := r.queue ++ [{ value := v, framing := false, parity := false, overrun := false, gap := false }] } := by
      rw [RxSide.store, if_neg (by simp only [Config.receiveRoom]; omega), ho]
    rw [List.foldl_cons, hstore]
    refine (ih { r with queue := r.queue ++ [_] } ho ?_).trans ?_
    · simp only [List.length_append, List.length_singleton]
      omega
    · simp

theorem State.canTake_iff (s : State) (l : LaneId) : s.canTake l = true ↔
    (s.comm.tx.get l.idx).queue.length + 96 ≤ 512 ∧ (l = .panel → s.restart = none) := by
  cases h : s.restart <;> cases l <;> simp [State.canTake, Comm.used, Config.reserve, Config.transmitRoom, h]

/-- A lane without marks flushes nothing. -/
theorem State.flush_unmarked {l : LaneId} {s : State} (h : s.comm.marksOf l = []) : s.flush l = s := by
  unfold State.flush
  rw [h]
  rfl

/-- A lane whose first byte has left, with the count of a pending restart taken down (R159, R172; notes/assumptions/12.md). -/
def State.byteGone (l : LaneId) (rest : List Byte) (s : State) : State :=
  { s with
    comm := { s.comm with tx := s.comm.tx.set l.idx { s.comm.tx.get l.idx with queue := rest } }
    restart := if l = .panel then s.restart.map (· - 1) else s.restart }

theorem State.byteGone_plain {l : LaneId} {s : State} {rest : List Byte} (h : l = .panel → s.restart = none) :
    s.byteGone l rest =
      { s with comm := { s.comm with tx := s.comm.tx.set l.idx { s.comm.tx.get l.idx with queue := rest } } } := by
  have hrestart : (if l = .panel then s.restart.map (· - 1) else s.restart) = s.restart := by
    split
    · rename_i hp
      rw [h hp]
      rfl
    · rfl
  rw [State.byteGone, hrestart]

/-- A byte that leaves a lane, where that is not the last byte of a RESTART reply (R159, R172). -/
theorem State.byteSent_gains {l : LaneId} {s : State} {b : Byte} {rest : List Byte}
    (hq : (s.comm.tx.get l.idx).queue = b :: rest) (hb : (s.comm.tx.get l.idx).breaking = false)
    (hr : ∀ n, l = .panel → s.restart = some n → 1 < n) :
    s.byteSent l = ((s.byteGone l rest).flush l).service l := by
  unfold State.byteSent State.byteGone
  rw [hq, hb]
  cases l with
  | panel =>
    cases h : s.restart with
    | none => simp [State.modTx, Tab.modify, State.roomGained, h]
    | some n =>
      have hn := hr n rfl h
      simp only [Option.map_some, if_true]
      rw [if_neg (by omega)]
      rfl
  | split p => simp [State.modTx, Tab.modify, State.roomGained]

/-- A held record that is dealt with as one that arrives at that moment (R158). -/
theorem State.deliver_held {s : State} {l : LaneId} {kind tag : Byte} {fields : List Byte}
    (hheld : (s.rx.get l.idx).framer = .held (kind :: tag :: fields)) (hd : s.deaf l = false) :
    State.deliver l kind tag fields { s with rx := s.rx.set l.idx { s.rx.get l.idx with framer := .hunt } } =
      s.service l := by
  refine (State.deliver_free (s := s.hunting l) hd ?_ kind tag fields).trans (congrArg (State.service l) ?_)
  · simp [State.hunting, State.modRx, Framer.isFree]
  simp only [State.holding, State.hunting, State.modRx, Tab.modify, Tab.get_set_self, Tab.set_set, ← hheld]
  exact congrArg (fun t => { s with rx := t }) (Tab.set_get_self s.rx l.idx)

/-- Settles O25. -/
theorem recordsWaitForRoom : Obligations.RecordsWaitForRoom := by
  intro c l kind tag fields s hc hd
  refine ⟨s.canTake_iff l, fun hf hroom => (hc.exec_eq s).trans (congrArg Host.Outcome.next ?_),
    fun hf => ⟨_, hc.exec_eq s, ?_⟩, fun body hheld ho hroom => (hc.exec_eq s).trans (congrArg Host.Outcome.next ?_),
    fun b rest hq hb hl hheld hm => ?_⟩
  · rw [State.deliver_free hd hf, State.service_waits]
    · rfl
    · simp [State.holding, State.modRx, Framer.isFree]
    · exact hroom
  · rw [State.deliver_free hd hf]
    exact State.service_readsOn l _
  · rw [State.deliver, hd, if_neg (by decide), hheld]
    simp only [State.modRx, Tab.modify]
    rw [RxSide.foldl_store _ _ ho (by rw [frameOf_length]; exact hroom), hheld]
  · have hrestart : l = .panel → s.restart = none := fun h => hl.resolve_left fun hne => hne h
    have hr : ∀ n, l = .panel → s.restart = some n → 1 < n := fun n h hn => nomatch (hrestart h).symm.trans hn
    refine ((congrArg Host.Outcome.next ?_).trans (hc.exec_eq _).symm)
    rw [State.byteSent_gains hq hb hr, State.flush_unmarked (s := s.byteGone l rest) hm]
    refine (State.deliver_held (s := s.byteGone l rest) hheld hd).symm.trans ?_
    rw [State.byteGone_plain hrestart]

/-! ## The departure of a byte -/

theorem Comm.marksOf_eq (c : Comm) (l : LaneId) : c.marksOf l = c.marksInOrder l := by
  unfold Comm.marksOf Comm.marksInOrder allPorts allChips allInputs
  simp only [List.filter_append, List.filter_map]
  cases l with
  | panel => rfl
  | split p =>
    have hnone : ∀ {n : Nat} (f : Fin n → Subject), (∀ i, c.marked (.split p) (f i) = false) →
        (List.finRange n).filter ((fun sub => c.marked (.split p) sub) ∘ f) = [] := by
      intro n f h
      exact List.filter_eq_nil_iff.mpr fun i _ => by simp [h]
    rw [hnone Subject.port fun _ => rfl, hnone Subject.chip fun _ => rfl]
    rfl

theorem State.flushNotice_eq (s : State) (c : Comm) (l : LaneId) (sub : Subject) :
    s.flushNotice c l sub = s.markNotice c l sub := by
  cases sub with
  | port p => rfl
  | chip ch => rfl
  | input i =>
    cases l with
    | panel => rfl
    | split p =>
      simp only [State.flushNotice, State.markNotice, State.requester, Option.map_map]
      rfl

/-- A flush notice that is queued, and the mark that it takes away (R179). -/
theorem State.queueFrame_markSent {s : State} {c : Comm} {l : LaneId} {sub : Subject} {n : Notice}
    (h : s.markNotice c l sub = some n) :
    ((c.queueFrame l n.body).told l n).setMark l sub false = s.markSent l sub n c := by
  cases l with
  | panel =>
    cases sub with
    | port p => obtain rfl := Option.some.inj h; rfl
    | chip ch => obtain rfl := Option.some.inj h; rfl
    | input i => obtain rfl := Option.some.inj h; rfl
  | split p => cases sub <;> rfl

theorem State.flushList_flushed (s : State) (l : LaneId) (subs : List Subject) :
    ∀ c : Comm, s.marksFlushed l subs c (s.flushList l subs c) := by
  induction subs with
  | nil => exact fun c => rfl
  | cons sub subs ih =>
    intro c
    unfold State.marksFlushed State.flushList
    rw [State.flushNotice_eq]
    cases h : s.markNotice c l sub with
    | none => rfl
    | some n =>
      dsimp only
      by_cases hroom : (c.tx.get l.idx).queue.length + (n.body.length + 4) + 96 ≤ 512
      · rw [if_pos hroom, if_pos, State.queueFrame_markSent h]
        · exact ih _
        · simpa [Comm.passes, Comm.used, frameOf_length, Config.reserve, Config.transmitRoom] using hroom
      · rw [if_neg hroom, if_neg]
        simpa [Comm.passes, Comm.used, frameOf_length, Config.reserve, Config.transmitRoom] using hroom

/-- The notices of a flush do not depend on the queues (R179). -/
theorem State.flushList_byteGone (s : State) (l : LaneId) (rest : List Byte) (subs : List Subject) :
    ∀ c : Comm, (s.byteGone l rest).flushList l subs c = s.flushList l subs c := by
  induction subs with
  | nil => exact fun c => rfl
  | cons sub subs ih =>
    intro c
    unfold State.flushList
    rw [show (s.byteGone l rest).flushNotice c l sub = s.flushNotice c l sub from rfl]
    cases s.flushNotice c l sub with
    | none => rfl
    | some n => simp only [ih]

/-- What a held record does, said by its arrival on a lane that takes it at once (R158). -/
theorem State.takeHeld_brought {c : Instr} {l : LaneId} {kind tag : Byte} {fields : List Byte} (q : List RxChar) {u : State}
    (hc : bringsRecord c l kind tag fields) (hu : u.takesAtOnce l) :
    ∃ v, exec c u = .next v ∧ (v.rx.get l.idx).framer = .hunt ∧ (v.rx.get l.idx).queue = [] ∧
      State.takeHeld l (kind :: tag :: fields)
          { u with rx := u.rx.set l.idx { u.rx.get l.idx with queue := q, framer := .held (kind :: tag :: fields) } } =
        { v with rx := v.rx.set l.idx { v.rx.get l.idx with queue := q } } := by
  have hheld : u.deliver l kind tag fields = State.takeHeld l (kind :: tag :: fields)
      (u.modRx l fun r => { r with framer := .held (kind :: tag :: fields) }) := State.deliver_taken _ _ _ _ _ hu
  obtain ⟨hqueue, hframer⟩ := State.takeHeld_leaves l (kind :: tag :: fields)
    (u.modRx l fun r => { r with framer := .held (kind :: tag :: fields) })
  refine ⟨_, hc.exec_eq u, ?_, ?_, State.takeHeld_delivered l kind tag fields q u hu⟩
  · rw [hheld, hframer]
  · rw [hheld, hqueue]
    simp [State.modRx, hu.2.1]

/-- Settles O26. -/
theorem byteSentFreesRoomAndFlushes : Obligations.ByteSentFreesRoomAndFlushes := by
  refine ⟨Comm.marksOf_eq, fun c l kind tag fields q u hc hu => State.takeHeld_brought q hc hu,
    fun l s => ⟨fun h => congrArg Host.Outcome.next ?_, fun b rest hq hb => ⟨fun n hl hn hn1 => congrArg Host.Outcome.next ?_,
      fun hr => ⟨(s.byteGone l rest).flushList l ((s.byteGone l rest).comm.marksOf l) (s.byteGone l rest).comm,
        ((s.byteGone l rest).flush l).service l, ?_, congrArg Host.Outcome.next (State.byteSent_gains hq hb hr), ?_,
        fun hf hempty => ?_, fun kind tag fields hheld => ⟨fun hno => ?_, fun hroom hd command hc => ?_⟩⟩⟩⟩⟩
  · unfold State.byteSent
    rcases h with h | h
    · rw [h]
    · rw [h]
      split <;> first | rfl | contradiction
  · subst hl
    unfold State.byteSent
    rw [hq, hb, hn]
    dsimp only
    rw [if_pos hn1]
    simp [State.modTx, Tab.modify, hn]
  · rw [← Comm.marksOf_eq, State.flushList_byteGone]
    exact s.flushList_flushed l _ _
  · exact State.service_readsOn l _
  · exact State.service_stops hf hempty
  · refine State.service_waits (by rw [show (((s.byteGone l rest).flush l).rx.get l.idx).framer = _ from hheld]; rfl)
      (Bool.eq_false_iff.mpr fun h => hno ?_)
    obtain ⟨hroom, hrestart⟩ := (State.canTake_iff _ l).mp h
    refine ⟨hroom, fun hl => ?_⟩
    have h := hrestart hl
    simp only [State.flush, State.byteGone, if_pos hl, Option.map_eq_none_iff] at h
    exact h
  · exact (hc.exec_eq _).trans (congrArg Host.Outcome.next
      (State.deliver_held (s := (s.byteGone l rest).flush l) hheld hd))

end Sys2Proof.Machine
end

section
/-! PROOF. The receipt of single characters, and the frame as the characters of a record (O22, O24). -/

namespace Sys2Proof.Machine

/-! ## One character -/

theorem State.deaf_iff (s : State) (p : Port) : s.deaf (.split p) = true ↔
    (s.ports.get p).state = .down ∧ s.bus.pass = .starting ∧ s.bus.adopting = true := by
  simp [State.deaf, and_assoc]

theorem State.hears_iff (s : State) (l : LaneId) : s.hears l = true ↔ ∀ p, l = .split p → (s.ports.get p).carrier = true ∧
    ¬((s.ports.get p).state = .down ∧ s.bus.pass = .starting ∧ s.bus.adopting = true) := by
  cases l with
  | panel => simp [State.hears]
  | split p =>
    have hd : s.deaf (.split p) = false ↔ ¬((s.ports.get p).state = .down ∧ s.bus.pass = .starting ∧ s.bus.adopting = true) := by
      rw [← State.deaf_iff, Bool.not_eq_true]
    simp [State.hears, hd]

/-- A lane that hears a record is not one that stores nothing (R149, R174). -/
theorem State.not_deaf_of_hears {s : State} {l : LaneId} (h : s.hears l = true) : s.deaf l = false := by
  cases l with
  | panel => rfl
  | split p =>
    simp only [State.hears, Bool.and_eq_true, Bool.not_eq_true'] at h
    exact h.2

/-- Counting by a running sum. -/
theorem foldl_count {α : Type} (p : α → Bool) (xs : List α) :
    ∀ n : Nat, xs.foldl (fun acc x => acc + (if p x then 1 else 0)) n = n + xs.countP p := by
  induction xs with
  | nil => intro n; rfl
  | cons x xs ih =>
    intro n
    rw [List.foldl_cons, ih, List.countP_cons]
    omega

theorem onesOf_eq (v : Byte) : onesOf v = (List.range 8).countP fun b => v.getLsbD b := by
  rw [onesOf, foldl_count, Nat.zero_add]

/-- The character that a lane stores, with its marks (R149 to R151). -/
def RxSide.heard (r : RxSide) (v : Byte) (parity stop : Bool) (start : Nat) : RxChar :=
  { value := v, framing := !stop, parity := parityMark v parity, overrun := r.overrunPending, gap := gapMark r.gapRef start }

/-- A lane whose one waiting character is being read (R150, R151). -/
def RxSide.ready (r : RxSide) (start : Nat) : RxSide := { r with overrunPending := false, gapRef := some (start + 11 * 12) }

/-- A lane that has stored a character, before it reads on (R150, R151). -/
def RxSide.took (r : RxSide) (v : Byte) (parity stop : Bool) (start : Nat) : RxSide :=
  { RxSide.store v (!stop) (parityMark v parity) (gapMark r.gapRef start) r with gapRef := some (start + 11 * 12) }

theorem RxSide.took_stored {r : RxSide} (h : r.queue.length < 512) (v : Byte) (parity stop : Bool) (start : Nat) :
    r.took v parity stop start =
      { r with queue := r.queue ++ [r.heard v parity stop start], overrunPending := false, gapRef := some (start + 11 * 12) } := by
  rw [RxSide.took, RxSide.store, if_neg (by simpa [Config.receiveRoom] using h)]
  rfl

theorem RxSide.took_lost {r : RxSide} (h : 512 ≤ r.queue.length) (v : Byte) (parity stop : Bool) (start : Nat) :
    r.took v parity stop start =
      { r with overrunPending := true, gapRef := some (start + 11 * 12)
               counters := { r.counters with overrun := min 65535 (r.counters.overrun + 1) } } := by
  rw [RxSide.took, RxSide.store, if_pos (by simpa [Config.receiveRoom] using h)]
  rfl

theorem isBreak_iff (v : Byte) (parity stop : Bool) :
    isBreak v parity stop = true ↔ (v, parity, stop) = (0#8, false, false) := by
  simp [isBreak, and_assoc]

/-- A character that a lane hears is stored, and the lane reads on (R149 to R151). -/
theorem State.characterReceived_heard {s : State} {l : LaneId} {v : Byte} {parity stop : Bool} (hh : s.hears l = true)
    (hb : (v, parity, stop) ≠ (0#8, false, false)) (start : Nat) :
    s.characterReceived l v parity stop start =
      State.service l { s with rx := s.rx.set l.idx ((s.rx.get l.idx).took v parity stop start) } := by
  rw [State.characterReceived, if_neg (by simp [hh]), if_neg (by rwa [isBreak_iff])]
  rfl

/-- A character that finds no other waiting and no record held is read at once (R154). -/
theorem State.characterReceived_read {s : State} {l : LaneId} {v : Byte} {parity stop : Bool} (hh : s.hears l = true)
    (hb : (v, parity, stop) ≠ (0#8, false, false)) (start : Nat) (hf : (s.rx.get l.idx).framer.isFree = true)
    (hq : (s.rx.get l.idx).queue = []) :
    s.characterReceived l v parity stop start = State.service l
      { s with rx := s.rx.set l.idx (RxSide.readChar ((s.rx.get l.idx).heard v parity stop start)
          ((s.rx.get l.idx).ready start)) } := by
  rw [State.characterReceived_heard hh hb, RxSide.took_stored (by simp [hq])]
  refine (State.service_reads (c := (s.rx.get l.idx).heard v parity stop start) (rest := []) ?_ ?_).trans ?_
  · simpa using hf
  · simp [hq]
  · simp [hq, RxSide.ready]

/-- A record that a character has completed arrives (R154, R158). -/
theorem State.service_arrives {s : State} {l : LaneId} {r : RxSide} {kind tag : Byte} {fields : List Byte}
    (hd : s.deaf l = false) (hheld : r.framer = .held (kind :: tag :: fields)) :
    State.service l { s with rx := s.rx.set l.idx r } =
      State.deliver l kind tag fields { s with rx := s.rx.set l.idx { r with framer := .hunt } } := by
  refine ((State.deliver_held (s := { s with rx := s.rx.set l.idx r }) (l := l) (kind := kind) (tag := tag)
    (fields := fields) (by simpa using hheld) hd).symm.trans ?_)
  simp

/-- Settles O22. -/
theorem charactersGetTheirMarks : Obligations.CharactersGetTheirMarks := by
  refine ⟨fun p v parity stop at_ s h => congrArg Host.Outcome.next ?_, fun l s => s.hears_iff l,
    fun l at_ s hh => congrArg Host.Outcome.next ?_, fun l v parity stop at_ s hh hb => ?_⟩
  · rw [State.characterReceived, if_pos]
    rw [Bool.not_eq_true', ← Bool.not_eq_true, State.hears_iff]
    intro hno
    obtain ⟨hc, hd⟩ := hno p rfl
    rcases h with h | h
    · rw [h] at hc
      cases hc
    · exact hd h
  · rw [State.characterReceived, if_neg (by simp [hh])]
    rfl
  · intro r gap odd c
    have hodd : parityMark v parity = odd := by
      rw [parityMark, onesOf_eq]
    have hc : r.heard v parity stop at_ = c := by
      rw [RxSide.heard, hodd]
      rfl
    refine ⟨fun hf hroom hq => congrArg Host.Outcome.next ?_, fun hf hroom hq => congrArg Host.Outcome.next ?_,
      fun hn hq => congrArg Host.Outcome.next ?_, fun hn hf hq => ⟨fun hread => congrArg Host.Outcome.next ?_,
        fun kind tag fields hread => congrArg Host.Outcome.next ?_⟩⟩
    · rw [State.characterReceived_heard hh hb, RxSide.took_stored hq, hc, State.service_waits]
      · simpa using hf
      · exact hroom
    · rw [State.characterReceived_heard hh hb, RxSide.took_lost hq, State.service_waits]
      · simpa using hf
      · exact hroom
    · rw [State.characterReceived_read hh hb at_ (by rw [show (s.rx.get l.idx).framer = _ from hn]; rfl) hq, hc,
        RxSide.readChar_hunt (r := (s.rx.get l.idx).ready at_) c hn, huntChar_eq, State.service_stops]
      · simp [c, r, RxSide.ready]
      · simp only [Tab.get_set_self]
        split <;> rfl
      · rw [Tab.get_set_self]
        exact hq
    · rw [State.characterReceived_read hh hb at_ hf hq, hc, State.service_stops]
      · rfl
      · rw [Tab.get_set_self]
        exact hread
      · rw [Tab.get_set_self, RxSide.readChar_queue]
        exact hq
    · rw [State.characterReceived_read hh hb at_ hf hq, hc]
      exact State.service_arrives (r := RxSide.readChar c (r.ready at_)) (State.not_deaf_of_hears hh) hread

/-! ## The check of a frame -/

/-- One bit fed to the CRC of R153. -/
def crcFeed (c : BitVec 16) (bit : Bool) : BitVec 16 := (c <<< 1) ^^^ (if c.msb != bit then 0x1021#16 else 0#16)

/-- A word shifted into the CRC feeds its top bit, and the rest of it waits (R153). -/
theorem crcShift_xor (c w : BitVec 16) : crcShift (c ^^^ w) = crcFeed c w.msb ^^^ (w <<< 1) := by
  unfold crcShift crcFeed
  rw [BitVec.msb_xor, BitVec.shiftLeft_xor_distrib]
  have hswap : c <<< 1 ^^^ (w <<< 1 ^^^ 0x1021#16) = c <<< 1 ^^^ (0x1021#16 ^^^ w <<< 1) := by
    rw [BitVec.xor_comm (w <<< 1)]
  cases c.msb <;> cases w.msb <;> simp [BitVec.xor_assoc, hswap]

theorem msb_byte_shift (b : Byte) {m : Nat} (h : 8 ≤ m) (h' : m < 16) : (b.zeroExtend 16 <<< m).msb = b.getLsbD (15 - m) := by
  rw [BitVec.msb_eq_getLsbD_last, BitVec.getLsbD_shiftLeft]
  simp [show ¬15 < m by omega, show 15 - m < 16 by omega]

/-- The bits of a byte, the highest first (R153). -/
def bitsOf (b : Byte) : List Bool := [7, 6, 5, 4, 3, 2, 1, 0].map fun k => b.getLsbD k

theorem crcByte_eq (c : BitVec 16) (b : Byte) : crcByte c b = (bitsOf b).foldl crcFeed c := by
  simp only [crcByte, crcShift_xor, bitsOf, List.map_cons, List.map_nil, List.foldl_cons, List.foldl_nil,
    ← BitVec.shiftLeft_add]
  have hout : b.zeroExtend 16 <<< (8 + 1 + 1 + 1 + 1 + 1 + 1 + 1 + 1) = 0#16 := BitVec.shiftLeft_eq_zero (by decide)
  rw [hout, BitVec.xor_zero]
  repeat' rw [msb_byte_shift b (by decide) (by decide)]

theorem crcOf_eq (bytes : List Byte) : ∀ c, bytes.foldl crcByte c = (bytes.flatMap bitsOf).foldl crcFeed c := by
  induction bytes with
  | nil => exact fun c => rfl
  | cons b bytes ih =>
    intro c
    rw [List.foldl_cons, List.flatMap_cons, List.foldl_append, ih, crcByte_eq]

theorem crcShift_low {x : BitVec 16} (h : x.msb = false) : crcShift x = x <<< 1 := by
  rw [crcShift, if_neg (by simp [h])]

theorem msb_low_shift (b : Byte) {m : Nat} (h : m < 8) : (b.zeroExtend 16 <<< m).msb = false := by
  rw [BitVec.msb_eq_getLsbD_last, BitVec.getLsbD_shiftLeft]
  simp [show ¬15 < m by omega, show 15 - m < 16 by omega]
  exact BitVec.getLsbD_of_ge _ _ (by omega)

/-- A check fed with its own high byte leaves its low byte. -/
theorem crcByte_high (c : BitVec 16) : crcByte c (c.extractLsb' 8 8) = (c.extractLsb' 0 8).zeroExtend 16 <<< 8 := by
  have hlow : c ^^^ ((c.extractLsb' 8 8).zeroExtend 16 <<< 8) = (c.extractLsb' 0 8).zeroExtend 16 <<< 0 := by
    apply BitVec.eq_of_getLsbD_eq
    intro i hi
    by_cases h8 : i < 8
    · simp [h8, hi]
    · simp [h8, hi, show 8 + (i - 8) = i by omega, show i - 8 < 8 by omega]
  unfold crcByte
  rw [hlow]
  generalize c.extractLsb' 0 8 = b
  have h := @msb_low_shift b
  repeat rw [crcShift_low (h (by decide)), ← BitVec.shiftLeft_add]

/-- A check fed to the CRC after what it covers leaves 0 (R153, R154). -/
theorem crcByte_check (c : BitVec 16) : crcByte (crcByte c (c.extractLsb' 8 8)) (c.extractLsb' 0 8) = 0#16 := by
  rw [crcByte_high, crcByte, BitVec.xor_self]
  decide

/-! ## The characters of a frame -/

/-- A framer inside a record keeps a character and goes on to another state (R154). -/
def Framer.keeps (F : Framer) (v : Byte) (F' : Framer) : Prop :=
  F ≠ .hunt ∧ F.isFree = true ∧ ∀ r : RxSide, r.framer = F → r.keepChar v = { r with framer := F' }

/-- A framer keeps characters one after the other and holds no record yet. -/
def Framer.reads : List Byte → Framer → Framer → Prop
  | [], F, F' => F' = F
  | v :: vs, F, F' => ∃ G : Framer, F.keeps v G ∧ G.isFree = true ∧ Framer.reads vs G F'

theorem Framer.reads_append {xs ys : List Byte} : ∀ {F G H : Framer}, Framer.reads xs F G → Framer.reads ys G H →
    Framer.reads (xs ++ ys) F H := by
  induction xs with
  | nil =>
    intro F G H hx hy
    obtain rfl : G = F := hx
    exact hy
  | cons x xs ih =>
    rintro F G H ⟨F1, hkeep, hfree, hx⟩ hy
    exact ⟨F1, hkeep, hfree, ih hx hy⟩

theorem Framer.length_keeps {n : Nat} (h2 : 2 ≤ n) (h200 : n ≤ 200) :
    Framer.length.keeps (byteOf n) (.body n [] (crcByte 0xFFFF#16 (byteOf n))) := by
  refine ⟨nofun, rfl, fun r h => ?_⟩
  rw [RxSide.keepChar, h]
  dsimp only
  rw [byteOf_toNat n (by omega), if_pos ⟨h2, h200⟩]

/-- The body bytes of a record, up to the last (R154). -/
theorem Framer.body_reads (vs : List Byte) : ∀ (v : Byte) (got : List Byte) (n : Nat) (crc : BitVec 16),
    got.length + (vs.length + 1) = n →
    Framer.reads (v :: vs) (.body n got crc) (.check (got ++ v :: vs) none ((v :: vs).foldl crcByte crc)) := by
  induction vs with
  | nil =>
    intro v got n crc hn
    refine ⟨_, ⟨nofun, rfl, fun r h => ?_⟩, rfl, rfl⟩
    rw [RxSide.keepChar, h]
    dsimp only
    rw [if_pos (by simp only [List.length_nil] at hn; omega)]
    rfl
  | cons w vs ih =>
    intro v got n crc hn
    simp only [List.length_cons] at hn
    refine ⟨.body n (got ++ [v]) (crcByte crc v), ⟨nofun, rfl, fun r h => ?_⟩, rfl, ?_⟩
    · rw [RxSide.keepChar, h]
      dsimp only
      rw [if_neg (by omega)]
    · have hrest := ih w (got ++ [v]) n (crcByte crc v) (by simp only [List.length_append, List.length_singleton]; omega)
      rw [List.append_assoc] at hrest
      exact hrest

theorem Framer.high_keeps (body : List Byte) (crc : BitVec 16) (v : Byte) :
    (Framer.check body none crc).keeps v (.check body (some v) (crcByte crc v)) := by
  refine ⟨nofun, rfl, fun r h => ?_⟩
  rw [RxSide.keepChar, h]

theorem Framer.low_keeps {body : List Byte} {crc : BitVec 16} {v : Byte} (b : Byte) (h0 : crcByte crc v = 0#16) :
    (Framer.check body (some b) crc).keeps v (.held body) := by
  refine ⟨nofun, rfl, fun r h => ?_⟩
  rw [RxSide.keepChar, h]
  exact if_pos h0

/-- A lane whose framer stands inside a record, at the moment at which its last character ended. -/
def State.framing (l : LaneId) (F : Framer) (t : Nat) (s : State) : State :=
  s.modRx l fun r => { r with framer := F, gapRef := some t }

/-- One character of a frame (notes/assumptions/8.md). -/
def receiveNext (l : LaneId) (a : Nat) (o : Result) (c : Byte × Nat) : Result :=
  match o with
  | .next u => exec (.characterReceived l c.1 (decide (onesOf c.1 % 2 = 1)) true (a + 132 * c.2)) u
  | .fault f => .fault f
  | .refused f => .refused f

theorem parityMark_even (v : Byte) : parityMark v (decide (onesOf v % 2 = 1)) = false := by
  unfold parityMark
  by_cases h : onesOf v % 2 = 1
  · simp [h, Nat.add_mod]
  · simp [h]

theorem State.framing_service {l : LaneId} {s : State} (hq : (s.rx.get l.idx).queue = []) {F : Framer} (hf : F.isFree = true)
    (t : Nat) : State.service l (s.framing l F t) = s.framing l F t :=
  State.service_stops (by simpa [State.framing, State.modRx] using hf) (by simpa [State.framing, State.modRx] using hq)

/-- The characters of a frame between its marker and its last one (R153, R154). -/
theorem Framer.frame_reads (kind tag : Byte) {fields : List Byte} (hlen : fields.length ≤ 198) (high : Byte) :
    Framer.reads ([byteOf (fields.length + 2)] ++ (kind :: tag :: fields) ++ [high]) .length
      (.check (kind :: tag :: fields) (some high)
        (crcByte (crcOf (byteOf (fields.length + 2) :: kind :: tag :: fields)) high)) := by
  have hbody := Framer.body_reads (tag :: fields) kind [] (fields.length + 2)
    (crcByte 0xFFFF#16 (byteOf (fields.length + 2))) (by simp)
  exact Framer.reads_append (Framer.reads_append ⟨_, Framer.length_keeps (by omega) (by omega), rfl, rfl⟩ hbody)
    ⟨_, Framer.high_keeps _ _ high, rfl, rfl⟩

section
variable {l : LaneId} {s : State} (hh : s.hears l = true) (hq : (s.rx.get l.idx).queue = [])
  (ho : (s.rx.get l.idx).overrunPending = false)
include hh hq ho

/-- A character inside a record without a mark: the framer keeps it, and the lane reads on (R154). -/
theorem State.framing_next {F F' : Framer} {v : Byte} (hk : F.keeps v F') (t : Nat) :
    exec (.characterReceived l v (decide (onesOf v % 2 = 1)) true t) (s.framing l F t) =
      .next (State.service l (s.framing l F' (t + 132))) := by
  obtain ⟨hhunt, hfree, hkeep⟩ := hk
  refine congrArg Host.Outcome.next ?_
  rw [State.characterReceived_read (s := s.framing l F t) hh (by simp) t (by simpa [State.framing, State.modRx] using hfree)
    (by simpa [State.framing, State.modRx] using hq)]
  refine congrArg (State.service l) ?_
  simp only [State.framing, State.modRx, Tab.modify, Tab.get_set_self, Tab.set_set, RxSide.ready, RxSide.heard, ho,
    parityMark_even]
  rw [RxSide.readChar_inside _ (by exact hhunt) (by exact hfree), RxSide.recordChar_unmarked _ (by simp [gapMark]) (by simp), hkeep _ rfl]

/-- The characters of a frame up to the one that completes it (R154). -/
theorem State.framing_reads (a : Nat) (vs : List Byte) : ∀ {F F' : Framer} (n : Nat), Framer.reads vs F F' →
    (vs.zipIdx n).foldl (receiveNext l a) (.next (s.framing l F (a + 132 * n))) =
      .next (s.framing l F' (a + 132 * (n + vs.length))) := by
  induction vs with
  | nil =>
    intro F F' n h
    obtain rfl : F' = F := h
    rfl
  | cons v vs ih =>
    rintro F F' n ⟨G, hkeep, hfree, hrest⟩
    have hstep : receiveNext l a (.next (s.framing l F (a + 132 * n))) (v, n) = .next (s.framing l G (a + 132 * (n + 1))) := by
      rw [receiveNext, State.framing_next hh hq ho hkeep, State.framing_service hq hfree]
      congr 2
    rw [List.zipIdx_cons, List.foldl_cons, hstep, ih (n + 1) hrest]
    congr 3
    simp only [List.length_cons]
    omega

/-- The marker that begins a frame (R154). -/
theorem State.marker_received (hf : (s.rx.get l.idx).framer = .hunt) (a : Nat) :
    receiveNext l a (.next s) (marker, 0) = .next (s.framing l .length (a + 132 * 1)) := by
  refine congrArg Host.Outcome.next ?_
  rw [State.characterReceived_read hh (by simp) _ (by rw [hf]; rfl) hq, RxSide.readChar_hunt (r := (s.rx.get l.idx).ready _) _ hf, huntChar_eq,
    if_pos ⟨rfl, rfl, parityMark_even marker⟩]
  refine Eq.trans (congrArg (State.service l) ?_) (State.framing_service hq rfl _)
  simp [State.framing, State.modRx, Tab.modify, RxSide.ready, ho]

/-- A whole frame, character by character, is the arrival of its record (notes/assumptions/8.md). -/
theorem State.frame_received (hf : (s.rx.get l.idx).framer = .hunt) (a : Nat) {kind tag : Byte} {fields : List Byte}
    (hlen : fields.length ≤ 198) :
    (frameOf (kind :: tag :: fields)).zipIdx.foldl (receiveNext l a) (.next s) =
      .next (State.deliver l kind tag fields (s.modRx l fun r => { r with gapRef := some (a + 132 * (fields.length + 6)) })) := by
  let crc := crcOf (byteOf (fields.length + 2) :: kind :: tag :: fields)
  let high := crc.extractLsb' 8 8
  let low := crc.extractLsb' 0 8
  have hframe : frameOf (kind :: tag :: fields) =
      marker :: (([byteOf (fields.length + 2)] ++ (kind :: tag :: fields) ++ [high]) ++ [low]) := by
    simp [frameOf, high, low, crc]
  have hlow := Framer.low_keeps (body := kind :: tag :: fields) high (crcByte_check crc)
  rw [hframe, List.zipIdx_cons, List.foldl_cons, State.marker_received hh hq ho hf, List.zipIdx_append, List.foldl_append,
    State.framing_reads hh hq ho a _ (0 + 1) (Framer.frame_reads kind tag hlen high)]
  have hlen' : 0 + 1 + ([byteOf (fields.length + 2)] ++ (kind :: tag :: fields) ++ [high]).length = fields.length + 5 := by
    simp only [List.length_append, List.length_cons, List.length_nil]
    omega
  rw [hlen']
  refine (State.framing_next hh hq ho hlow _).trans (congrArg Host.Outcome.next ?_)
  refine (State.service_arrives (s := s) (State.not_deaf_of_hears hh) rfl).trans ?_
  refine congrArg (State.deliver l kind tag fields) ?_
  have hend : a + 132 * (fields.length + 5) + 132 = a + 132 * (fields.length + 6) := by omega
  simp [State.modRx, Tab.modify, ← hf, hend]

end

/-- Settles O24. -/
theorem charactersOfAFrameDeliverItsRecord : Obligations.CharactersOfAFrameDeliverItsRecord := by
  refine ⟨⟨fun c b => ?_, fun body => ?_⟩, fun l kind tag fields a s hlen hh htake hf ho => ?_⟩
  · exact crcOf_eq [b] c
  · intro check
    have hcheck : crcOf (byteOf body.length :: body) = check := crcOf_eq _ _
    rw [frameOf, hcheck]
    rfl
  · exact State.frame_received hh htake.2.1 ho hf a hlen

end Sys2Proof.Machine
end

section
/-! PROOF. The requests that a party serves its pairs and inputs with (O33 to O40, O43, O46). -/

namespace Sys2Proof.Machine

/-! ## From a request to its own part -/

/-- A record that is taken out of the framer leaves it in HUNT, whatever it held meanwhile. -/
theorem State.hunting_mapRx (l : LaneId) (body : List Byte) (u : State) :
    (u.mapRx fun rx => rx.modify l.idx fun r => { r with framer := .held body }).hunting l = u.hunting l := by
  simp [State.hunting, State.modRx, State.mapRx, Tab.modify_modify]

/-- A request that is served does what its own part does to the state in which the record has left the framer. -/
theorem State.serves.exec_do {s : State} {l : LaneId} {k : RequestKind} {who : Party} (h : s.serves l k who)
    {tag : Byte} {fields : List Byte} {f : State → State} (hf : k.fits fields.length = true)
    (hrun : ∀ u, State.runRequest l tag who k fields u = f u) (hmap : ∀ g (u : State), f (u.mapRx g) = (f u).mapRx g) :
    exec (k.request l tag fields) s = .next ((f s).hunting l) := by
  rw [h.exec_eq tag fields hf, hrun]
  refine congrArg Host.Outcome.next ?_
  exact (congrArg (State.hunting · l) (hmap _ s)).trans (State.hunting_mapRx l _ _)

/-- The panel is served on its own lane what touches no input. -/
theorem State.takesAtOnce.serves_panel {s : State} (h : s.takesAtOnce .panel) {k : RequestKind}
    (hk : k.touchesInput = false) : s.serves .panel k .panel :=
  ⟨h, rfl, fun _ => rfl, fun ht => nomatch hk.symm.trans ht⟩

@[simp] theorem State.withInput_inputByte (l : LaneId) (tag : Byte) (k : RequestKind) (i : Input)
    (f : Input → State → State) (s : State) : State.withInput l tag k (inputByte i) f s = f i s := by
  rw [State.withInput, inputOf_inputByte]

@[simp] theorem State.withSwitch_switchByte (l : LaneId) (tag : Byte) (k : RequestKind) (on : Bool)
    (f : Bool → State → State) (s : State) : State.withSwitch l tag k (if on then 1#8 else 0#8) f s = f on s := by
  rw [State.withSwitch, switchOf_switchByte]

/-- The lock keeps out neither the panel nor, where it is off, anyone (R46). -/
theorem not_locked_out {lock : Bool} {who : Party} (h : lock = false ∨ who = .panel) : ¬(lock = true ∧ who ≠ .panel) := by
  rintro ⟨hlock, hp⟩
  rcases h with hf | hf
  · rw [hf] at hlock
    cases hlock
  · exact hp hf

/-! ## MUTE and MAP -/

/-- Settles O35. -/
theorem muteTurnsTheGate : Obligations.MuteTurnsTheGate := fun l tag who i on _ h =>
  h.exec_do (f := State.doMute l tag who i on) rfl (fun u => by simp [State.runRequest, State.runMute]) fun _ _ => by simp

/-- Settles O36. -/
theorem mapIsStoredOrRefused : Obligations.MapIsStoredOrRefused := by
  intro l tag who list s h hne hlen
  have hfits : RequestKind.map.fits (list.map inputByte).length = true := by
    have := List.length_pos_of_ne_nil hne
    simp only [RequestKind.fits, List.length_map, Bool.and_eq_true, decide_eq_true_eq]
    omega
  refine ⟨fun hdup => ?_, fun hnd => ?_⟩
  · refine h.exec_do (f := State.refuse l tag .map .badValue) hfits (fun u => ?_) fun _ _ => by simp
    simp [State.runRequest, State.runMap, mapInputs_inputByte, hdup]
  · have hdo := h.exec_do (f := State.doMap l tag who list) (tag := tag) hfits
      (fun u => by simp [State.runRequest, State.runMap, mapInputs_inputByte, hnd]) fun _ _ => by simp
    refine ⟨fun hp => ?_, fun k c hk hc => ?_⟩
    · subst hp
      exact hdo
    · subst hk
      refine hdo.trans (congrArg Host.Outcome.next ?_)
      simp only [State.doMap, hc, List.length_take]
      simp [State.storeMap, State.reply, State.send, State.hunting, State.modRx, State.answered, Tab.modify, hc]
      rfl

/-! ## LOCK, SET_ALIGN and RESTART -/

/-- Settles O46. -/
theorem alignAndRestartAreTaken : Obligations.AlignAndRestartAreTaken := by
  refine ⟨fun tag hi lo s h => ?_, fun tag s h => ?_⟩
  · refine ((h.serves_panel (k := .setAlign) rfl).exec_do (f := State.doSetAlign .panel tag (u16 hi lo)) rfl (fun u => rfl)
      fun _ _ => by simp).trans (congrArg Host.Outcome.next ?_)
    have hcode : ∀ d : Nat, (if 255 < d then ResultCode.clamped else .ok) = if d ≤ 255 then .ok else .clamped := fun d => by
      by_cases hd : d ≤ 255
      · rw [if_neg (by omega), if_pos hd]
      · rw [if_pos (by omega), if_neg hd]
    rw [State.doSetAlign, u16, hcode]
    rfl
  · refine ((h.serves_panel (k := .restart) rfl).exec_do (f := State.doRestart .panel tag) rfl (fun u => rfl)
      fun _ _ => by simp).trans (congrArg Host.Outcome.next ?_)
    simp [State.doRestart, State.reply, State.send, State.hunting, State.modRx, State.answered, Comm.used, Comm.queueFrame,
      LaneId.idx, frameOf_length, replyBody, RequestKind.code]

/-! ## LEVEL -/

theorem levelField_eq (hi lo : Byte) : levelField hi lo =
    if (hi ++ lo : BitVec 16).toInt = -32768 then none else some (hi ++ lo : BitVec 16).toInt := rfl

theorem storedLevel_eq (field : Option Int) : storedLevel field = field.map fun x => max (-600) (min 840 x) := rfl

/-- A pair that stores a level keeps everything but the trim target and what R6 sets by it (R5, R7, R32). -/
theorem Pair.storeLevel_keeps (status : AnalogStatus) (a : Int) (level : Option Int) (q : Pair) :
    Pair.storeLevel status a level q =
      { q with level := level, target := (Pair.storeLevel status a level q).target,
               trimState := (Pair.storeLevel status a level q).trimState,
               phase := (Pair.storeLevel status a level q).phase, stepped := (Pair.storeLevel status a level q).stepped } := by
  cases status <;> rfl

theorem Pair.storeLevel_known (a : Int) (level : Option Int) (q : Pair) :
    (Pair.storeLevel .known a level q).target = (match level with
        | none => 0
        | some x => max (-400) (min 240 (x - a))) ∧
      (Pair.storeLevel .known a level q).trimState = (Pair.storeLevel .known a level q).stateNow .known a ∧
      (Pair.storeLevel .known a level q).phase =
        if (Pair.storeLevel .known a level q).trimState = .ramping ∧ q.trimState ≠ .ramping then 0 else q.phase := by
  refine ⟨?_, rfl, rfl⟩
  cases level <;> rfl

theorem Pair.storeLevel_uncertain (a : Int) (level : Option Int) (q : Pair) :
    (Pair.storeLevel .uncertain a level q).target = q.target ∧
      (Pair.storeLevel .uncertain a level q).trimState = .frozen ∧ (Pair.storeLevel .uncertain a level q).phase = q.phase :=
  ⟨rfl, rfl, rfl⟩

/-- LEVEL comes to its own part. -/
theorem State.serves.exec_level {s : State} {l : LaneId} {who : Party} (h : s.serves l .level who) (tag hi lo : Byte)
    (i : Input) : exec (.level l tag [inputByte i, hi, lo]) s =
      .next ((s.doLevel l tag who i (levelField hi lo)).hunting l) :=
  h.exec_do (f := State.doLevel l tag who i (levelField hi lo)) rfl
    (fun u => by simp [State.runRequest, State.runLevel]) fun _ _ => by simp

theorem levelResult_eq (owns : Bool) (status : AnalogStatus) (field : Option Int) : levelResult owns status field =
    if owns = true ∧ status = .uncertain then .deferred else if storedLevel field = field then .ok else .clamped := by
  unfold levelResult levelClamped
  by_cases h : storedLevel field = field <;> simp [h]

/-- A pair that stores a level behind the reply: the pair, and the LIMIT event it tells of (R8, R32). -/
theorem State.stored_hunting {s : State} {who : Party} {i : Input} {q : Pair} (hq : s.pair? who i = some q) (l : LaneId)
    (tag kind : Byte) (r : ResultCode) (payload : List Byte) (f : Pair → Pair) :
    s.repliedThen l (replyBody tag kind r payload) (limitTold (s.lanesOf who) i (s.analog i) q (f q))
        (((s.reply l tag kind r payload).updatePair who i f).hunting l) ∧
      (((s.reply l tag kind r payload).updatePair who i f).hunting l).pairs = s.pairs.modify who i fun _ => f q :=
  ⟨⟨rfl, State.updatePair_comm who i f (s.reply l tag kind r payload) q hq⟩, PairStore.modify_const _ _ _ _ _ hq⟩

/-- Settles O33. -/
theorem levelOfANonOwnerStaysInItsPair : Obligations.LevelOfANonOwnerStaysInItsPair := by
  intro l tag who i hi lo q s h hown hq field stored
  have hlevel : s.doLevel l tag who i (levelField hi lo) =
      (s.reply l tag 0x10#8 (if stored = field then .ok else .clamped) (beLevel stored)).updatePair who i
        (Pair.storeLevel (s.moves.get i).status (s.analog i) stored) := by
    rw [State.doLevel, if_neg fun hc => hown hc.1]
    dsimp only
    rw [levelResult_eq, if_neg (by simp [hown]), State.setLevel]
    exact if_neg hown
  obtain ⟨hreplied, hpairs⟩ := State.stored_hunting hq l tag 0x10#8 (if stored = field then .ok else .clamped)
    (beLevel stored) (Pair.storeLevel (s.moves.get i).status (s.analog i) stored)
  refine ⟨_, Pair.storeLevel (s.moves.get i).status (s.analog i) stored q, h.exec_level tag hi lo i, ?_, ?_,
    Pair.storeLevel_keeps _ _ _ _, fun hk => ?_, fun hu => ?_, ?_⟩
  · rw [hlevel]
    exact hreplied
  · rw [hlevel]
    exact hpairs
  · rw [hk]
    exact Pair.storeLevel_known _ _ _
  · rw [hu]
    exact Pair.storeLevel_uncertain _ _ _
  · rw [hlevel]
    rfl

/-- The owner level taken afresh changes moves and the bus alone (R50). -/
theorem State.handOwnerTarget_frame (i : Input) (s : State) :
    s.handOwnerTarget i = { s with moves := (s.handOwnerTarget i).moves, bus := (s.handOwnerTarget i).bus } := by
  unfold State.handOwnerTarget
  split <;> rfl

/-- The level that the owner has just stored is pursued (R50). -/
theorem State.pursue_stored {s : State} {who : Party} {i : Input} {q : Pair} (hown : (s.own.get i).owner = some who)
    (hq : s.pair? who i = some q) (l : LaneId) (tag kind : Byte) (r : ResultCode) (payload : List Byte) (level : Option Int) :
    let u := (s.reply l tag kind r payload).updatePair who i
      (Pair.storeLevel (s.moves.get i).status (s.analog i) level)
    ((u.handOwnerTarget i).moves, (u.handOwnerTarget i).bus) = s.pursue i level (s.own.get i).padChoice := by
  intro u
  have hu : u.pair? who i = some (Pair.storeLevel (s.moves.get i).status (s.analog i) level q) := by
    rw [State.pair?_updatePair, if_pos ⟨rfl, rfl⟩]
    exact congrArg (Option.map _) hq
  have hlevel : u.levelOfOwner (u.own.get i).owner i = level := by
    rw [show (u.own.get i).owner = some who from hown, State.levelOfOwner, State.levelOf, hu, Pair.storeLevel_keeps]
  rw [State.handOwnerTarget_pursue, hlevel]
  cases level <;> rfl

/-- Settles O34. -/
theorem levelOfTheOwnerIsPursued : Obligations.LevelOfTheOwnerIsPursued := by
  intro l tag who i hi lo q s h hown hq field stored
  refine ⟨fun hlock hp => ?_, fun hfree => ?_⟩
  · rw [h.exec_level, State.doLevel, if_pos ⟨hown, hlock, hp⟩]
    rfl
  · have hlevel : s.doLevel l tag who i (levelField hi lo) = State.handOwnerTarget i
        ((s.reply l tag 0x10#8
            (if (s.moves.get i).status = .uncertain then .deferred else if stored = field then .ok else .clamped)
            (beLevel stored)).updatePair who i (Pair.storeLevel (s.moves.get i).status (s.analog i) stored)) := by
      rw [State.doLevel, if_neg fun hc => not_locked_out hfree hc.2]
      dsimp only
      rw [levelResult_eq, State.setLevel]
      simp only [hown, decide_true, true_and]
      exact if_pos hown
    obtain ⟨⟨hrx, hcomm⟩, hpairs⟩ := State.stored_hunting hq l tag 0x10#8
      (if (s.moves.get i).status = .uncertain then .deferred else if stored = field then .ok else .clamped)
      (beLevel stored) (Pair.storeLevel (s.moves.get i).status (s.analog i) stored)
    refine ⟨_, Pair.storeLevel (s.moves.get i).status (s.analog i) stored q, h.exec_level tag hi lo i, ?_, ?_,
      Pair.storeLevel_keeps _ _ _ _, fun hk => ?_, fun hu => ?_, ?_, ?_⟩
    · rw [hlevel, State.handOwnerTarget_frame]
      exact ⟨hrx, hcomm⟩
    · rw [hlevel, State.handOwnerTarget_frame]
      exact hpairs
    · rw [hk]
      exact Pair.storeLevel_known _ _ _
    · rw [hu]
      exact Pair.storeLevel_uncertain _ _ _
    · rw [hlevel]
      exact State.pursue_stored hown hq l tag 0x10#8 _ _ stored
    · rw [hlevel, State.handOwnerTarget_frame]
      rfl

/-! ## Ownership -/

/-- A change of owner changes the arbiter's state, moves, the bus and the records queued (R51). -/
theorem State.changeOwner_frame (i : Input) (who : Option Party) (s : State) :
    s.changeOwner i who = { s with
      own := s.own.modify i (Ownership.give who)
      moves := (s.changeOwner i who).moves
      bus := (s.changeOwner i who).bus
      comm := s.comm.tells [s.ownerTold i who (s.own.get i).owner (Ownership.give who (s.own.get i)).waiting.length] } := by
  have hgive : (s.modOwn i (Ownership.give who)).own.get i = Ownership.give who (s.own.get i) := by simp [State.modOwn]
  unfold State.changeOwner
  rw [State.handOwnerTarget_frame]
  unfold State.raiseOwner
  dsimp only
  rw [hgive]
  rfl

/-- The owner level that a change of owner pursues (R50, R51). -/
theorem State.changeOwner_pursue (i : Input) (who : Option Party) (s : State) :
    ((s.changeOwner i who).moves, (s.changeOwner i who).bus) = s.pursue i (s.levelOfOwner who i) (s.own.get i).padChoice := by
  have hgive : (s.modOwn i (Ownership.give who)).own.get i = Ownership.give who (s.own.get i) := by simp [State.modOwn]
  refine (State.handOwnerTarget_pursue (s.modOwn i (Ownership.give who)) i).trans ?_
  rw [hgive]
  cases h : s.levelOfOwner who i <;>
    (rw [show (s.modOwn i (Ownership.give who)).levelOfOwner (Ownership.give who (s.own.get i)).owner i = _ from h]; rfl)

/-- A change of owner behind a reply (R51, R57). -/
theorem State.changeOwner_passed (s : State) (l : LaneId) (tag kind : Byte) (r : ResultCode) (payload : List Byte)
    (i : Input) (who : Option Party) :
    s.ownerPassed l (replyBody tag kind r payload) i who (Ownership.give who (s.own.get i)).waiting
      (((s.reply l tag kind r payload).changeOwner i who).hunting l) := by
  have hpursue := State.changeOwner_pursue i who (s.reply l tag kind r payload)
  rw [State.changeOwner_frame]
  refine ⟨⟨rfl, rfl⟩, rfl, hpursue.trans ?_, rfl⟩
  cases h : s.levelOfOwner who i <;>
    (rw [show (s.reply l tag kind r payload).levelOfOwner who i = _ from h]; rfl)

/-- Settles O43. -/
theorem lockAndForce : Obligations.LockAndForce := by
  refine ⟨fun tag i on s h => ?_, fun tag i s h => ?_⟩
  · exact h.exec_do (f := State.doLock .panel tag i on) rfl (fun u => by simp [State.runRequest, State.runLock])
      fun _ _ => by simp
  · have hdo := h.exec_do (f := State.doForce .panel tag i) (tag := tag) (fields := [inputByte i]) rfl
      (fun u => by simp [State.runRequest, State.runForce]) fun _ _ => by simp
    refine ⟨fun hown => ?_, fun hown => ⟨_, hdo, ?_⟩⟩
    · refine hdo.trans (congrArg Host.Outcome.next ?_)
      rw [State.doForce, if_pos hown]
      rfl
    · rw [State.doForce, if_neg hown]
      exact State.changeOwner_passed s .panel tag 0x31#8 .ok [] i (some .panel)

/-- The place of a waiter: the first at which it stands (R41). -/
theorem waitPosition_eq {waiting : List Party} {who : Party} {n : Nat} (hn : waiting[n]? = some who)
    (hfirst : who ∉ waiting.take n) : waitPosition waiting who = n + 1 := by
  obtain ⟨hlt, hget⟩ := List.getElem?_eq_some_iff.mp hn
  have hfind : waiting.findIdx? (fun w => w == who) = some n := by
    rw [List.findIdx?_eq_some_iff_getElem]
    refine ⟨hlt, by simp [hget], fun j hj heq => hfirst ?_⟩
    rw [← eq_of_beq heq]
    exact List.mem_take_iff_getElem.mpr ⟨j, by omega, rfl⟩
  rw [waitPosition, hfind]

/-- Settles O37. -/
theorem takeClaimsAnInput : Obligations.TakeClaimsAnInput := by
  intro l tag who i s h o answers
  have hdo := h.exec_do (f := State.doTake l tag who i) (tag := tag) (fields := [inputByte i]) rfl
    (fun u => by simp [State.runRequest, State.runTake]) fun _ _ => by simp
  refine ⟨fun hlock hp => hdo.trans (congrArg Host.Outcome.next ?_), fun hfree => ?_⟩
  · exact congrArg (State.hunting · l) (if_pos ⟨hlock, hp⟩)
  · refine ⟨fun hrole => hdo.trans (congrArg Host.Outcome.next ?_), fun hrole =>
      ⟨fun hown => hdo.trans (congrArg Host.Outcome.next ?_), fun hown => ⟨_, hdo, ?_⟩,
        fun hown hsome n hn hfirst => hdo.trans (congrArg Host.Outcome.next ?_),
        fun hown hsome hwait => hdo.trans (congrArg Host.Outcome.next ?_)⟩⟩ <;> unfold State.doTake <;>
      dsimp only <;> rw [if_neg (not_locked_out hfree)]
    · rw [if_pos hrole]
      rfl
    · rw [if_neg hrole, if_pos hown]
      rfl
    · rw [if_neg hrole, if_neg (by rw [hown]; nofun), if_pos hown]
      exact State.changeOwner_passed s l tag 0x13#8 .ok [0#8] i (some who)
    · rw [if_neg hrole, if_neg hown, if_neg hsome, if_pos (List.mem_of_getElem? hn), waitPosition_eq hn hfirst]
      rfl
    · rw [if_neg hrole, if_neg hown, if_neg hsome, if_neg hwait]
      rfl

/-- The oldest waiter that becomes owner leaves the waiting list (R43, R51). -/
theorem Ownership.give_head {o : Ownership} (h : o.waiting.Nodup) :
    (Ownership.give o.waiting.head? o).waiting = o.waiting.tail := by
  cases hw : o.waiting with
  | nil => exact hw
  | cons w ws =>
    rw [hw, List.nodup_cons] at h
    show o.waiting.filter (· != w) = ws
    rw [hw, List.filter_cons_of_neg (by simp), List.filter_eq_self]
    intro x hx
    exact bne_iff_ne.mpr fun he => h.1 (he ▸ hx)

/-- Settles O38. -/
theorem releasePassesOwnershipOn : Obligations.ReleasePassesOwnershipOn := by
  intro l tag who i s h hok o
  have hdo := h.exec_do (f := State.doRelease l tag who i) (tag := tag) (fields := [inputByte i]) rfl
    (fun u => by simp [State.runRequest, State.runRelease]) fun _ _ => by simp
  obtain ⟨hnodup, hnot, hempty⟩ := hok
  refine ⟨fun hown hlock hp => hdo.trans (congrArg Host.Outcome.next ?_), fun hown hfree => ⟨_, hdo, ?_⟩,
    fun hown hwait => hdo.trans (congrArg Host.Outcome.next ?_),
    fun hown hwait => hdo.trans (congrArg Host.Outcome.next ?_)⟩ <;> unfold State.doRelease <;> dsimp only
  · rw [if_pos hown, if_pos ⟨hlock, hp⟩]
    rfl
  · have hno : ¬((s.own.get i).lock = true ∧ who ≠ .panel) := by
      rintro ⟨hlock, hp⟩
      rcases hfree with hf | hf
      · rw [hf] at hlock
        cases hlock
      · exact hp hf
    rw [if_pos hown, if_neg hno]
    have hpassed := State.changeOwner_passed s l tag 0x14#8 .ok [] i (s.own.get i).waiting.head?
    rw [Ownership.give_head hnodup] at hpassed
    exact hpassed
  · rw [if_neg hown, if_pos hwait]
    rfl
  · rw [if_neg hown, if_neg hwait]
    rfl

/-! ## PAD -/

theorem analogTarget_eq (g : Int) (on : Bool) : analogTarget g on =
    { pad := on, p := (max 0 (min (if on then 40 else 60) ((g - (if on then -200 else 0)) / 10))).toNat } := by
  cases on <;> rfl

theorem MoveCtl.latest_p (m : MoveCtl) : m.latest.p = match m.pending, m.move.inFlight with
    | some b, _ => b.p
    | none, some b => b.p
    | none, none => m.setting.p := by
  unfold MoveCtl.latest
  cases m.pending <;> cases m.move.inFlight <;> rfl

/-- The pad choice of an input whose owner's level is present, and the target it gives (R3, R48). -/
theorem State.choosePad_present {s : State} {i : Input} {who : Party} {g : Int} (hown : (s.own.get i).owner = some who)
    (hl : s.levelOf who i = some g) (on : Bool) :
    s.choosePad i on = State.handTarget i (analogTarget g on)
      { s with own := s.own.set i { s.own.get i with padChoice := on } } := by
  have hlevel : s.ownerLevel i = some g := by rw [State.ownerLevel_eq, hown]; exact hl
  unfold State.choosePad
  rw [hlevel]
  rfl

/-- The pad choice of an input whose owner's level is absent, and the target it gives (R4, R48). -/
theorem State.choosePad_absent {s : State} {i : Input} {who : Party} (hown : (s.own.get i).owner = some who)
    (hl : s.levelOf who i = none) (on : Bool) :
    s.choosePad i on = State.handTarget i (keptTarget on (s.moves.get i).latest.p)
      { s with own := s.own.set i { s.own.get i with padChoice := on } } := by
  have hlevel : s.ownerLevel i = none := by rw [State.ownerLevel_eq, hown]; exact hl
  unfold State.choosePad
  rw [hlevel]
  rfl

/-- Settles O39. -/
theorem padChoosesAndPursues : Obligations.PadChoosesAndPursues := by
  intro l tag who i on s h o m fields
  have hdo := h.exec_do (f := State.doPad l tag who i on) (tag := tag) (fields := fields) rfl
    (fun u => by simp [State.runRequest, State.runPad, fields]) fun _ _ => by simp
  refine ⟨fun hown => hdo.trans (congrArg Host.Outcome.next ?_), fun hown hlock hp => hdo.trans (congrArg Host.Outcome.next ?_),
    fun hown hfree => ?_⟩
  · rw [State.doPad, if_pos hown]
    rfl
  · rw [State.doPad, if_neg (not_not_intro hown), if_pos ⟨hlock, hp⟩]
    rfl
  · intro p0 target
    refine hdo.trans (congrArg Host.Outcome.next ?_)
    rw [State.doPad, if_neg (not_not_intro hown), if_neg (not_locked_out hfree)]
    cases hl : s.levelOf who i with
    | some g =>
      have htarget : target = analogTarget g on := by simp only [target, hl, analogTarget_eq]
      rw [htarget]
      exact congrArg (State.hunting · l) (State.choosePad_present (s := s.reply l tag _ _ []) hown hl on)
    | none =>
      have htarget : target = keptTarget on m.latest.p := by
        simp only [target, hl, MoveCtl.latest_p]
        rfl
      rw [htarget]
      exact congrArg (State.hunting · l) (State.choosePad_absent (s := s.reply l tag _ _ []) hown hl on)

/-! ## PHANTOM -/

theorem phantomOf_eq (on : Bool) : phantomOf on = if on then .on else .off := rfl

/-- What the start of a sequence leaves, with the STARTED event (R83, R85, R94). -/
theorem State.startSequence_eq (i : Input) (on : Bool) (s : State) : s.startSequence i on =
    { s with
      phantoms := s.phantoms.set i
        { s.phantoms.get i with
          origin := some (s.phantoms.get i).phantom, target := some on, outcome := none, seq := .fadeOut }
      pairs := s.pairs.mapInput i (Pair.turnGate s.rate.fade .fadeOut)
      comm := s.comm.tells [s.startTold i] } := by
  simp [State.startSequence, State.raisePhantom, State.broadcast, State.raise, State.turnGates, State.modPhantom, Tab.modify,
    State.startTold, Comm.tells, State.partyLanes]

/-- What the entry to FADE_IN leaves (R88). -/
theorem State.enterFadeIn_eq (i : Input) (s : State) : s.enterFadeIn i =
    { s with
      phantoms := s.phantoms.set i { s.phantoms.get i with seq := .fadeIn, settle := none }
      pairs := s.pairs.mapInput i (Pair.turnGate s.rate.fade .fadeIn) } := by
  simp [State.enterFadeIn, State.turnGates, State.modPhantom, Tab.modify]

theorem Move.busy_iff (m : Move) : m.busy = true ↔ m ≠ .idle := by
  cases m <;> simp [Move.busy]

section
variable {s : State} {i : Input} {on : Bool}

theorem State.phantomRequest_same (hseq : (s.phantoms.get i).seq = .idle) (h : (s.phantoms.get i).phantom = phantomOf on) :
    s.phantomRequest i on = s.modPhantom i fun q => { q with held := none } := by
  rw [State.phantomRequest, hseq]
  exact if_pos h

theorem State.phantomRequest_held (hseq : (s.phantoms.get i).seq = .idle) (h : (s.phantoms.get i).phantom ≠ phantomOf on)
    (hm : (s.moves.get i).move ≠ .idle) : s.phantomRequest i on = s.modPhantom i fun q => { q with held := some on } := by
  rw [State.phantomRequest, hseq]
  exact (if_neg h).trans (if_pos ((Move.busy_iff _).mpr hm))

theorem State.phantomRequest_starts (hseq : (s.phantoms.get i).seq = .idle) (h : (s.phantoms.get i).phantom ≠ phantomOf on)
    (hm : (s.moves.get i).move = .idle) : s.phantomRequest i on = s.startSequence i on := by
  rw [State.phantomRequest, hseq]
  exact (if_neg h).trans (if_neg fun hb => (Move.busy_iff _).mp hb hm)

theorem State.phantomRequest_fadeOut (hseq : (s.phantoms.get i).seq = .fadeOut) :
    s.phantomRequest i on = s.phantomInFadeOut i on := by
  rw [State.phantomRequest, hseq]

theorem State.phantomRequest_reversal (hseq : (s.phantoms.get i).seq = .writing ∨ (s.phantoms.get i).seq = .settling) :
    s.phantomRequest i on = s.phantomReversal i on := by
  rcases hseq with hseq | hseq <;> rw [State.phantomRequest, hseq]

theorem State.phantomRequest_fadeIn (hseq : (s.phantoms.get i).seq = .fadeIn) :
    s.phantomRequest i on = if (s.phantoms.get i).phantom = phantomOf on then s else s.startSequence i on := by
  rw [State.phantomRequest, hseq]

end

/-- Settles O40. -/
theorem phantomIsCheckedAndRun : Obligations.PhantomIsCheckedAndRun := by
  intro l tag who i on s h o ph fields value answers becomes starts
  have hdo := h.exec_do (f := State.doPhantom l tag who i on) (tag := tag) (fields := fields) rfl
    (fun u => by simp [State.runRequest, State.runPhantom, fields]) fun _ _ => by simp
  refine ⟨fun hp hown => hdo.trans (congrArg Host.Outcome.next ?_), fun hp hown hlock => hdo.trans (congrArg Host.Outcome.next ?_),
    fun hauth => ?_⟩
  · rw [State.doPhantom]
    exact congrArg (State.hunting · l) (if_pos ⟨hp, hown⟩)
  · rw [State.doPhantom]
    refine congrArg (State.hunting · l) ((if_neg ?_).trans (if_pos ⟨hp, hlock⟩))
    exact fun hc => hc.2 hown
  · have hpast : s.doPhantom l tag who i on = if s.bus.chips.get (chipOf i) ≠ .ok then s.refuse l tag .phantom .faulted
        else (s.reply l tag RequestKind.phantom.code .ok []).phantomRequest i on := by
      rw [State.doPhantom]
      refine (if_neg ?_).trans (if_neg ?_)
      · rintro ⟨hp, hown⟩
        exact hown (hauth.resolve_left hp).1
      · rintro ⟨hp, hlock⟩
        have hfree := (hauth.resolve_left hp).2
        rw [hlock] at hfree
        cases hfree
    rw [hpast] at hdo
    refine ⟨fun hchip => hdo.trans (congrArg Host.Outcome.next ?_), fun hchip => ?_⟩
    · exact congrArg (State.hunting · l) (if_pos hchip)
    · rw [if_neg (not_not_intro hchip)] at hdo
      let replied := s.reply l tag RequestKind.phantom.code .ok []
      have hrun {t : State} (ht : replied.phantomRequest i on = t) : exec (.phantom l tag fields) s = .next (t.hunting l) := by
        rw [← ht]
        exact hdo
      have hstarts (hs : replied.phantomRequest i on = replied.startSequence i on) : starts := by
        refine ⟨_, hrun hs, ?_⟩
        rw [State.startSequence_eq]
        exact ⟨⟨rfl, rfl⟩, rfl, rfl, rfl⟩
      refine ⟨fun hseq => ⟨fun hv => hrun (State.phantomRequest_same (s := replied) hseq hv),
          fun hv hm => hrun (State.phantomRequest_held (s := replied) hseq hv hm),
          fun hv hm => hstarts (State.phantomRequest_starts (s := replied) hseq hv hm)⟩,
        fun hseq => ?_, fun hseq => hrun (State.phantomRequest_reversal (s := replied) hseq), fun hseq => ?_⟩
      · have hout := State.phantomRequest_fadeOut (s := replied) (on := on) hseq
        refine ⟨fun ht => hrun (hout.trans (if_pos ht)), fun ht ho => (hrun (hout.trans ((if_neg ht).trans (if_pos ho)))).trans ?_,
          fun ht ho => hrun (hout.trans ((if_neg ht).trans (if_neg ho)))⟩
        rw [State.enterFadeIn_eq]
        simp only [State.modPhantom, Tab.modify, Tab.get_set_self, Tab.set_set]
        rfl
      · have hin := State.phantomRequest_fadeIn (s := replied) (on := on) hseq
        exact ⟨fun hv => hrun (hin.trans (if_pos hv)), fun hv => hstarts (hin.trans (if_neg hv))⟩

end Sys2Proof.Machine
end

section
/-! PROOF. The order of checks, records out of place, and the queries (O31, O32, O41, O42, O45). -/

namespace Sys2Proof.Machine

/-! ## The tables of the order of checks -/

/-- The first seat that a test accepts. -/
theorem find?_finRange {n : Nat} (p : Fin n → Bool) (k : Fin n) :
    (List.finRange n).find? p = some k ↔ p k = true ∧ ∀ k' < k, p k' = false := by
  rw [List.find?_eq_some_iff_getElem]
  constructor
  · rintro ⟨hp, i, hi, hk, hbefore⟩
    refine ⟨hp, fun k' hlt => ?_⟩
    have hik : i = k.val := by simpa using congrArg Fin.val hk
    simpa using hbefore k'.val (hik ▸ hlt)
  · rintro ⟨hp, hbefore⟩
    refine ⟨hp, k.val, by simp, by simp, fun j hj => ?_⟩
    simpa using hbefore ⟨j, by omega⟩ (by simpa [Fin.lt_def] using hj)

/-- The seat of a port: the lowest that names it (R40; notes/assumptions/15.md). -/
theorem seatOf_eq_some (entries : Tab 6 (Option Consumer)) (p : Port) (k : Seat) : seatOf entries p = some k ↔
    (∃ c, entries.get k = some c ∧ p ∈ c.ports) ∧ ∀ k' < k, ∀ c', entries.get k' = some c' → p ∉ c'.ports := by
  unfold seatOf
  refine (find?_finRange _ k).trans (and_congr ?_ (forall₂_congr fun k' _ => ?_))
  · cases entries.get k <;> simp
  · cases entries.get k' <;> simp

theorem RequestKind.fits_iff (k : RequestKind) (n : Nat) : k.fits n = true ↔ match k with
    | .level => n + 2 = 5
    | .mute => n + 2 = 4
    | .map => 3 ≤ n + 2 ∧ n + 2 ≤ 200
    | .take => n + 2 = 3
    | .release => n + 2 = 3
    | .pad => n + 2 = 4
    | .phantom => n + 2 = 4
    | .queryInput => n + 2 = 3
    | .queryLink => n + 2 = 4
    | .queryLane => n + 2 = 4
    | .queryConsumer => n + 2 = 3
    | .lock => n + 2 = 4
    | .force => n + 2 = 3
    | .setRate => n + 2 = 3
    | .setAlign => n + 2 = 4
    | .resetPort => n + 2 = 3
    | .restart => n + 2 = 2 := by
  cases k <;> simp [RequestKind.fits]

/-! ## The checks -/

theorem State.checkRequest_code (l : LaneId) (tag : Byte) (fields : List Byte) (k : RequestKind) (u : State) :
    u.checkRequest l k.code tag fields =
      if !k.fits fields.length then u.refuse l tag k .badLength
      else if k.panelOnly && decide (l ≠ .panel) then u.refuse l tag k .panelOnly
      else match u.boundRequester l with
      | none => u.refuse l tag k .notBound
      | some who =>
        if k.touchesInput && decide (u.bus.pass = .starting) then u.refuse l tag k .notReady
        else u.runRequest l tag who k fields := by
  rw [State.checkRequest, kindOf_code] <;> rfl

section
variable {s : State} {l : LaneId} {k : RequestKind} {tag : Byte} {fields : List Byte}

/-- A request that a check refuses: the reply, and nothing else (R166, R167). -/
theorem State.takesAtOnce.refused (h : s.takesAtOnce l) (hr : s.reachesChecks l k.code) {r : ResultCode}
    (hc : (s.holding l (k.code :: tag :: fields)).checkRequest l k.code tag fields =
      (s.holding l (k.code :: tag :: fields)).refuse l tag k r) :
    exec (k.request l tag fields) s = .next (s.answered l (replyBody tag k.code r [])) := by
  rw [exec_request, State.deliver_checks _ _ _ _ _ h hr, hc]
  exact congrArg Host.Outcome.next (State.holding_reply s l _ tag k.code r [])

/-- A request that its own part refuses. -/
theorem State.serves.refused {who : Party} (h : s.serves l k who) (hf : k.fits fields.length = true) {r : ResultCode}
    (hrun : ∀ u, State.runRequest l tag who k fields u = u.refuse l tag k r) :
    exec (k.request l tag fields) s = .next (s.answered l (replyBody tag k.code r [])) :=
  h.exec_do (f := State.refuse l tag k r) hf hrun fun _ _ => by simp

end

theorem State.withInput_bad {b : Byte} (h : b = 0#8 ∨ 48 < b.toNat) (l : LaneId) (tag : Byte) (k : RequestKind)
    (f : Input → State → State) (u : State) : State.withInput l tag k b f u = u.refuse l tag k .badInput := by
  rw [State.withInput, inputOf_none b h]

theorem State.withSwitch_bad {v : Byte} (h0 : v ≠ 0#8) (h1 : v ≠ 1#8) (l : LaneId) (tag : Byte) (k : RequestKind)
    (f : Bool → State → State) (u : State) : State.withSwitch l tag k v f u = u.refuse l tag k .badValue := by
  rw [State.withSwitch, switchOf_none v h0 h1]

/-- A request that touches an input and names none that is (R167 step 6). -/
theorem State.runRequest_badInput {k : RequestKind} {b : Byte} {rest : List Byte} (ht : k.touchesInput = true)
    (hf : k.fits (b :: rest).length = true) (hb : b = 0#8 ∨ 48 < b.toNat) (l : LaneId) (tag : Byte) (who : Party) (u : State) :
    u.runRequest l tag who k (b :: rest) = u.refuse l tag k .badInput := by
  have hmap : mapInputs (b :: rest) = none := mapInputs_none _ ⟨b, List.mem_cons_self, hb⟩
  rw [RequestKind.fits_iff] at hf
  cases k <;> simp only [List.length_cons, RequestKind.touchesInput, reduceCtorEq] at hf ht
  case map => rw [State.runRequest, State.runMap, hmap]
  case level =>
    obtain ⟨x, y, rfl⟩ := List.length_eq_two.mp (show rest.length = 2 by omega)
    exact State.withInput_bad hb ..
  case mute | pad | phantom | lock =>
    obtain ⟨x, rfl⟩ := List.length_eq_one_iff.mp (show rest.length = 1 by omega)
    exact State.withInput_bad hb ..
  case take | release | queryInput | force =>
    obtain rfl := List.length_eq_zero_iff.mp (show rest.length = 0 by omega)
    exact State.withInput_bad hb ..

/-- On whose behalf a split lane's requests come (R40; notes/assumptions/15.md). -/
theorem State.boundRequester_split (s : State) (p : Port) (who : Party) : s.boundRequester (.split p) = some who ↔
    (s.ports.get p).state = .bound ∧ ∃ k c, who = .consumer k ∧ s.entries.get k = some c ∧ p ∈ c.ports ∧
      ∀ k' < k, ∀ c', s.entries.get k' = some c' → p ∉ c'.ports := by
  unfold State.boundRequester State.requester
  by_cases hb : (s.ports.get p).state = .bound
  · simp only [hb, if_true, Option.map_eq_some_iff, true_and, seatOf_eq_some]
    constructor
    · rintro ⟨k, ⟨⟨c, hc, hp⟩, hbefore⟩, rfl⟩
      exact ⟨k, c, rfl, hc, hp, hbefore⟩
    · rintro ⟨k, c, rfl, hc, hp, hbefore⟩
      exact ⟨k, ⟨⟨c, hc, hp⟩, hbefore⟩, rfl⟩
  · simp [hb]

/-- Settles O31. -/
theorem requestChecksInOrder : Obligations.RequestChecksInOrder := by
  refine ⟨fun k n => ⟨k.fits_iff n, ?_, ?_⟩, rfl, fun tag kind r payload => ?_,
    fun s p who => ⟨rfl, s.boundRequester_split p who⟩, fun k l tag fields s h hr => ?_⟩
  · cases k <;> decide
  · cases k <;> decide
  · cases r <;> rfl
  refine ⟨fun hf => h.refused hr ?_, fun hf => ⟨fun hp hl => h.refused hr ?_, fun hl => ⟨fun p hlp hb => h.refused hr ?_,
    fun who hwho => ⟨fun ht hpass => h.refused hr ?_, fun ht hpass => ?_, fun hready => ?_⟩⟩⟩⟩
  · rw [State.checkRequest_code, hf]
    rfl
  · rw [State.checkRequest_code, hf, hp, decide_eq_true hl]
    rfl
  · subst hlp
    have hnone : (s.holding (.split p) (k.code :: tag :: fields)).boundRequester (.split p) = none := if_neg hb
    rw [State.checkRequest_code, hf, hl.resolve_right nofun, hnone]
    rfl
  · have hsome : (s.holding l (k.code :: tag :: fields)).boundRequester l = some who := by rw [← hwho]; rfl
    have hpanel : (k.panelOnly && decide (l ≠ .panel)) = false := by
      rcases hl with hp | hp <;> simp [hp]
    have hstart : (k.touchesInput && decide ((s.holding l (k.code :: tag :: fields)).bus.pass = .starting)) = true := by
      rw [ht]
      exact decide_eq_true hpass
    rw [State.checkRequest_code, hf, hpanel, hsome]
    dsimp only
    rw [hstart]
    rfl
  · have hs : s.serves l k who := ⟨h, hwho, fun hp => hl.resolve_left (by rw [hp]; nofun), fun _ => hpass⟩
    refine ⟨fun b rest hfields hb => ?_, fun hk hb => ?_⟩
    · subst hfields
      exact hs.refused hf (State.runRequest_badInput ht hf hb l tag who)
    · subst hk
      refine hs.refused hf fun u => ?_
      rw [State.runRequest, State.runMap, mapInputs_none _ hb]
  · have hs : s.serves l k who := ⟨h, hwho, fun hp => hl.resolve_left (by rw [hp]; nofun), hready⟩
    refine ⟨fun i v hk hfields h0 h1 => hs.refused hf fun u => ?_, fun b v hk hfields => hs.refused hf fun u => ?_,
      fun b hk hfields => hs.refused hf fun u => ?_⟩
    · subst hfields
      rcases hk with rfl | rfl | rfl | rfl <;>
        simp [State.runRequest, State.runMute, State.runPad, State.runPhantom, State.runLock, State.withSwitch_bad h0 h1]
    · subst hfields
      rcases hk with ⟨rfl, hb⟩ | ⟨rfl, hb⟩ | ⟨rfl | rfl, h0, h1⟩
      · rw [State.runRequest, State.runQueryLink, portOf_none b hb]
      · rw [State.runRequest, State.runQueryLane, laneOf_none b hb]
      · rw [State.runRequest, State.runQueryLink]
        cases portOf b with
        | none => rfl
        | some p => exact State.withSwitch_bad h0 h1 ..
      · rw [State.runRequest, State.runQueryLane]
        cases laneOf b with
        | none => rfl
        | some n => exact State.withSwitch_bad h0 h1 ..
    · subst hfields
      rcases hk with ⟨rfl, hb⟩ | ⟨rfl, h48, h96⟩ | ⟨rfl, hb⟩
      · exact if_neg (by omega)
      · rw [State.runRequest, State.runSetRate, show rateOf b = none by rw [rateOf, if_neg h48, if_neg h96]]
      · rw [State.runRequest, State.runResetPort, portOf_none b hb]

/-! ## Records out of place -/

theorem kindUnknown_iff (l : LaneId) (kind : Byte) : kindUnknown l kind = true ↔
    (∀ k : RequestKind, kind ≠ k.code) ∧ (l ≠ .panel → kind ≠ 0x01#8 ∧ kind ≠ 0x02#8) := by
  have hkind : (kindOf kind).isNone = true ↔ ∀ k : RequestKind, kind ≠ k.code := by
    rw [Option.isNone_iff_eq_none, kindOf, List.find?_eq_none]
    refine ⟨fun h k hk => h k (by cases k <;> decide) (by simp [hk]), fun h k _ hk => h k (eq_of_beq hk).symm⟩
  unfold kindUnknown
  rw [Bool.and_eq_true, hkind]
  cases l <;> simp [offerKind, confirmKind]

/-- What a lane does with a record that it takes at once and whose handling is known (R158). -/
theorem bringsRecord.exec_taken {c : Instr} {l : LaneId} {kind tag : Byte} {fields : List Byte} {s t : State}
    (hc : bringsRecord c l kind tag fields) (h : s.takesAtOnce l)
    (ht : (s.holding l (kind :: tag :: fields)).takeRecord l kind tag fields = t) : exec c s = .next (t.hunting l) :=
  (hc.exec_eq s).trans (congrArg Host.Outcome.next (State.deliver_eq l kind tag fields s t h ht))

/-- A record that a lane takes at once and answers, and no more (R166). -/
theorem bringsRecord.answered {c : Instr} {l : LaneId} {kind tag : Byte} {fields : List Byte} {s : State}
    (hc : bringsRecord c l kind tag fields) (h : s.takesAtOnce l) {code : Byte} {r : ResultCode}
    (ht : (s.holding l (kind :: tag :: fields)).takeRecord l kind tag fields =
      (s.holding l (kind :: tag :: fields)).reply l tag code r []) :
    exec c s = .next (s.answered l (replyBody tag code r [])) :=
  (hc.exec_taken h ht).trans (congrArg Host.Outcome.next (State.holding_reply ..))

/-- A record that a lane takes at once and discards (R141). -/
theorem bringsRecord.ignored {c : Instr} {p : Port} {kind tag : Byte} {fields : List Byte} {s : State}
    (hc : bringsRecord c (.split p) kind tag fields) (h : s.takesAtOnce (.split p))
    (ht : (s.holding (.split p) (kind :: tag :: fields)).takeRecord (.split p) kind tag fields =
      (s.holding (.split p) (kind :: tag :: fields)).ignore (.split p)) :
    exec c s = .next { s with
      rx := s.rx.modify p.succ fun r =>
        { r with framer := .hunt, counters := { r.counters with ignored := min 65535 (r.counters.ignored + 1) } } } := by
  refine (hc.exec_taken h ht).trans (congrArg Host.Outcome.next ?_)
  simp [State.ignore, State.holding, State.hunting, State.modRx, Tab.modify_modify, countUp, Config.counterTop, LaneId.idx]

theorem State.checkRequest_unknown {kind : Byte} (h : ∀ k : RequestKind, kind ≠ k.code) (l : LaneId) (tag : Byte)
    (fields : List Byte) (u : State) : u.checkRequest l kind tag fields = u.reply l tag kind .unknown [] := by
  have hkind : kindOf kind = none := by
    rw [kindOf, List.find?_eq_none]
    exact fun k _ hk => h k (eq_of_beq hk).symm
  rw [State.checkRequest, hkind]

section
variable {u : State} {p : Port} {kind tag : Byte} {fields : List Byte}

/-- What a split lane whose port exchanges nothing does with a record (R141). -/
theorem State.takeRecord_idle (h : (u.ports.get p).state = .down ∨ (u.ports.get p).state = .hold ∨ (u.ports.get p).state = .fault) :
    u.takeRecord (.split p) kind tag fields = u.ignore (.split p) := by
  rcases h with h | h | h <;> rw [State.takeRecord, State.takeOnSplit, h]

/-- What a split lane does with an OFFER (R141). -/
theorem State.takeRecord_offer
    (h : (u.ports.get p).state = .offer ∨ (u.ports.get p).state = .confirm ∨ (u.ports.get p).state = .bound) :
    u.takeRecord (.split p) 0x01#8 tag fields = u.takeOffer p tag fields := by
  rcases h with h | h | h <;> rw [State.takeRecord, State.takeOnSplit, h] <;> rfl

/-- What a split lane in CONFIRM does with a CONFIRM (R138). -/
theorem State.takeRecord_confirm (h : (u.ports.get p).state = .confirm) :
    u.takeRecord (.split p) 0x02#8 tag fields = u.takeConfirm p tag fields := by
  rw [State.takeRecord, State.takeOnSplit, h]
  rfl

/-- A CONFIRM out of place (R141). -/
theorem State.takeRecord_strayConfirm (h : (u.ports.get p).state = .offer ∨ (u.ports.get p).state = .bound) :
    u.takeRecord (.split p) 0x02#8 tag fields = u.ignore (.split p) := by
  rcases h with h | h <;> rw [State.takeRecord, State.takeOnSplit, h] <;> rfl

end

theorem bringsRecord.offer (l : LaneId) (tag : Byte) (fields : List Byte) :
    bringsRecord (.offer l tag fields) l 0x01#8 tag fields := .inl ⟨rfl, rfl⟩

theorem bringsRecord.confirm (l : LaneId) (tag : Byte) (fields : List Byte) :
    bringsRecord (.confirm l tag fields) l 0x02#8 tag fields := .inr (.inl ⟨rfl, rfl⟩)

theorem bringsRecord.unknownKind (l : LaneId) (kind tag : Byte) (fields : List Byte) :
    bringsRecord (.unknownKind l kind tag fields) l kind tag fields := .inr (.inr (.inl rfl))

theorem bringsRecord.request (k : RequestKind) (l : LaneId) (tag : Byte) (fields : List Byte) :
    bringsRecord (k.request l tag fields) l k.code tag fields := .inr (.inr (.inr ⟨k, rfl, rfl⟩))

/-- Settles O32. -/
theorem unknownKindsAreAnsweredOrIgnored : Obligations.UnknownKindsAreAnsweredOrIgnored := by
  refine ⟨fun p kind tag fields k s hd hp ha => ?_, kindUnknown_iff, fun l kind tag fields s h => ?_⟩
  · have hdeaf : s.deaf (.split p) = true := (s.deaf_iff p).mpr ⟨hd, hp, ha⟩
    have hnothing {c : Instr} {kind : Byte} (hc : bringsRecord c (.split p) kind tag fields) : exec c s = .next s := by
      rw [hc.exec_eq, State.deliver, if_pos hdeaf]
    exact ⟨hdeaf, hnothing (.unknownKind ..), hnothing (.offer ..), hnothing (.confirm ..), hnothing (.request k ..)⟩
  · refine ⟨fun hk hr => ?_, fun hl => ?_, fun p hl => ?_⟩
    · refine (bringsRecord.unknownKind ..).answered h ?_
      rw [State.takeRecord_checks _ _ _ _ _ (by cases l <;> exact hr)]
      exact State.checkRequest_unknown ((kindUnknown_iff l kind).mp hk).1 ..
    · subst hl
      exact ⟨(bringsRecord.offer ..).answered h (State.checkRequest_unknown (fun k => k.code_ne_offer.symm) .panel tag fields _),
        (bringsRecord.confirm ..).answered h (State.checkRequest_unknown (fun k => k.code_ne_confirm.symm) .panel tag fields _)⟩
    · subst hl
      refine ⟨fun hst => ⟨(bringsRecord.unknownKind ..).ignored h (State.takeRecord_idle hst),
          (bringsRecord.offer ..).ignored h (State.takeRecord_idle hst),
          (bringsRecord.confirm ..).ignored h (State.takeRecord_idle hst),
          fun k => (bringsRecord.request k ..).ignored h (State.takeRecord_idle hst)⟩,
        fun hst => (bringsRecord.confirm ..).ignored h (State.takeRecord_strayConfirm hst),
        fun hst hparse => (bringsRecord.offer ..).answered h ?_, fun hst hparse => (bringsRecord.confirm ..).answered h ?_⟩
      · rw [State.takeRecord_offer (by exact hst), State.takeOffer, hparse]
        rfl
      · rw [State.takeRecord_confirm (by exact hst), State.takeConfirm, hparse]
        rfl

/-! ## The codings of the fields -/

theorem be16_eq (n : Nat) : be16 n = [(BitVec.ofNat 16 n).extractLsb' 8 8, (BitVec.ofNat 16 n).extractLsb' 0 8] := by
  have hhigh : BitVec.ofNat 8 (n / 256) = (BitVec.ofNat 16 n).extractLsb' 8 8 := by
    apply BitVec.eq_of_toNat_eq
    simp only [BitVec.toNat_ofNat, BitVec.extractLsb'_toNat, Nat.shiftRight_eq_div_pow]
    omega
  have hlow : BitVec.ofNat 8 n = (BitVec.ofNat 16 n).extractLsb' 0 8 := by
    apply BitVec.eq_of_toNat_eq
    simp only [BitVec.toNat_ofNat, BitVec.extractLsb'_toNat, Nat.shiftRight_eq_div_pow]
    omega
  rw [be16, hhigh, hlow]

theorem beInt16_eq (x : Int) :
    beInt16 x = [(BitVec.ofInt 16 x).extractLsb' 8 8, (BitVec.ofInt 16 x).extractLsb' 0 8] := by
  rw [beInt16, be16_eq, BitVec.ofNat_toNat, BitVec.setWidth_eq]

@[simp] theorem be16_length (n : Nat) : (be16 n).length = 2 := rfl
@[simp] theorem beInt16_length (x : Int) : (beInt16 x).length = 2 := rfl
@[simp] theorem be32_length (v : BitVec 32) : (be32 v).length = 4 := rfl

theorem Pair.deficit_eq (q : Pair) (a : Int) : q.deficit a = q.level.map fun x => x - a - q.trim := by
  unfold Pair.deficit
  cases q.level <;> rfl

/-- QUERY_INPUT (R16, R168). -/
theorem State.serves.exec_queryInput {s : State} {l : LaneId} {who : Party} (h : s.serves l .queryInput who) (tag : Byte)
    (i : Input) : exec (.queryInput l tag [inputByte i]) s = .next
      { s.answered l (replyBody tag 0x20#8 .ok (inputByte i :: s.stateBlock who i)) with
        pairs := s.pairs.modify who i fun q => { q with sat := 0 } } :=
  h.exec_do (f := State.doQueryInput l tag who i) rfl (fun u => by simp [State.runRequest, State.runQueryInput])
    fun _ _ => by simp

/-- Settles O41. -/
theorem queryInputReportsAndClears : Obligations.QueryInputReportsAndClears := by
  refine ⟨⟨fun n x y v i p => ⟨be16_eq n, beInt16_eq x, ?_, rfl, rfl, rfl, rfl, rfl, ?_⟩, fun a n => rfl, rfl, rfl, rfl, rfl,
    rfl, rfl, rfl⟩, fun s k => ⟨rfl, rfl, fun c hc => ?_, fun hc => ?_⟩, fun who i q s hq => ?_⟩
  · rw [beLevel, beInt16_eq]
    cases y <;> rfl
  · simp [laneByte, byteOf, LaneId.idx]
  · rw [State.ownerCode, State.identityOf, hc]
  · rw [State.ownerCode, State.identityOf, hc]
    rfl
  · intro m o place block
    have hblock : s.stateBlock who i = block := by
      rw [State.stateBlock, hq]
      simp only [pairBlock, Pair.deficit_eq, block, switchByte]
      simp only [List.append_assoc]
      rfl
    refine ⟨by simp [block, beLevel_length], hblock, fun l tag h => ?_⟩
    rw [h.exec_queryInput, hblock]

/-! ## The other queries -/

/-- Bits read as a number, the first the lowest. -/
theorem foldr_bits (xs : List Bool) : xs.foldr (fun b acc => 2 * acc + (if b then 1 else 0)) 0 =
    ((List.finRange xs.length).map fun k => if xs[k] then 2 ^ k.val else 0).sum := by
  induction xs with
  | nil => rfl
  | cons x xs ih =>
    have hdouble : ∀ k : Fin xs.length, (if xs[k] then 2 ^ (k.val + 1) else 0) = 2 * (if xs[k] then 2 ^ k.val else 0) := by
      intro k
      split <;> omega
    rw [List.foldr_cons, ih, show List.finRange (x :: xs).length = _ from List.finRange_succ, List.map_cons, List.sum_cons,
      List.map_map]
    simp only [Function.comp_def, Fin.getElem_fin, Fin.val_succ, List.getElem_cons_succ, Fin.val_zero,
      List.getElem_cons_zero, pow_zero]
    simp only [Fin.getElem_fin] at hdouble
    simp only [hdouble, List.sum_map_mul_left]
    omega

/-- A set of marks as the sum of its members' bits. -/
theorem marksValue_eq {n : Nat} (t : Tab n Bool) :
    marksValue t = ((List.finRange n).map fun k => if t.get k then 2 ^ k.val else 0).sum := by
  obtain ⟨cells, rfl⟩ := t
  exact foldr_bits cells

theorem State.serves.exec_queryLink {s : State} {l : LaneId} {who : Party} (h : s.serves l .queryLink who) (tag : Byte)
    (p : Port) (clear : Bool) : exec (.queryLink l tag [portByte p, if clear then 1#8 else 0#8]) s =
      .next ((s.doQueryLink l tag p clear).hunting l) :=
  h.exec_do (f := State.doQueryLink l tag p clear) rfl (fun u => by simp [State.runRequest, State.runQueryLink])
    fun _ _ => by simp

/-- The payload of QUERY_LINK's reply (R145, R170). -/
theorem linkPayload_eq (p : Port) (q : LinkPort) : linkPayload p q =
    [portByte p, q.state.code, byteOf (marksValue q.history)] ++ be16 (marksValue q.flags) ++
      (match q.state, q.page, q.resolved with
       | .confirm, some pg, some r => be32 pg.identity ++ [r.format.code, byteOf r.slots, r.role.code]
       | .bound, some pg, some r => be32 pg.identity ++ [r.format.code, byteOf r.slots, r.role.code]
       | _, _, _ => be32 0xFFFFFFFF#32 ++ [0xFF#8, 0#8, 0#8]) := by
  unfold linkPayload
  cases q.state <;> cases q.page <;> cases q.resolved <;> rfl

/-- The payload of QUERY_CONSUMER's reply (R38, R169). -/
theorem State.serves.exec_queryConsumer {s : State} (h : s.takesAtOnce .panel) (tag : Byte) {index : Byte}
    (hi : index.toNat ≤ 6) : exec (.queryConsumer .panel tag [index]) s =
      .next (s.answered .panel (replyBody tag 0x23#8 .ok (s.consumerPayload index))) :=
  (h.serves_panel (k := .queryConsumer) rfl).exec_do (f := State.doQueryConsumer .panel tag index) rfl (fun _ => if_pos hi)
    fun _ _ => by simp

theorem State.keepLeft_code (s : State) (c : Consumer) : byteOf (s.keepLeft c) = match c.presence with
    | .present => 0#8
    | .keeping since _ => BitVec.ofNat 8 (max 1 ((120000000 - (s.clock - since) + 1199999) / 1200000)) := by
  unfold State.keepLeft
  cases c.presence with
  | present => rfl
  | keeping since n =>
    have hunit : Config.keepReportUnit = 1200000 := by decide
    have htime : Config.keepTime = 120000000 := by decide
    have hround : ∀ d : Nat, d + 1200000 - 1 = d + 1199999 := fun d => by omega
    simp only [hunit, htime, hround, byteOf]

theorem State.consumerPayload_seat (s : State) (k : Seat) : s.consumerPayload (byteOf (k.val + 1)) =
    match s.entries.get k with
    | none => [byteOf (k.val + 1)] ++ be32 noIdentity ++ [0#8, 0#8, 0#8, 0#8, 0#8, noFormat, 0#8, 0#8, 0#8]
    | some c =>
      [byteOf (k.val + 1)] ++ be32 c.identity ++ [if c.presence.isKeeping then 2#8 else 1#8, c.role.code,
        match c.ports[0]? with
        | some p => portByte p
        | none => 0#8,
        match c.ports[1]? with
        | some p => portByte p
        | none => 0#8,
        byteOf (s.keepLeft c), c.format.code, byteOf c.slots, byteOf c.map.length, byteOf c.name.length] ++ c.name := by
  have hval : (byteOf (k.val + 1)).toNat = k.val + 1 := byteOf_toNat _ (by omega)
  have hne : byteOf (k.val + 1) ≠ 0#8 := fun h => by simp [h] at hval
  rw [State.consumerPayload, if_neg hne, show portOf (byteOf (k.val + 1)) = some k from portOf_portByte k] <;> rfl

/-- A port whose sets a clear flag may clear (R145). -/
theorem State.modPort_cleared (p : Port) (clear : Bool) (u : State) :
    u.modPort p (fun q => if clear then q.clearSets else q) = { u with
      ports := if clear then
          u.ports.set p { u.ports.get p with
            history := (Tab.const 6 false).set (u.ports.get p).state.bit true, flags := Tab.const 12 false }
        else u.ports } := by
  cases clear
  · simp [State.modPort, Tab.modify]
  · rfl

theorem State.serves.exec_queryLane {s : State} {l : LaneId} {who : Party} (h : s.serves l .queryLane who) (tag : Byte)
    (n : LaneId) (clear : Bool) : exec (.queryLane l tag [laneByte n, if clear then 1#8 else 0#8]) s =
      .next (((s.holding l (0x22#8 :: tag :: [laneByte n, if clear then 1#8 else 0#8])).doQueryLane l tag n clear).hunting l) := by
  refine (h.exec_eq tag _ rfl).trans (congrArg Host.Outcome.next ?_)
  simp [State.runRequest, State.runQueryLane, RequestKind.code]

/-- The counters of a lane that are cleared, or not, while its record is being taken. -/
theorem State.counters_hunting (l n : LaneId) (body : List Byte) (f : Counters → Counters) (u : State) :
    (((u.holding l body).modRx n fun r => { r with counters := f r.counters }).hunting l) =
      { u with rx := (u.hunting l).rx.modify n.idx fun r => { r with counters := f r.counters } } := by
  refine congrArg (fun t => { u with rx := t }) (Tab.ext_get fun m => ?_)
  simp only [State.holding, State.hunting, State.modRx, Tab.get_modify]
  by_cases hl : m = l.idx
  · subst hl
    by_cases hn : l.idx = n.idx <;> simp [hn]
  · simp only [if_neg hl]

/-- Settles O42. -/
theorem queriesReportAndClear : Obligations.QueriesReportAndClear := by
  refine ⟨fun states flags => ⟨marksValue_eq _, marksValue_eq _⟩, rfl, rfl, fun l tag who p clear s h => ?_,
    fun l tag who n clear s h => ?_, fun tag s h => ?_⟩
  · refine ⟨fun hp hl => (h.exec_queryLink tag p clear).trans (congrArg Host.Outcome.next ?_),
      fun hl => (h.exec_queryLink tag p clear).trans (congrArg Host.Outcome.next ?_)⟩
    · rw [State.doQueryLink, if_neg (not_or.mpr ⟨hp, hl⟩)]
      rfl
    · rw [State.doQueryLink, if_pos hl, linkPayload_eq, State.modPort_cleared]
      rfl
  · refine ⟨fun hp hl => (h.exec_queryLane tag n clear).trans (congrArg Host.Outcome.next ?_),
      fun hl => (h.exec_queryLane tag n clear).trans (congrArg Host.Outcome.next ?_)⟩
    · rw [State.doQueryLane, if_neg (not_or.mpr ⟨hp, hl⟩)]
      exact State.holding_reply ..
    · have hcounters : ((s.holding l (0x22#8 :: tag :: [laneByte n, if clear then 1#8 else 0#8])).rx.get n.idx).counters =
          (s.rx.get n.idx).counters := by
        simp only [State.holding, State.modRx, Tab.get_modify]
        split <;> rfl
      rw [State.doQueryLane, if_pos hl, hcounters]
      cases clear
      · exact State.counters_hunting l n _ id (s.reply l tag RequestKind.queryLane.code .ok _)
      · exact State.counters_hunting l n _ (fun _ => Counters.zero) (s.reply l tag RequestKind.queryLane.code .ok _)
  · refine ⟨State.serves.exec_queryConsumer h tag (by decide), fun k => ?_⟩
    have hk := State.serves.exec_queryConsumer h tag (index := byteOf (k.val + 1)) (by rw [byteOf_toNat] <;> omega)
    rw [State.consumerPayload_seat] at hk
    refine ⟨fun hnone => ?_, fun c hsome => ?_⟩
    · rw [hnone] at hk
      exact hk
    · rw [hsome] at hk
      dsimp only at hk
      rw [State.keepLeft_code] at hk
      exact hk

/-! ## RESET_PORT -/

theorem State.serves.exec_resetPort {s : State} (h : s.serves .panel .resetPort .panel) (tag : Byte) (p : Port) :
    exec (.resetPort .panel tag [portByte p]) s =
      .next (((s.holding .panel (0x34#8 :: tag :: [portByte p])).doResetPort .panel tag p).hunting .panel) := by
  refine (h.exec_eq tag _ rfl).trans (congrArg Host.Outcome.next ?_)
  simp [State.runRequest, State.runResetPort, RequestKind.code]

/-- The receiving sides after a reset of a port, whose request lane P's framer held meanwhile (R146). -/
theorem rx_reset (rx : Tab 7 RxSide) (p : Port) (body : List Byte) :
    (((rx.modify 0 fun r => { r with framer := .held body }).modify p.succ RxSide.flushed).modify p.succ fun r =>
        { r with counters := Counters.zero }).modify 0 (fun r => { r with framer := .hunt }) =
      (rx.modify 0 fun r => { r with framer := .hunt }).set p.succ
        { queue := [], overrunPending := false, gapRef := none, framer := .hunt, counters := Counters.zero } := by
  have h0 : (0 : Fin 7) ≠ p.succ := (Fin.succ_ne_zero p).symm
  refine Tab.ext_get fun m => ?_
  simp only [Tab.get_modify, Tab.get_set]
  by_cases hp : m = p.succ
  · subst hp
    simp [RxSide.flushed]
  · by_cases hm : m = 0
    · simp [hm, h0]
    · simp [hm, hp]

/-- Settles O45. -/
theorem resetPortHoldsAndClears : Obligations.ResetPortHoldsAndClears := by
  intro tag p s h cleared
  let u := (s.holding .panel (0x34#8 :: tag :: [portByte p])).reply .panel tag RequestKind.resetPort.code .ok []
  refine ⟨fun hready => ⟨_, h.exec_resetPort tag p, ?_⟩, fun hstart => (h.exec_resetPort tag p).trans (congrArg Host.Outcome.next ?_)⟩
  · obtain ⟨hports, hrx, hcomm, hleft, hframe⟩ := State.enterHold_entered p noFlags u.nextStamp u u.nextStamp_later
    have hdo : (s.holding .panel (0x34#8 :: tag :: [portByte p])).doResetPort .panel tag p =
        ((u.enterHold p noFlags u.nextStamp).modRx (.split p) fun r => { r with counters := Counters.zero }).modPort p
          LinkPort.clearSets := by
      rw [State.doResetPort, show (s.holding _ _).bus.pass = .ready from hready]
    rw [hdo]
    generalize u.enterHold p noFlags u.nextStamp = v at hports hrx hcomm hleft hframe
    refine ⟨?_, ?_, ?_, ?_, ?_⟩
    · show v.ports.modify p LinkPort.clearSets = _
      rw [hports]
      simp [Tab.modify, LinkPort.clearSets, cleared, historyOnly, noFlags]
      rfl
    · show ((v.rx.modify p.succ fun r => { r with counters := Counters.zero }).modify 0 fun r => { r with framer := .hunt }) = _
      rw [hrx]
      exact rx_reset s.rx p _
    · exact hcomm
    · exact (hleft.congr_left rfl rfl rfl rfl rfl).congr_right rfl rfl rfl
    · show State.hunting (State.modPort p LinkPort.clearSets (State.modRx (.split p) _ v)) .panel = _
      rw [hframe]
      rfl
  · have hdo : (s.holding .panel (0x34#8 :: tag :: [portByte p])).doResetPort .panel tag p =
        ((u.flushLane (.split p)).modRx (.split p) fun r => { r with counters := Counters.zero }).modPort p
          LinkPort.clearSets := by
      rw [State.doResetPort, show (s.holding _ _).bus.pass = .starting from hstart]
    rw [hdo]
    have hrx := rx_reset s.rx p (0x34#8 :: tag :: [portByte p])
    have htx : ((s.comm.queueFrame .panel (replyBody tag 0x34#8 .ok [])).tx.modify p.succ fun t => { t with queue := [] }) =
        (s.comm.queueFrame .panel (replyBody tag 0x34#8 .ok [])).tx.set p.succ
          { s.comm.tx.get p.succ with queue := [] } := by
      simp [Tab.modify, Comm.queueFrame, Tab.get_set, LaneId.idx]
    refine Eq.trans ?_ (congrArg₂ (fun rx tx => { s with
      rx := rx
      comm := { s.comm.queueFrame .panel (replyBody tag 0x34#8 .ok []) with tx := tx }
      ports := s.ports.set p (cleared (s.ports.get p).state (s.ports.get p)) }) hrx htx)
    rfl

end Sys2Proof.Machine
end

section
/-! PROOF. Bring-up: OFFER and CONFIRM on a split lane (O27 to O30). -/

namespace Sys2Proof.Machine

/-! ## The checks of an OFFER -/

theorem State.liveNonce_iff (s : State) (nonce : BitVec 32) : s.liveNonce nonce = true ↔
    ∃ p, ((s.ports.get p).state = .offer ∨ (s.ports.get p).state = .confirm) ∧ (s.ports.get p).nonce = some nonce := by
  simp [State.liveNonce, allPorts, List.any_eq_true]

/-- The first of the formats in the part's order of choice (R137). -/
theorem resolveFormat_eq (formats : Byte) : resolveFormat formats =
    if (formats.getLsbD 0 || formats.getLsbD 1 || formats.getLsbD 2 || formats.getLsbD 3) = true then
      some (if formats.getLsbD 1 then .w32m else if formats.getLsbD 2 then .w32l
        else if formats.getLsbD 3 then .x32m else .p24)
    else none := by
  simp only [resolveFormat, List.find?, Format.bit]
  cases formats.getLsbD 1 <;> cases formats.getLsbD 2 <;> cases formats.getLsbD 3 <;> cases formats.getLsbD 0 <;> rfl

theorem partnerRole_some {b : Byte} {role : Role} (h : (b = 1#8 ∧ role = .claimant) ∨ (b = 2#8 ∧ role = .listener)) :
    partnerRole b = some role := by
  rcases h with ⟨rfl, rfl⟩ | ⟨rfl, rfl⟩ <;> rfl

/-- R135's last check: what the consumer table makes of the values that an OFFER resolves to. -/
def State.tableCheck (s : State) (o : PartnerOffer) (r : Resolved) : Except Reason Resolved :=
  match seatNamed s.entries o.identity with
  | none => .ok r
  | some k => match s.entries.get k with
    | none => .ok r
    | some c =>
      if c.presence.isKeeping then .ok r
      else match s.twinTest c o.twin r.format r.slots r.role with
        | none => .ok r
        | some why => .error why

section
variable {s : State} {o : PartnerOffer}

/-- The checks that follow the first two (R135). -/
theorem State.resolve_role {role : Role} (hlive : ¬∃ p, ((s.ports.get p).state = .offer ∨ (s.ports.get p).state = .confirm) ∧
    (s.ports.get p).nonce = some o.nonce) (hrole : partnerRole o.role = some role) : s.resolve o =
    if o.identity = 0#32 ∨ o.identity = noIdentity then .error .identity
    else if !o.rates.getLsbD s.rate.bit then .error .rate
    else match resolveFormat o.formats with
    | none => .error .format
    | some format =>
      if o.maxChannels = 0#8 then .error .format
      else s.tableCheck o { format := format, slots := min o.maxChannels.toNat s.rate.capacity, role := role } := by
  rw [State.resolve, if_neg (by rwa [State.liveNonce_iff]), hrole] <;> rfl

/-- An identity that no PRESENT consumer has passes the table (R135). -/
theorem State.tableCheck_absent (h : ∀ k c, s.entries.get k = some c → c.identity = o.identity → c.presence.isKeeping = true)
    (r : Resolved) : s.tableCheck o r = .ok r := by
  unfold State.tableCheck
  split
  · rfl
  · rename_i k hk
    obtain ⟨c, hc, hid⟩ := seatNamed_get hk
    rw [hc]
    exact if_pos (h k c hc hid)

/-- A PRESENT consumer of the identity takes only a second port that its twin test lets pass (R27, R135). -/
theorem State.tableCheck_present {k : Seat} {c : Consumer} (hk : seatNamed s.entries o.identity = some k)
    (hc : s.entries.get k = some c) (hp : c.presence.isKeeping = false) (r : Resolved) :
    s.tableCheck o r = match s.twinTest c o.twin r.format r.slots r.role with
      | none => .ok r
      | some why => .error why := by
  rw [State.tableCheck, hk]
  dsimp only
  rw [hc]
  dsimp only
  rw [if_neg (by simp [hp])]

/-- The twin test of a consumer with one port (R27). -/
theorem State.twinTest_one {c : Consumer} {first : Port} {pg : Page} (hports : c.ports = [first])
    (hpage : (s.ports.get first).page = some pg) (twin : Bool) (format : Format) (slots : Nat) (role : Role) :
    s.twinTest c twin format slots role =
      if (twin && pg.twin) = false then some .duplicate
      else if format = c.format ∧ slots = c.slots ∧ role = c.role then none else some .twinMismatch := by
  rw [State.twinTest, hports]
  dsimp only
  rw [hpage]
  dsimp only
  cases twin && pg.twin <;> rfl

/-- A consumer with two ports takes no third (R27). -/
theorem State.twinTest_two {c : Consumer} (hports : 2 ≤ c.ports.length) (twin : Bool) (format : Format) (slots : Nat)
    (role : Role) : s.twinTest c twin format slots role = some .duplicate := by
  rw [State.twinTest]
  split
  · rename_i h
    rw [h, List.length_singleton] at hports
    omega
  · rfl
  · rfl

end

/-- Settles O27. -/
theorem offerChecksInOrder : Obligations.OfferChecksInOrder := by
  intro o s live
  refine ⟨fun hlive => ?_, fun hlive h1 h2 => ?_, fun role hlive hrole => ?_⟩
  · rw [State.resolve, if_pos ((s.liveNonce_iff _).mpr hlive)]
  · rw [State.resolve, if_neg (by rwa [State.liveNonce_iff]), partnerRole, if_neg h1, if_neg h2]
  have hresolve := State.resolve_role hlive (partnerRole_some hrole)
  refine ⟨fun hid => hresolve.trans (if_pos hid), fun h0 hno => ?_⟩
  replace hresolve := hresolve.trans (if_neg (not_or.mpr ⟨h0, hno⟩))
  refine ⟨fun hrate => hresolve.trans (if_pos ?_), fun hrate => ?_⟩
  · rw [show o.rates.getLsbD s.rate.bit = false from hrate]
    rfl
  replace hresolve := hresolve.trans (if_neg (by rw [show o.rates.getLsbD s.rate.bit = true from hrate]; decide))
  refine ⟨fun hno => ?_, fun format hchans hformat hsome => ?_⟩
  · rw [hresolve, resolveFormat_eq]
    rcases hno with hno | hno
    · rw [if_neg (by rw [hno]; decide)]
    · split
      · rfl
      · exact if_pos hno
  intro r
  have htable : s.resolve o = s.tableCheck o r := by
    rw [hresolve, resolveFormat_eq, if_pos hsome, ← hformat]
    exact if_neg hchans
  refine ⟨fun habs => htable.trans (State.tableCheck_absent habs r), fun k c hk hc hp => ?_⟩
  rw [State.tableCheck_present hk hc hp] at htable
  refine ⟨fun first hports pg hpage => ?_, fun hports => ?_⟩
  · rw [State.twinTest_one hports hpage] at htable
    refine ⟨fun ht => ?_, fun ht => ?_⟩
    · rw [if_pos ht] at htable
      exact htable
    · rw [if_neg (by simp [ht])] at htable
      rw [htable]
      by_cases hsame : format = c.format ∧ r.slots = c.slots ∧ role = c.role
      · rw [if_pos hsame, if_pos hsame]
      · rw [if_neg hsame, if_neg hsame]
  · rw [State.twinTest_two hports] at htable
    exact htable

/-! ## The bring-up records -/

theorem be32_port (p : Port) : be32 (BitVec.ofNat 32 (p.val + 1)) = [0#8, 0#8, 0#8, BitVec.ofNat 8 (p.val + 1)] := by
  revert p
  decide

theorem parseConfirm_iff (fields : List Byte) (c : PartnerConfirm) : parseConfirm fields = some c ↔
    fields = be32 c.nonce ++ [c.format, c.slots, c.role] := by
  constructor
  · intro h
    unfold parseConfirm at h
    split at h
    · rename_i n3 n2 n1 n0 format slots role
      obtain rfl := Option.some.inj h
      obtain ⟨h3, h2, h1, h0⟩ := bytes_u32 n3 n2 n1 n0
      simp [be32, h3, h2, h1, h0]
    · cases h
  · rintro rfl
    simp [be32, parseConfirm, u32_bytes]

theorem parseOffer_iff (fields : List Byte) (o : PartnerOffer) : parseOffer fields = some o ↔
    o.name.length ≤ 16 ∧ ∃ flags : Byte, o.twin = flags.getLsbD 0 ∧
      fields = be32 o.nonce ++ be32 o.identity ++ [o.role, o.rates, o.formats, o.maxChannels, flags,
        BitVec.ofNat 8 o.name.length] ++ o.name := by
  constructor
  · intro h
    unfold parseOffer at h
    split at h
    · rename_i n3 n2 n1 n0 i3 i2 i1 i0 role rates formats chans flags len name
      split at h
      · rename_i hlen
        obtain rfl := Option.some.inj h
        obtain ⟨h3, h2, h1, h0⟩ := bytes_u32 n3 n2 n1 n0
        obtain ⟨g3, g2, g1, g0⟩ := bytes_u32 i3 i2 i1 i0
        refine ⟨by dsimp only; omega, flags, rfl, ?_⟩
        simp [be32, h3, h2, h1, h0, g3, g2, g1, g0, hlen.1]
      · cases h
    · cases h
  · rintro ⟨hlen, flags, htwin, rfl⟩
    have hname : (BitVec.ofNat 8 o.name.length).toNat = o.name.length := byteOf_toNat _ (by omega)
    cases o
    subst htwin
    simp [be32, parseOffer, u32_bytes, hname, hlen]

/-! ## What becomes of an OFFER -/

/-- A bring-up record that is taken does to the state in which it has left the framer what `f` does, where `f` does not look
at the framers. -/
theorem State.takesAtOnce.exec_taken_do {s : State} {l : LaneId} {c : Instr} {kind tag : Byte} {fields : List Byte}
    (h : s.takesAtOnce l) (hc : bringsRecord c l kind tag fields) (f : State → State)
    (hmap : ∀ g u, f (u.mapRx g) = (f u).mapRx g)
    (htake : (s.holding l (kind :: tag :: fields)).takeRecord l kind tag fields =
      f (s.holding l (kind :: tag :: fields))) :
    exec c s = .next ((f s).hunting l) := by
  refine (hc.exec_taken h htake).trans (congrArg Host.Outcome.next ?_)
  exact (congrArg (State.hunting · l) (hmap _ s)).trans (State.hunting_mapRx l _ _)

/-- An OFFER taken in OFFER or CONFIRM is resolved there (R135, R139). -/
theorem State.takesAtOnce.exec_offer {s : State} {p : Port} (h : s.takesAtOnce (.split p)) {fields : List Byte}
    {o : PartnerOffer} (hst : (s.ports.get p).state = .offer ∨ (s.ports.get p).state = .confirm)
    (hparse : parseOffer fields = some o) (tag : Byte) :
    exec (.offer (.split p) tag fields) s = .next ((s.resolveOffer p tag o).hunting (.split p)) := by
  have hnot : (s.ports.get p).state ≠ .bound := by
    rcases hst with hst | hst <;> rw [hst] <;> nofun
  refine h.exec_taken_do (bringsRecord.offer ..) (State.resolveOffer p tag o) (fun g u => State.resolveOffer_mapRx ..) ?_
  rw [State.takeRecord_offer (by rcases hst with hst | hst; exact .inl hst; exact .inr (.inl hst)), State.takeOffer, hparse]
  exact if_neg hnot

/-- What the acceptance of an OFFER leaves (R137, R139). -/
theorem State.acceptOffer_eq (p : Port) (tag : Byte) (o : PartnerOffer) (r : Resolved) (s : State) :
    s.acceptOffer p tag o r = { s with
      ports := s.ports.set p
        { s.ports.get p with
          state := .confirm
          timer := some (.confirmWait, s.clock)
          page := some (o.page r.role)
          resolved := some r
          history := (s.ports.get p).history.set 3 true }
      comm := (s.comm.tells (if (s.ports.get p).state = .confirm then [] else
        [([.panel], .link p .confirm (s.ports.get p).state noFlags)])).queueFrame (.split p) (confirmBody tag o.nonce r) } := by
  unfold State.acceptOffer
  dsimp only
  split
  · rfl
  · simp [State.raiseLink, State.raise, State.send, State.modPort, LinkPort.goTo, Comm.tells]
    rfl

/-- Settles O28. -/
theorem offerIsConfirmedOrRefused : Obligations.OfferIsConfirmedOrRefused := by
  refine ⟨⟨fun p nonce => ⟨?_, ?_⟩, fun tag nonce r => ?_, fun tag why nonce => ?_, rfl, parseOffer_iff, parseConfirm_iff⟩,
    fun p tag fields o s h hst hparse => ⟨fun r hr => ⟨_, h.exec_offer hst hparse tag, ?_⟩,
      fun why hwhy => ⟨_, h.exec_offer hst hparse tag, ?_⟩⟩⟩
  · rw [offerBody, be32_port]
    rfl
  · rw [offerBody, be32_port]
    rfl
  · obtain ⟨format, slots, role⟩ := r
    cases format <;> cases role <;> rfl
  · cases why <;> rfl
  · rw [State.resolveOffer, hr]
    dsimp only
    rw [State.acceptOffer_eq]
    refine ⟨rfl, rfl, ?_, rfl⟩
    rcases hst with hst | hst <;> simp [State.hunting, State.modRx, hst]
  · have hnot : (s.ports.get p).state ≠ .bound := by
      rcases hst with hst | hst <;> rw [hst] <;> nofun
    rw [State.resolveOffer, hwhy]
    dsimp only
    rw [State.enterFault_entered p why tag o.nonce s hnot]
    exact ⟨rfl, ⟨rfl, rfl⟩, rfl⟩

end Sys2Proof.Machine
end

section
/-! PROOF. An OFFER taken in BOUND. -/

namespace Sys2Proof.Machine

/-- An OFFER taken in BOUND is dealt with in a fresh OFFER state (R140). -/
theorem State.takesAtOnce.exec_reoffer {s : State} {p : Port} (h : s.takesAtOnce (.split p)) {fields : List Byte}
    {o : PartnerOffer} (hst : (s.ports.get p).state = .bound) (hparse : parseOffer fields = some o) (tag : Byte) :
    exec (.offer (.split p) tag fields) s = .next ((s.reoffer p tag o).hunting (.split p)) := by
  refine h.exec_taken_do (bringsRecord.offer ..) (State.reoffer p tag o) (fun g u => State.reoffer_mapRx ..) ?_
  rw [State.takeRecord_offer (by exact .inr (.inr hst)), State.takeOffer, hparse]
  exact if_pos hst

/-- The state in which a BOUND port that has gone to OFFER stands (R134, R140, R143). -/
def State.reoffered (p : Port) (s : State) : State :=
  { s with
    ports := s.ports.set p
      { s.ports.get p with
        state := .offer, timer := some (.offerWait, s.clock), nonce := some (Config.freeNonce s.draws), page := none
        resolved := none, history := (s.ports.get p).history.set 2 true }
    comm := ({ s.comm with stale := s.comm.stale.set p (Tab.const 48 false) }.tells
      [([.panel], .link p .offer .bound noFlags)]).queueFrame (.split p) (offerBody p s.rate (Config.freeNonce s.draws))
    draws := s.draws + 1
    streams := s.streams.set p Stream.atPowerOn
    entries := (s.unbind p s.nextStamp).entries
    own := (s.unbind p s.nextStamp).own }

theorem State.reoffered_eq {s : State} {p : Port} (hst : (s.ports.get p).state = .bound) :
    (s.leaveBound p s.nextStamp).enterOffer p = s.reoffered p := by
  obtain ⟨hports, hdraws, hcomm, hframe⟩ := State.enterOffer_entered p (s.leaveBound p s.nextStamp)
  have hleft : s.leaveBound p s.nextStamp = { s with
      streams := s.streams.set p Stream.atPowerOn
      entries := (s.unbind p s.nextStamp).entries
      own := (s.unbind p s.nextStamp).own
      comm := { s.comm with stale := s.comm.stale.set p (Tab.const 48 false) } } := by
    unfold State.leaveBound State.unbind
    split <;> rfl
  rw [hframe, hports, hdraws, hcomm, hleft, State.reoffered]
  simp only [hst]

/-- The table and the streams as a BOUND port leaves them (R28, R124, R143). -/
theorem State.reoffered_portLeft {s : State} {p : Port} (hst : (s.ports.get p).state = .bound) :
    s.portLeft p (s.reoffered p) := by
  have hleft := State.leaveIfBound_portLeft p s.nextStamp s s.nextStamp_later
  rw [State.leaveIfBound, if_pos hst] at hleft
  refine hleft.congr_right ?_ ?_ ?_
  · rfl
  · rfl
  · rfl

@[simp] theorem State.reoffered_port (s : State) (p : Port) : (s.reoffered p).ports.get p =
    { s.ports.get p with
      state := .offer, timer := some (.offerWait, s.clock), nonce := some (Config.freeNonce s.draws), page := none
      resolved := none, history := (s.ports.get p).history.set 2 true } := Tab.get_set_self ..

/-- Settles O29. -/
theorem offerInBoundReoffers : Obligations.OfferInBoundReoffers := by
  intro p tag fields o s h hst hparse offering left
  rw [State.reoffered_eq hst]
  have hexec := h.exec_reoffer hst hparse tag
  rw [State.reoffer, State.reoffered_eq hst] at hexec
  refine ⟨fun r hr => ⟨_, hexec, ?_⟩, fun why hwhy => ⟨_, hexec, ?_⟩⟩
  · rw [State.resolveOffer, hr]
    dsimp only
    rw [State.acceptOffer_eq]
    have hports : (s.reoffered p).ports.set p
        { (s.reoffered p).ports.get p with
          state := .confirm, timer := some (.confirmWait, (s.reoffered p).clock), page := some (o.page r.role)
          resolved := some r, history := ((s.reoffered p).ports.get p).history.set 3 true } = s.ports.set p _ :=
      Tab.set_set ..
    refine ⟨⟨rfl, ?_, rfl, rfl⟩, ?_, ?_⟩
    · refine (State.reoffered_portLeft hst).congr_right ?_ ?_ ?_
      all_goals rfl
    · refine hports.trans ?_
      rw [State.reoffered_port]
      rfl
    · show Comm.queueFrame _ _ _ = _
      rw [State.reoffered_port]
      rfl
  · have hnot : ((s.reoffered p).ports.get p).state ≠ .bound := by
      rw [State.reoffered_port]
      nofun
    rw [State.resolveOffer, hwhy]
    dsimp only
    rw [State.enterFault_entered p why tag o.nonce _ hnot]
    refine ⟨⟨rfl, ?_, rfl, rfl⟩, ?_, ?_⟩
    · refine (State.reoffered_portLeft hst).congr_right ?_ ?_ ?_
      all_goals rfl
    · refine (Tab.set_set ..).trans ?_
      rw [State.reoffered_port]
      rfl
    · show Comm.tells _ _ = _
      rw [State.reoffered_port]
      rfl

end Sys2Proof.Machine
end

section
/-! PROOF. A partner's CONFIRM and the consumer table. -/

namespace Sys2Proof.Machine

/-! ## The seats that a bind finds -/

theorem seatNamed_eq_none {e : Tab 6 (Option Consumer)} {id : BitVec 32}
    (h : ∀ k c, e.get k = some c → c.identity ≠ id) : seatNamed e id = none := by
  refine List.find?_eq_none.mpr fun k _ => ?_
  split
  · rename_i c hc
    simpa using h k c hc
  · nofun

theorem freeSeat_eq_some {e : Tab 6 (Option Consumer)} {k : Seat} (hk : e.get k = none)
    (hbefore : ∀ k', k' < k → e.get k' ≠ none) : freeSeat e = some k := by
  refine (find?_finRange _ k).mpr ⟨by rw [hk]; rfl, fun k' hlt => ?_⟩
  simpa [Option.isNone_eq_false_iff, Option.isSome_iff_ne_none] using hbefore k' hlt

theorem freeSeat_eq_none {e : Tab 6 (Option Consumer)} (h : ∀ k, e.get k ≠ none) : freeSeat e = none :=
  List.find?_eq_none.mpr fun k _ => by simpa using h k

theorem keepStampOf_some {e : Tab 6 (Option Consumer)} {k : Seat} {n : Nat} (h : keepStampOf e k = some n) :
    ∃ c since, e.get k = some c ∧ c.presence = .keeping since n := by
  unfold keepStampOf at h
  split at h
  · cases h
  · rename_i c hc
    cases hp : c.presence with
    | present => rw [hp] at h; cases h
    | keeping since m =>
      rw [hp] at h
      cases h
      exact ⟨c, since, hc, hp⟩

theorem keepStampOf_keeping {e : Tab 6 (Option Consumer)} {k : Seat} {c : Consumer} {since n : Nat}
    (hc : e.get k = some c) (hp : c.presence = .keeping since n) : keepStampOf e k = some n := by
  rw [keepStampOf, hc]
  dsimp only
  rw [hp]
  rfl

/-- The seats before one and behind it. -/
theorem allSeats_split (k : Seat) : ∃ before behind, allSeats = before ++ k :: behind ∧ ∀ b ∈ before, b < k :=
  ⟨allSeats.take k, allSeats.drop (k + 1), by revert k; decide⟩

/-- One seat's part of the search for the seat to evict (R24). -/
def earlierKeeper (e : Tab 6 (Option Consumer)) (best : Option Seat) (k : Seat) : Option Seat :=
  match keepStampOf e k, best with
  | none, _ => best
  | some _, none => some k
  | some n, some b => match keepStampOf e b with
    | none => some k
    | some m => if n < m then some k else some b

/-- The seat evicted is that of the keep timer that started first, the lowest of equals (R24). -/
theorem evictedSeat_eq_some {e : Tab 6 (Option Consumer)} {k : Seat} {n : Nat} (hk : keepStampOf e k = some n)
    (hfirst : ∀ k' n', keepStampOf e k' = some n' → n < n' ∨ (n = n' ∧ k ≤ k')) : evictedSeat e = some k := by
  obtain ⟨before, behind, hsplit, hlt⟩ := allSeats_split k
  have hbefore : ∀ b, before.foldl (earlierKeeper e) none = some b → b < k := by
    refine List.foldlRecOn before (earlierKeeper e) (motive := fun best => ∀ b, best = some b → b < k) nofun
      fun best ih a ha b hb => ?_
    unfold earlierKeeper at hb
    split at hb
    · exact ih b hb
    · cases hb
      exact hlt a ha
    · split at hb
      · cases hb
        exact hlt a ha
      · split at hb
        · cases hb
          exact hlt a ha
        · exact ih b hb
  have hat : earlierKeeper e (before.foldl (earlierKeeper e) none) k = some k := by
    generalize before.foldl (earlierKeeper e) none = best at hbefore
    cases best with
    | none => simp only [earlierKeeper, hk]
    | some b =>
      simp only [earlierKeeper, hk]
      split
      · rfl
      · rename_i m hm
        rcases hfirst b m hm with h | ⟨-, h⟩
        · exact if_pos h
        · exact absurd (hbefore b rfl) (not_lt.mpr h)
  have hbehind : behind.foldl (earlierKeeper e) (some k) = some k := by
    refine List.foldlRecOn behind (earlierKeeper e) (motive := (· = some k)) rfl fun best ih a _ => ?_
    subst ih
    unfold earlierKeeper
    split
    · rfl
    · rename_i h
      cases h
    · rename_i m b hm hb
      cases hb
      rw [hk]
      have : ¬m < n := by
        rcases hfirst a m hm with h | ⟨h, -⟩ <;> omega
      exact if_neg this
  calc evictedSeat e = allSeats.foldl (earlierKeeper e) none := rfl
    _ = some k := by rw [hsplit, List.foldl_append, List.foldl_cons, hat, hbehind]

/-! ## What an erasure leaves a new consumer to find -/

theorem MoveCtl.deal_status (hold : Bool) (a : Setting) (m : MoveCtl) : (MoveCtl.deal hold a m).1.status = m.status := by
  unfold MoveCtl.deal
  repeat' split
  all_goals rfl

theorem State.handTarget_status (i j : Input) (a : Setting) (s : State) :
    ((s.handTarget i a).moves.get j).status = (s.moves.get j).status := by
  by_cases h : j = i
  · subst h
    simp [State.handTarget, MoveCtl.deal_status]
  · simp [State.handTarget, Tab.get_set, h]

theorem State.changeOwner_status (i j : Input) (who : Option Party) (s : State) :
    ((s.changeOwner i who).moves.get j).status = (s.moves.get j).status := by
  have hmoves : (s.changeOwner i who).moves = ((s.modOwn i (Ownership.give who)).handOwnerTarget i).moves := rfl
  rw [hmoves, State.handOwnerTarget]
  split
  · rfl
  · exact State.handTarget_status ..

theorem State.handOn_status (k : Seat) (i j : Input) (s : State) :
    ((s.handOn k i).moves.get j).status = (s.moves.get j).status := by
  unfold State.handOn
  split
  · split
    · refine (State.changeOwner_status ..).trans ?_
      simp
    · exact State.changeOwner_status ..
  · rfl

theorem State.erase_status (k : Seat) (j : Input) (s : State) :
    ((s.erase k).moves.get j).status = (s.moves.get j).status := by
  unfold State.erase
  dsimp only
  exact foldl_keeps (fun acc i => State.handOn k i acc) (fun u => (u.moves.get j).status)
    (fun u i => State.handOn_status k i j u) allInputs s

theorem State.erase_freshPairs (k : Seat) (s : State) : (s.erase k).freshPairs = s.freshPairs := by
  simp [State.freshPairs, State.erase_status]

/-! ## The ends of a bind -/

/-- A port in BOUND, before its bind is reported (R138). -/
def State.boundAt (p : Port) (s : State) : State :=
  { s with
    ports := s.ports.set p { s.ports.get p with state := .bound, timer := none
                                                history := (s.ports.get p).history.set 4 true }
    comm := s.comm.tells [([.panel], .link p .bound (s.ports.get p).state noFlags)] }

section
variable {s u : State} {p : Port} {tag : Byte} {pg : Page} {r : Resolved}

theorem State.enterBound_eq : s.enterBound p tag pg r = match (s.boundAt p).bind (bindReport p pg r) with
    | (s2, none) => s2.bindAccepted p r
    | (s2, some why) => s2.enterFault p why tag pg.nonce := by
  have h : (s.modPort p fun q => { q.goTo .bound with timer := none }).raiseLink p (s.ports.get p).state noFlags =
      s.boundAt p := by
    simp [State.raiseLink, State.raise, State.modPort, LinkPort.goTo, Comm.tells, State.boundAt, Tab.modify, PortState.bit]
  rw [State.enterBound, h] <;> rfl

theorem State.enterBound_accepted (h : (s.boundAt p).bind (bindReport p pg r) = (u, none)) :
    s.enterBound p tag pg r = u.bindAccepted p r := by rw [State.enterBound_eq, h]

theorem State.enterBound_refused {why : Reason} (h : (s.boundAt p).bind (bindReport p pg r) = (u, some why)) :
    s.enterBound p tag pg r = (s.boundAt p).enterFault p why tag pg.nonce := by
  rw [State.enterBound_eq, h, State.bind_refused _ _ h]

end

/-- A port's frame layout and map, and the state of all 48 inputs to tell it of (R118, R138, R178). -/
def State.framed (p : Port) (r : Resolved) (rate : BoxRate) (map : List Input) (u : State) : State :=
  State.flush (.split p)
    { u with
      streams := u.streams.set p
        { layout := some { format := r.format, slots := r.slots, rate := rate }, map := map.take r.slots, frame := none }
      comm := { u.comm with stale := u.comm.stale.set p (Tab.const 48 true) } }

theorem State.framed_take (p : Port) (r : Resolved) (rate : BoxRate) (map : List Input) (u : State) :
    u.framed p r rate (map.take r.slots) = u.framed p r rate map := by
  rw [State.framed, State.framed, List.take_take, min_self]

theorem State.bindAccepted_framed {u : State} {p : Port} {k : Seat} {c : Consumer} (r : Resolved)
    (hc : u.entries.get k = some c) (hp : p ∈ c.ports)
    (hone : ∀ k' x, u.entries.get k' = some x → p ∈ x.ports → k' = k) : u.bindAccepted p r = u.framed p r u.rate c.map := by
  have hseat : seatOf u.entries p = some k :=
    (seatOf_eq_some ..).mpr ⟨⟨c, hc, hp⟩, fun k' hlt x hx hin => absurd (hone k' x hx hin) (ne_of_lt hlt)⟩
  rw [State.bindAccepted, hseat]
  dsimp only
  rw [hc]
  rfl

theorem seatOf_eq_none {e : Tab 6 (Option Consumer)} {p : Port} (h : ∀ k c, e.get k = some c → p ∉ c.ports) :
    seatOf e p = none := by
  refine List.find?_eq_none.mpr fun k _ => ?_
  split
  · rename_i c hc
    simpa using h k c hc
  · nofun

/-- A port that no entry holds goes from BOUND to FAULT (R124, R135, R142, R143). -/
theorem State.enterFault_unheld {s : State} {p : Port} (hb : (s.ports.get p).state = .bound)
    (hseat : seatOf s.entries p = none) (why : Reason) (tag : Byte) (nonce : BitVec 32) :
    s.enterFault p why tag nonce =
      { s with
        ports := s.ports.set p
          { s.ports.get p with
            state := .fault, timer := some (.rebindInhibit, s.clock), nonce := none, page := none, resolved := none
            history := (s.ports.get p).history.set 5 true
            flags := (s.ports.get p).flags.set why.flag.bit true }
        streams := s.streams.set p Stream.atPowerOn
        comm := ({ s.comm.queueFrame (.split p) (refuseBody tag why nonce) with
          stale := s.comm.stale.set p (Tab.const 48 false) }).tells
            [([.panel], .link p .fault .bound (oneFlag why.flag))] } := by
  have hl : (s.send (.split p) (refuseBody tag why nonce)).leaveIfBound p s.nextStamp =
      { s with
        streams := s.streams.set p Stream.atPowerOn
        comm := { s.comm.queueFrame (.split p) (refuseBody tag why nonce) with
          stale := s.comm.stale.set p (Tab.const 48 false) } } := by
    have hun : (s.send (.split p) (refuseBody tag why nonce)).unbind p s.nextStamp =
        s.send (.split p) (refuseBody tag why nonce) := by
      unfold State.unbind
      rw [show seatOf (s.send (.split p) (refuseBody tag why nonce)).entries p = none from hseat]
    refine (if_pos hb).trans ?_
    rw [State.leaveBound, hun]
    rfl
  unfold State.enterFault
  rw [hl]
  simp [State.raiseLink, State.raise, State.modPort, Comm.tells, Tab.modify, LinkPort.goTo, LinkPort.latch,
    LinkPort.discardAll, PortState.bit, hb]


/-! ## A partner's CONFIRM -/

section
variable {s : State} {p : Port} {pg : Page} {r : Resolved} {tag : Byte}

/-- A new identity takes the lowest free seat (R23). -/
theorem State.bind_new {k : Seat} {b : BindReport} (hid : ∀ k' x, s.entries.get k' = some x → x.identity ≠ b.identity)
    (hk : s.entries.get k = none) (hbefore : ∀ k', k' < k → s.entries.get k' ≠ none) :
    s.bind b = (s.createConsumer k b, none) := by
  rw [State.bind, seatNamed_eq_none hid]
  dsimp only
  rw [freeSeat_eq_some hk hbefore]

/-- A new identity takes the seat of the consumer that is evicted, where none is free (R24). -/
theorem State.bind_evicting {k : Seat} {b : BindReport} (hid : ∀ k' x, s.entries.get k' = some x → x.identity ≠ b.identity)
    (hfull : ∀ k', s.entries.get k' ≠ none) (hk : evictedSeat s.entries = some k) :
    s.bind b = ((s.erase k).createConsumer k b, none) := by
  rw [State.bind, seatNamed_eq_none hid]
  dsimp only
  rw [freeSeat_eq_none hfull]
  dsimp only
  rw [hk]

/-- What a bind to a known identity does (R25 to R27). -/
theorem State.bind_known {k : Seat} {x : Consumer} {b : BindReport} (hseat : seatNamed s.entries b.identity = some k)
    (hx : s.entries.get k = some x) : s.bind b =
    if x.presence.isKeeping then
      if x.role = b.role then (s.rebind k b, none) else ((s.erase k).createConsumer k b, none)
    else match s.twinTest x b.twin b.format b.slots b.role with
      | none => (s.joinTwin k b, none)
      | some why => (s, some why) := by
  rw [State.bind, hseat]
  dsimp only
  rw [hx] <;> rfl

/-- KEEP_EXPIRY of a KEEPING consumer erases it (R29). -/
theorem exec_keepExpiry {k : Seat} {x : Consumer} (hx : s.entries.get k = some x) (hkeep : x.presence.isKeeping = true) :
    exec (.keepExpiry k) s = .next (s.erase k) := by
  have : keepStampOf s.entries k = some x.presence.stamp := by
    rw [keepStampOf, hx]
    exact if_pos hkeep
  show Host.Outcome.next (s.keepExpired k) = _
  rw [State.keepExpired, this]

/-- A bind whose consumer's entry is new (R23). -/
theorem State.createConsumer_bound {u : State} {k : Seat} (hone : ∀ k' x, u.entries.get k' = some x → p ∈ x.ports → k' = k) :
    (u.createConsumer k (bindReport p pg r)).bindAccepted p r =
      (u.createConsumer k (bindReport p pg r)).framed p r u.rate (List.finRange 48) := by
  rw [State.bindAccepted_framed (k := k) r (Tab.get_set_self ..) (List.mem_singleton.mpr rfl) ?_]
  · exact State.framed_take ..
  · intro k' x hx hp
    by_cases hk : k' = k
    · exact hk
    · refine hone k' x ?_ hp
      rwa [State.createConsumer, Tab.get_set, if_neg hk] at hx

end

/-- A CONFIRM taken in CONFIRM is matched there (R138). -/
theorem State.takesAtOnce.exec_confirm {s : State} {p : Port} (h : s.takesAtOnce (.split p)) {fields : List Byte}
    {c : PartnerConfirm} (hst : (s.ports.get p).state = .confirm) (hparse : parseConfirm fields = some c) (tag : Byte) :
    exec (.confirm (.split p) tag fields) s = .next ((s.hunting (.split p)).matchConfirm p tag c) := by
  refine (h.exec_taken_do (bringsRecord.confirm ..) (State.matchConfirm p tag c)
    (fun g u => State.matchConfirm_mapRx ..) ?_).trans (congrArg Host.Outcome.next ?_)
  · rw [State.takeRecord_confirm (by exact hst), State.takeConfirm, hparse]
  · exact (State.matchConfirm_mapRx (fun rx => rx.modify p.succ fun q => { q with framer := .hunt }) p tag c s).symm

/-- Settles O30. -/
theorem confirmBindsOrFaults : Obligations.ConfirmBindsOrFaults := by
  intro p tag fields c pg r s h hst hparse hpg hr matches_ entered framed fresh binds faults
  have hexec := h.exec_confirm hst hparse tag
  generalize hs' : s.hunting (.split p) = s' at hexec
  have hmatch : s'.matchConfirm p tag c = if matches_ then s'.enterBound p tag pg r else s'.enterFault p .mismatch tag pg.nonce := by
    subst hs'
    rw [State.matchConfirm, show ((s.hunting (.split p)).ports.get p).page = some pg from hpg,
      show ((s.hunting (.split p)).ports.get p).resolved = some r from hr]
    rfl
  rw [hmatch] at hexec
  have hentered : s'.boundAt p = entered := by
    subst hs'
    rw [State.boundAt, show ((s.hunting (.split p)).ports.get p).state = .confirm from hst]
    rfl
  refine ⟨fun hm k hone => ?_, fun hm => ?_⟩
  · rw [if_pos hm] at hexec
    have haccept : ∀ u, entered.bind (bindReport p pg r) = (u, none) → binds (u.bindAccepted p r) := fun u hu =>
      hexec.trans (congrArg Host.Outcome.next (State.enterBound_accepted (by rw [hentered]; exact hu)))
    have hcreate : ∀ u : State, u.rate = s.rate → u.freshPairs = s.freshPairs →
        (∀ k' x, u.entries.get k' = some x → p ∈ x.ports → k' = k) →
        entered.bind (bindReport p pg r) = (u.createConsumer k (bindReport p pg r), none) →
        binds (framed (List.finRange 48) (fresh k u)) := fun u hrate hfresh hone hu => by
      have hnew : u.createConsumer k (bindReport p pg r) = fresh k u := by
        rw [State.createConsumer, hfresh]
        rfl
      have := haccept _ hu
      rw [State.createConsumer_bound hone, hnew, hrate] at this
      exact this
    have herase : ∀ x, s.entries.get k = some x → x.presence.isKeeping = true →
        entered.bind (bindReport p pg r) = ((entered.erase k).createConsumer k (bindReport p pg r), none) →
        ∀ e, exec (.keepExpiry k) entered = .next e → binds (framed (List.finRange 48) (fresh k e)) := fun x hx hkeep hu e he => by
      obtain rfl : entered.erase k = e := Host.Outcome.next.inj ((exec_keepExpiry (s := entered) hx hkeep).symm.trans he)
      refine hcreate (entered.erase k) (State.erase_rate k entered) (State.erase_freshPairs k entered) (fun k' x' hx' => ?_) hu
      rw [State.erase_entries, Tab.get_set] at hx'
      split at hx'
      · cases hx'
      · exact hone k' x' hx'
    have hentry : ∀ (map : List Input) (u : State) (x' : Consumer), u.rate = s.rate → u.entries = s.entries.set k (some x') →
        x'.map = map → p ∈ x'.ports → entered.bind (bindReport p pg r) = (u, none) → binds (framed map u) := by
      rintro _ u x' hrate he rfl hin hu
      have := haccept u hu
      rw [State.bindAccepted_framed (k := k) r (by rw [he, Tab.get_set_self]) hin ?_, hrate] at this
      · exact this
      · intro k' x'' hx'' hp
        by_cases hk : k' = k
        · exact hk
        · rw [he, Tab.get_set, if_neg hk] at hx''
          exact hone k' x'' hx'' hp
    have hknown := fun x (hseat : seatNamed s.entries pg.identity = some k) (hx : s.entries.get k = some x) =>
      State.bind_known (s := entered) (b := bindReport p pg r) hseat hx
    refine ⟨fun hid => ⟨fun hk hbefore => ?_, fun x since n hx hp hfull hfirst => ?_⟩, fun x hseat hx => ⟨fun hkeep => ⟨fun hrole => ?_, fun hrole => ?_⟩, fun hkeep hin => ?_⟩⟩
    · exact hcreate entered rfl rfl hone (State.bind_new hid hk hbefore)
    · refine herase x hx (by rw [hp]; rfl) (State.bind_evicting hid hfull ?_)
      refine evictedSeat_eq_some (keepStampOf_keeping hx hp) fun k' n' hk' => ?_
      obtain ⟨x', since', hx', hp'⟩ := keepStampOf_some hk'
      exact hfirst k' x' since' n' hx' hp'
    · refine hentry x.map _ _ rfl rfl rfl (List.mem_singleton.mpr rfl) ?_
      refine (hknown x hseat hx).trans ((if_pos hkeep).trans ((if_pos hrole).trans ?_))
      rw [State.rebind, Tab.modify, show entered.entries.get k = some x from hx]
      rfl
    · exact herase x hx hkeep
        ((hknown x hseat hx).trans ((if_pos hkeep).trans (if_neg hrole)))
    · intro refused
      have htwin := (hknown x hseat hx).trans (if_neg (by simp [hkeep]))
      have hrefused : ∀ why, entered.twinTest x pg.twin r.format r.slots r.role = some why → refused why := by
        intro why hwhy
        rw [show entered.twinTest x (bindReport p pg r).twin (bindReport p pg r).format (bindReport p pg r).slots
          (bindReport p pg r).role = some why from hwhy] at htwin
        have hunheld : seatOf entered.entries p = none := by
          refine seatOf_eq_none fun k' x' hx' hp => ?_
          obtain rfl := hone k' x' hx' hp
          rw [show entered.entries.get k' = some x from hx] at hx'
          cases hx'
          exact hin hp
        have hb : (entered.ports.get p).state = .bound := congrArg LinkPort.state (Tab.get_set_self ..)
        refine ⟨_, hexec, ?_⟩
        rw [State.enterBound_refused (by rw [hentered]; exact htwin), hentered, State.enterFault_unheld hb hunheld]
        exact ⟨rfl, rfl, rfl⟩
      refine ⟨fun first pf hports hpf => ?_, fun hports => hrefused _ (State.twinTest_two hports ..)⟩
      have hfirst : (entered.ports.get first).page = some pf := by
        show ((s.ports.set p _).get first).page = some pf
        rw [Tab.get_set]
        split
        · rename_i heq
          subst heq
          exact hpf
        · exact hpf
      have htest := State.twinTest_one hports hfirst pg.twin r.format r.slots r.role
      refine ⟨fun hmark => hrefused _ (htest.trans (if_pos hmark)), fun hmark => ?_⟩
      replace htest := htest.trans (if_neg (by simp [hmark]))
      refine ⟨fun hsame => ?_, fun hdiff => hrefused _ (htest.trans (if_neg hdiff))⟩
      refine hentry x.map _ _ rfl rfl rfl (List.mem_cons_of_mem _ (List.mem_singleton.mpr rfl)) ?_
      rw [show entered.twinTest x (bindReport p pg r).twin (bindReport p pg r).format (bindReport p pg r).slots
          (bindReport p pg r).role = none from htest.trans (if_pos hsame)] at htwin
      refine htwin.trans ?_
      dsimp only
      rw [State.joinTwin, Tab.modify, show entered.entries.get k = some x from hx, Option.map_some, hports]
      rfl
  · rw [if_neg hm] at hexec
    refine ⟨_, hexec, ?_⟩
    have hnot : (s'.ports.get p).state ≠ .bound := by
      subst hs'
      rw [show ((s.hunting (.split p)).ports.get p).state = .confirm from hst]
      nofun
    rw [State.enterFault_entered p .mismatch tag pg.nonce _ hnot]
    subst hs'
    refine ⟨rfl, rfl, ?_⟩
    show Comm.tells [([LaneId.panel], Notice.link p .fault (s.ports.get p).state _)] _ = _
    rw [hst]
    rfl

end Sys2Proof.Machine
end

section
/-! PROOF. A change of the box rate. -/

namespace Sys2Proof.Machine

/-! ## Entries to HOLD one after the other -/

/-- One live port's part of the change of box rate (R127). -/
def State.holdLive (stamp : Nat) (a : State) (p : Port) : State :=
  if (a.ports.get p).state = .down then a else a.enterHold p noFlags stamp

/-- A port in HOLD (R133). -/
def LinkPort.held (now : Nat) (q : LinkPort) : LinkPort :=
  { q with state := .hold, timer := some (.hold, now), nonce := none, page := none, resolved := none
           history := q.history.set 1 true }

/-- One port's part of what a change of box rate tells lane P and empties (R127, R147). -/
def Comm.heldPort (ports : Tab 6 LinkPort) (c : Comm) (p : Port) : Comm :=
  (c.flushed p true).tells [([.panel], .link p .hold (ports.get p).state noFlags)]

/-- Whether a port is live: in any state but DOWN (R127). -/
def LinkPort.live (q : LinkPort) : Bool := decide (q.state ≠ .down)

theorem State.enterHold_comm (p : Port) (flags : Tab 12 Bool) (stamp : Nat) (s : State) :
    (s.enterHold p flags stamp).comm =
      (s.comm.flushed p true).tells [([.panel], .link p .hold (s.ports.get p).state flags)] := by
  unfold State.enterHold
  rw [State.raiseLink_comm, ← State.leaving_comm p stamp true s]
  simp [State.modPort, LinkPort.goTo]

theorem State.enterHold_frame (p : Port) (flags : Tab 12 Bool) (stamp : Nat) (s : State) :
    s.enterHold p flags stamp =
      { s with
        ports := s.ports.set p ((s.ports.get p).held s.clock)
        rx := s.rx.modify p.succ RxSide.flushed
        comm := (s.enterHold p flags stamp).comm
        streams := (s.leaveIfBound p stamp).streams
        entries := (s.leaveIfBound p stamp).entries
        own := (s.leaveIfBound p stamp).own } := by
  have hports : (s.enterHold p flags stamp).ports = s.ports.set p ((s.ports.get p).held s.clock) := by
    rw [State.enterHold_ports]
    rfl
  have hrx := State.enterHold_rx p flags stamp s
  rw [← hports, ← show _ = s.rx.modify p.succ RxSide.flushed from hrx]
  simp [State.enterHold, State.raiseLink, State.raise, State.modPort, State.clearStale, State.driveBreak, State.modTx,
    State.flushLane, State.modRx]

/-- What the ports, lanes and streams are after the ports in `gone` have been dealt with (R127). -/
structure State.heldUpTo (v : State) (gone : List Port) (a : State) : Prop where
  ports : ∀ p, a.ports.get p = if p ∈ gone ∧ (v.ports.get p).live then (v.ports.get p).held v.clock else v.ports.get p
  rx : ∀ p, a.rx.get p.succ = if p ∈ gone ∧ (v.ports.get p).live then (v.rx.get p.succ).flushed else v.rx.get p.succ
  panel : a.rx.get 0 = v.rx.get 0
  streams : ∀ p, a.streams.get p =
    if p ∈ gone ∧ (v.ports.get p).state = .bound then Stream.atPowerOn else v.streams.get p
  comm : a.comm = (gone.reverse.filter fun p => (v.ports.get p).live).foldl (Comm.heldPort v.ports) v.comm
  frame : a = { v with ports := a.ports, rx := a.rx, comm := a.comm, streams := a.streams, entries := a.entries,
                       own := a.own }

theorem State.heldUpTo.start (v : State) : v.heldUpTo [] v := by
  constructor <;> simp

theorem State.leaveIfBound_streams (p : Port) (stamp : Nat) (s : State) : (s.leaveIfBound p stamp).streams =
    if (s.ports.get p).state = .bound then s.streams.set p Stream.atPowerOn else s.streams := by
  unfold State.leaveIfBound
  split <;> rfl

theorem State.heldUpTo.step {v a : State} {gone : List Port} (h : v.heldUpTo gone a) (stamp : Nat) {p : Port}
    (hp : p ∉ gone) : v.heldUpTo (p :: gone) (a.holdLive stamp p) := by
  have hat : a.ports.get p = v.ports.get p := by rw [h.ports, if_neg fun hg => hp hg.1]
  have hclock : a.clock = v.clock := by rw [h.frame]
  unfold State.holdLive
  rw [hat]
  by_cases hdown : (v.ports.get p).state = .down
  · have hlive : (v.ports.get p).live = false := by simp [LinkPort.live, hdown]
    have hnot (p' : Port) (hl : (v.ports.get p').live) : p' ∈ p :: gone ↔ p' ∈ gone := by
      refine ⟨fun hin => (List.mem_cons.mp hin).resolve_left ?_, List.mem_cons_of_mem _⟩
      rintro rfl
      rw [hlive] at hl
      cases hl
    rw [if_pos hdown]
    refine ⟨fun p' => ?_, fun p' => ?_, h.panel, fun p' => ?_, ?_, h.frame⟩
    · rw [h.ports]
      simp only [and_congr_left (hnot p')]
    · rw [h.rx]
      simp only [and_congr_left (hnot p')]
    · rw [h.streams]
      refine if_congr ?_ rfl rfl
      refine and_congr_left fun hb => (hnot p' ?_).symm
      simp [LinkPort.live, hb]
    · rw [h.comm]
      simp [List.filter_append, hlive]
  · have hlive : (v.ports.get p).live = true := by simp [LinkPort.live, hdown]
    rw [if_neg hdown]
    refine ⟨fun p' => ?_, fun p' => ?_, ?_, fun p' => ?_, ?_, ?_⟩
    · rw [State.enterHold_frame, Tab.get_set, hat, hclock]
      by_cases heq : p' = p
      · subst heq
        simp [hlive]
      · simp [heq, h.ports]
    · rw [State.enterHold_frame, Tab.get_modify]
      by_cases heq : p' = p
      · subst heq
        simp [hlive, h.rx, hp]
      · simp [heq, h.rx]
    · rw [State.enterHold_frame, Tab.get_modify, if_neg (Fin.succ_ne_zero p).symm]
      exact h.panel
    · rw [State.enterHold_frame]
      dsimp only
      rw [State.leaveIfBound_streams, hat]
      by_cases heq : p' = p
      · subst heq
        split <;> simp_all [h.streams]
      · split <;> simp [Tab.get_set, heq, h.streams]
    · rw [State.enterHold_comm, hat, h.comm]
      simp [List.filter_append, hlive, Comm.heldPort]
    · rw [State.enterHold_frame, h.frame]

/-- A list of ports dealt with one after the other. -/
theorem foldl_gone {σ : Type} {f : σ → Port → σ} {P : List Port → σ → Prop}
    (hstep : ∀ gone a p, p ∉ gone → P gone a → P (p :: gone) (f a p)) (l gone : List Port) (a : σ)
    (hnd : (l.reverse ++ gone).Nodup) (h : P gone a) : P (l.reverse ++ gone) (l.foldl f a) := by
  induction l generalizing gone a with
  | nil => exact h
  | cons p l ih =>
    rw [List.reverse_cons, List.append_assoc, List.singleton_append] at hnd ⊢
    exact ih _ _ hnd (hstep gone a p (List.nodup_cons.mp (List.nodup_append.mp hnd).2.1).1 h)

/-! ## The consumers that a change of box rate leaves without a port -/

/-- Whether a consumer has lost its last port with the ports in `gone` (R28). -/
def Consumer.deserted (gone : List Port) (c : Consumer) : Bool :=
  !c.ports.isEmpty && (c.ports.filter fun p => p ∉ gone).isEmpty

/-- A consumer that has lost the ports in `gone` (R28). -/
def Consumer.losePorts (gone : List Port) (now stamp : Nat) (c : Consumer) : Consumer :=
  { c with ports := c.ports.filter fun p => p ∉ gone
           presence := if c.deserted gone then .keeping now stamp else c.presence }

/-- Whether a party keeps its place as a waiter once the ports in `gone` are lost (R52). -/
def State.stillWaits (v : State) (gone : List Port) : Party → Bool
  | .panel => true
  | .consumer k => (v.entries.get k).all fun c => !c.deserted gone

theorem Consumer.filter_cons {p : Port} {gone : List Port} {c : Consumer} (hp : p ∉ c.ports) :
    (c.ports.filter fun p' => p' ∉ p :: gone) = c.ports.filter fun p' => p' ∉ gone := by
  refine List.filter_congr fun p' hp' => ?_
  have : p' ≠ p := fun h => hp (h ▸ hp')
  simp [this]

theorem Consumer.deserted_cons {p : Port} {gone : List Port} {c : Consumer} (hp : p ∉ c.ports) :
    c.deserted (p :: gone) = c.deserted gone := by rw [Consumer.deserted, Consumer.deserted, Consumer.filter_cons hp]

theorem Consumer.losePorts_cons {p : Port} {gone : List Port} {c : Consumer} (hp : p ∉ c.ports) (now stamp : Nat) :
    c.losePorts (p :: gone) now stamp = c.losePorts gone now stamp := by
  rw [Consumer.losePorts, Consumer.losePorts, Consumer.filter_cons hp, Consumer.deserted_cons hp]

theorem Consumer.filter_ne (p : Port) (gone : List Port) (c : Consumer) :
    ((c.ports.filter fun p' => p' ∉ gone).filter fun p' => p' != p) = c.ports.filter fun p' => p' ∉ p :: gone := by
  rw [List.filter_filter]
  refine List.filter_congr fun p' _ => ?_
  by_cases h : p' = p <;> simp [h]

theorem Consumer.deserted_of_kept {p : Port} {gone : List Port} {c : Consumer} (hp : p ∈ c.ports) (hg : p ∉ gone) :
    c.deserted gone = false := by
  simp only [Consumer.deserted, Bool.and_eq_false_iff, List.isEmpty_eq_false_iff_exists_mem]
  exact .inr ⟨p, List.mem_filter.mpr ⟨hp, by simpa using hg⟩⟩

theorem Consumer.deserted_of_held {p : Port} {gone : List Port} {c : Consumer} (hp : p ∈ c.ports) :
    c.deserted gone = (c.ports.filter fun p => p ∉ gone).isEmpty := by
  have : c.ports.isEmpty = false := List.isEmpty_eq_false_iff_exists_mem.mpr ⟨p, hp⟩
  rw [Consumer.deserted, this]
  rfl

/-- A port that a consumer loses behind others (R28). -/
theorem Consumer.losePort_losePorts {p : Port} {gone : List Port} {c : Consumer} (hp : p ∈ c.ports) (hg : p ∉ gone)
    (now stamp : Nat) : (c.losePorts gone now stamp).losePort p now stamp = c.losePorts (p :: gone) now stamp := by
  unfold Consumer.losePort
  simp only [Consumer.losePorts, Consumer.filter_ne, Consumer.deserted_of_kept hp hg, Consumer.deserted_of_held hp]
  rfl

/-- What the consumer table and the waiting lists are after the ports in `gone` have been dealt with (R28, R52). -/
structure State.desertedUpTo (v : State) (stamp : Nat) (gone : List Port) (a : State) : Prop where
  entries : ∀ k, a.entries.get k = (v.entries.get k).map (Consumer.losePorts gone v.clock stamp)
  waiting : ∀ i, (a.own.get i).waiting = (v.own.get i).waiting.filter (v.stillWaits gone)

theorem State.desertedUpTo.start (v : State) (stamp : Nat) : v.desertedUpTo stamp [] v := by
  have hno (c : Consumer) : c.deserted [] = false := by
    cases h : c.ports <;> simp [Consumer.deserted, h]
  refine ⟨fun k => ?_, fun i => (List.filter_eq_self.mpr fun who _ => ?_).symm⟩
  · cases v.entries.get k with
    | none => rfl
    | some c => simp [Consumer.losePorts, hno]
  · cases who with
    | panel => rfl
    | consumer k => cases hk : v.entries.get k <;> simp [State.stillWaits, hk, hno]

/-- A port that nobody holds takes nothing from the table. -/
theorem State.desertedUpTo.free {v a a' : State} {stamp : Nat} {gone : List Port} (h : v.desertedUpTo stamp gone a)
    {p : Port} (hp : v.portFree p) (he : a'.entries = a.entries) (ho : a'.own = a.own) :
    v.desertedUpTo stamp (p :: gone) a' := by
  refine ⟨fun k => ?_, fun i => ?_⟩
  · rw [he, h.entries]
    cases hk : v.entries.get k with
    | none => rfl
    | some c => exact congrArg some (Consumer.losePorts_cons (hp k c hk) _ _).symm
  · rw [ho, h.waiting]
    refine List.filter_congr fun who _ => ?_
    cases who with
    | panel => rfl
    | consumer k =>
      cases hk : v.entries.get k with
      | none => simp [State.stillWaits, hk]
      | some c => simp [State.stillWaits, hk, Consumer.deserted_cons (hp k c hk)]

/-- A BOUND port that leaves its consumer behind the ports in `gone` (R28, R52). -/
theorem State.desertedUpTo.unbind {v a : State} {stamp : Nat} {gone : List Port} (h : v.desertedUpTo stamp gone a)
    (ht : v.tableOk) (hclock : a.clock = v.clock) {p : Port} (hp : p ∉ gone) :
    v.desertedUpTo stamp (p :: gone) (a.unbind p stamp) := by
  unfold State.unbind
  cases hseat : seatOf a.entries p with
  | none =>
    refine h.free (fun k c hk hin => ?_) rfl rfl
    refine seatOf_none hseat k (c.losePorts gone v.clock stamp) (by rw [h.entries, hk]; rfl) ?_
    exact List.mem_filter.mpr ⟨hin, by simpa using hp⟩
  | some k =>
    obtain ⟨c', hc', hpc'⟩ := seatOf_get _ _ _ hseat
    obtain ⟨c, hc, rfl⟩ := Option.map_eq_some_iff.mp ((h.entries k).symm.trans hc')
    have hpc : p ∈ c.ports := (List.mem_filter.mp hpc').1
    have hlost : (a.entries.get k).map (Consumer.losePort p a.clock stamp) = some (c.losePorts (p :: gone) v.clock stamp) := by
      rw [hc', hclock, Option.map_some, Consumer.losePort_losePorts hpc hp]
    have hother (k' : Seat) (hk : k' ≠ k) (x : Consumer) (hx : v.entries.get k' = some x) : p ∉ x.ports := fun hin =>
      hk (ht.2.2.2 k' k x c p hx hc hin hpc)
    dsimp only
    rw [hlost]
    refine ⟨fun k' => ?_, fun i => ?_⟩
    · dsimp only
      rw [Tab.get_set]
      split
      · rename_i heq
        rw [heq, hc]
        rfl
      · rename_i hk
        rw [h.entries]
        cases hx : v.entries.get k' with
        | none => rfl
        | some x => exact congrArg some (Consumer.losePorts_cons (hother k' hk x hx) _ _).symm
    · have hwaits (who : Party) : v.stillWaits (p :: gone) who =
          (v.stillWaits gone who && (who != .consumer k || !c.deserted (p :: gone))) := by
        cases who with
        | panel => rfl
        | consumer k' =>
          by_cases hk : k' = k
          · subst hk
            simp [State.stillWaits, hc, Consumer.deserted_of_kept hpc hp]
          · cases hx : v.entries.get k' with
            | none => simp [State.stillWaits, hx, hk]
            | some x => simp [State.stillWaits, hx, hk, Consumer.deserted_cons (hother k' hk x hx)]
      have hempty : (c.losePorts (p :: gone) v.clock stamp).ports.isEmpty = c.deserted (p :: gone) :=
        (Consumer.deserted_of_held hpc).symm
      dsimp only
      rw [hempty]
      cases hd : c.deserted (p :: gone) with
      | true =>
        rw [if_pos rfl, Tab.get_map]
        show ((a.own.get i).waiting.filter fun x => x != .consumer k) = _
        rw [h.waiting, List.filter_filter]
        refine List.filter_congr fun who _ => ?_
        rw [hwaits, hd, Bool.and_comm]
        simp
      | false =>
        rw [if_neg (by simp), h.waiting]
        refine List.filter_congr fun who _ => ?_
        rw [hwaits, hd]
        simp

theorem State.desertedUpTo.step {v a : State} {stamp : Nat} {gone : List Port} (hh : v.heldUpTo gone a)
    (h : v.desertedUpTo stamp gone a) (ht : v.tableOk) {p : Port} (hp : p ∉ gone) :
    v.desertedUpTo stamp (p :: gone) (a.holdLive stamp p) := by
  have hat : a.ports.get p = v.ports.get p := by rw [hh.ports, if_neg fun hg => hp hg.1]
  have hclock : a.clock = v.clock := by rw [hh.frame]
  unfold State.holdLive
  rw [hat]
  by_cases hb : (v.ports.get p).state = .bound
  · rw [if_neg (by rw [hb]; nofun), State.enterHold_frame, State.leaveIfBound, if_pos (by rw [hat]; exact hb)]
    obtain ⟨he, hw⟩ := h.unbind ht hclock hp
    exact ⟨he, hw⟩
  · split
    · exact h.free (ht.free hb) rfl rfl
    · rw [State.enterHold_frame, State.leaveIfBound, if_neg (by rw [hat]; exact hb)]
      exact h.free (ht.free hb) rfl rfl

/-! ## The change of box rate -/

theorem allPorts_nodup : (allPorts.reverse ++ []).Nodup := by decide

theorem State.holdLivePorts_held (v : State) : v.heldUpTo allPorts.reverse v.holdLivePorts := by
  have := foldl_gone (P := v.heldUpTo) (f := State.holdLive v.nextStamp) (fun _ _ _ hp h => h.step _ hp) allPorts []
    v allPorts_nodup (State.heldUpTo.start v)
  rwa [List.append_nil] at this

theorem State.holdLivePorts_deserted {v : State} (ht : v.tableOk) :
    v.desertedUpTo v.nextStamp allPorts.reverse v.holdLivePorts := by
  have := foldl_gone (P := fun gone a => v.heldUpTo gone a ∧ v.desertedUpTo v.nextStamp gone a)
    (f := State.holdLive v.nextStamp) (fun _ _ _ hp h => ⟨h.1.step _ hp, h.2.step h.1 ht hp⟩) allPorts []
    v allPorts_nodup ⟨State.heldUpTo.start v, State.desertedUpTo.start v _⟩
  rw [List.append_nil] at this
  exact this.2

theorem State.holdLivePorts_eq (v : State) : v.holdLivePorts = allPorts.foldl (State.holdLive v.nextStamp) v := rfl

theorem mem_allPorts_reverse (p : Port) : p ∈ allPorts.reverse := List.mem_reverse.mpr (List.mem_finRange p)

theorem Consumer.deserted_all (c : Consumer) : c.deserted allPorts.reverse = !c.ports.isEmpty := by
  simp [Consumer.deserted, allPorts]

/-- A consumer that has lost every port it had (R28). -/
theorem Consumer.losePorts_all (c : Consumer) (now stamp : Nat) : c.losePorts allPorts.reverse now stamp =
    if c.ports = [] then c else { c with ports := [], presence := .keeping now stamp } := by
  have hfilter : (c.ports.filter fun p => p ∉ allPorts.reverse) = [] := by
    simp [allPorts]
  rw [Consumer.losePorts, Consumer.deserted_all, hfilter]
  obtain ⟨identity, name, role, presence, ports⟩ := c
  cases ports <;> simp

/-- No change of box rate touches owners, locks and pad choices. -/
theorem State.holdLivePorts_owner (v : State) (i : Input) : (v.holdLivePorts.own.get i).owner = (v.own.get i).owner ∧
    (v.holdLivePorts.own.get i).lock = (v.own.get i).lock ∧
    (v.holdLivePorts.own.get i).padChoice = (v.own.get i).padChoice := by
  have hstep (a : State) (p : Port) : (fun u : State =>
      ((u.own.get i).owner, (u.own.get i).lock, (u.own.get i).padChoice)) (a.holdLive v.nextStamp p) =
      ((a.own.get i).owner, (a.own.get i).lock, (a.own.get i).padChoice) := by
    unfold State.holdLive
    split
    · rfl
    · rw [State.enterHold_frame]
      unfold State.leaveIfBound
      split
      · show (fun o : Ownership => (o.owner, o.lock, o.padChoice)) ((a.unbind p v.nextStamp).own.get i) = _
        unfold State.unbind
        split
        · rfl
        · dsimp only
          split
          · rfl
          · split
            · rw [Tab.get_map]
              rfl
            · rfl
      · rfl
  rw [State.holdLivePorts_eq]
  have := foldl_keeps (State.holdLive v.nextStamp)
    (fun u : State => ((u.own.get i).owner, (u.own.get i).lock, (u.own.get i).padChoice)) hstep allPorts v
  simp only [Prod.mk.injEq] at this
  exact this

/-- A pair brought to rest (R20). -/
theorem Pair.rest_eq (n : Nat) (status : AnalogStatus) (a : Int) (q : Pair) :
    let q' := Pair.rest n status a q
    q'.level = q.level ∧ q'.mute = q.mute ∧ q'.target = q.target ∧ q'.sat = q.sat ∧ q'.phase = 0 ∧
      q'.trim = (if q.trimState = .ramping then q.target else q.trim) ∧
      (q.trimState ≠ .ramping → q'.trimState = q.trimState) ∧
      (q.trimState = .ramping → q'.trimState = q'.stateNow status a) ∧
      (q.dir = .closing ∨ q.dir = .closed → q'.gate = 0 ∧ q'.dir = .closed) ∧
      (q.dir = .opening ∨ q.dir = .opened → q'.gate = n ∧ q'.dir = .opened) := by
  intro q'
  have hdir (h : q.dir = .opening ∨ q.dir = .opened) : ¬(q.dir = .closing ∨ q.dir = .closed) := by
    rcases h with h | h <;> rw [h] <;> nofun
  by_cases hr : q.trimState = .ramping
  · have hq' : q' = Pair.settleTrim q.trimState status a _ := if_pos hr
    simp only [hq', Pair.settleTrim, hr, if_true, ne_eq, not_true_eq_false, and_false, if_false, true_and,
      forall_true_left, false_implies]
    exact ⟨rfl, fun h => by simp [h], fun h => by simp [hdir h]⟩
  · have hq' : q' = _ := if_neg hr
    simp only [hq', hr, if_false, ne_eq, not_false_eq_true, true_and, implies_true, false_implies]
    exact ⟨fun h => by simp [h], fun h => by simp [hdir h]⟩

theorem State.restPairs_pair? (u : State) (who : Party) (i : Input) :
    u.restPairs.pair? who i = (u.pair? who i).map (Pair.rest u.rate.fade (u.moves.get i).status (u.analog i)) :=
  PairStore.get_mapAll u.pairs i (fun i q => Pair.rest u.rate.fade (u.moves.get i).status (u.analog i) q) who

theorem State.serves.exec_setRate {s : State} (h : s.serves .panel .setRate .panel) (tag : Byte) (r : BoxRate) :
    exec (.setRate .panel tag [r.byte]) s =
      .next (((s.holding .panel (0x32#8 :: tag :: [r.byte])).doSetRate .panel tag r).hunting .panel) := by
  refine (h.exec_eq tag _ rfl).trans (congrArg Host.Outcome.next ?_)
  cases r <;> rfl

theorem State.busyInput_iff (s : State) : allInputs.any s.busyInput = true ↔
    ∃ i, (s.moves.get i).move ≠ .idle ∨ (s.phantoms.get i).seq ≠ .idle := by
  simp [State.busyInput, allInputs, Move.busy_iff]

/-- A part that has answered SET_RATE and brought its pairs to rest, before its ports enter HOLD (R127). -/
def State.atRest (s : State) (body reply : List Byte) (r : BoxRate) : State :=
  State.restPairs { s.holding .panel body with comm := s.comm.queueFrame .panel reply, rate := r }

section
variable (s : State) (body reply : List Byte) (r : BoxRate)

theorem State.atRest_pair? {who : Party} {i : Input} {q : Pair} (hq : s.pair? who i = some q) :
    (s.atRest body reply r).pair? who i = some (Pair.rest r.fade (s.moves.get i).status (s.analog i) q) := by
  rw [State.atRest, State.restPairs_pair?]
  exact congrArg (Option.map _) hq

theorem State.atRest_comm (t : State) (hm : t.moves = s.moves) (hp : t.pairs = (s.atRest body reply r).pairs) :
    (s.atRest body reply r).comm = (s.comm.queueFrame .panel reply).tells (allInputs.flatMap fun i => s.limitsTold t i) := by
  refine State.updateAllPairs_comm _ _ t (fun i => ?_) fun who i q hq => ⟨_, ?_, rfl, rfl, rfl⟩
  · unfold State.analog
    rw [hm]
    rfl
  · rw [State.pair?_congr hp]
    exact s.atRest_pair? body reply r hq

theorem State.atRest_frame : s.atRest body reply r =
    { s with rate := r, rx := (s.holding .panel body).rx, comm := (s.atRest body reply r).comm
             pairs := (s.atRest body reply r).pairs } := rfl

end

/-- Settles O44. -/
theorem setRateRestsAndHolds : Obligations.SetRateRestsAndHolds := by
  intro tag r s h b busy
  have hexec := h.exec_setRate tag r
  rw [State.doSetRate] at hexec
  have hb : r.byte = b r := by cases r <;> rfl
  refine ⟨fun hr => ?_, fun hr hbusy => ?_, fun hr hidle => ?_⟩
  · rw [if_pos (show r = (s.holding .panel _).rate from hr)] at hexec
    subst hr
    exact hexec.trans (congrArg Host.Outcome.next (State.holding_reply ..))
  · have hb' : allInputs.any (s.holding .panel (0x32#8 :: tag :: [r.byte])).busyInput = true := (State.busyInput_iff s).mpr hbusy
    rw [if_neg (show ¬r = (s.holding .panel _).rate from hr), if_pos hb'] at hexec
    rw [← hb]
    refine hexec.trans (congrArg Host.Outcome.next ((State.holding_reply ..).trans ?_))
    show s.answered .panel (replyBody tag 0x32#8 .busy [s.rate.byte]) = _
    rw [show s.rate.byte = b s.rate by cases s.rate <;> rfl]
  · have hb' : ¬allInputs.any (s.holding .panel (0x32#8 :: tag :: [r.byte])).busyInput = true :=
      fun h => hidle ((State.busyInput_iff s).mp h)
    rw [if_neg (show ¬r = (s.holding .panel _).rate from hr), if_neg hb', hb] at hexec
    have hexec' : exec (.setRate .panel tag [b r]) s = .next
        ((s.atRest (0x32#8 :: tag :: [b r]) (replyBody tag 0x32#8 .ok [b r]) r).holdLivePorts.hunting .panel) := hexec
    refine ⟨_, hexec', ?_⟩
    have hpair := fun who i q => s.atRest_pair? (0x32#8 :: tag :: [b r]) (replyBody tag 0x32#8 .ok [b r]) r (who := who) (i := i) (q := q)
    have hcomm := s.atRest_comm (0x32#8 :: tag :: [b r]) (replyBody tag 0x32#8 .ok [b r]) r
    have hframe := s.atRest_frame (0x32#8 :: tag :: [b r]) (replyBody tag 0x32#8 .ok [b r]) r
    have hseated : ∀ k, (s.atRest (0x32#8 :: tag :: [b r]) (replyBody tag 0x32#8 .ok [b r]) r).seated k = s.seated k :=
      fun k => State.seated_updateAllPairs k _ _
    generalize s.atRest (0x32#8 :: tag :: [b r]) (replyBody tag 0x32#8 .ok [b r]) r = v at hpair hcomm hframe hseated
    have hports : v.ports = s.ports := by rw [hframe]
    have hrx : v.rx = s.rx.modify 0 fun q => { q with framer := .held (0x32#8 :: tag :: [b r]) } := by
      rw [hframe]
      rfl
    have hstreams : v.streams = s.streams := by rw [hframe]
    have hclock : v.clock = s.clock := by rw [hframe]
    have hentries : v.entries = s.entries := by rw [hframe]
    have hown : v.own = s.own := by rw [hframe]
    have hheld := v.holdLivePorts_held
    have howner := v.holdLivePorts_owner
    have htable := State.holdLivePorts_deserted (v := v)
    generalize v.holdLivePorts = w at hheld howner htable
    have hsplit (p : Port) : (w.hunting .panel).rx.get p.succ = w.rx.get p.succ := by
      show (w.rx.modify 0 _).get p.succ = _
      rw [Tab.get_modify, if_neg (Fin.succ_ne_zero p)]
    have hrxp (p : Port) : v.rx.get p.succ = s.rx.get p.succ := by
      rw [hrx, Tab.get_modify, if_neg (Fin.succ_ne_zero p)]
    have hpairs : (w.hunting .panel).pairs = v.pairs := by
      rw [hheld.frame]
      rfl
    have hmoves : (w.hunting .panel).moves = s.moves := by
      rw [hheld.frame, hframe]
      rfl
    refine ⟨?_, fun who i q hq => ⟨_, (State.pair?_congr hpairs who i).trans (hpair who i q hq), Pair.rest_eq ..⟩,
      fun p hdown => ⟨?_, ?_, ?_⟩, fun p hlive => ⟨?_, ?_⟩, ?_, ?_, fun p hbound => ?_, fun p hbound => ?_, fun i => ?_,
      fun ht hparties => ?_, ?_⟩
    · rw [hheld.frame, hframe]
      rfl
    · have hlive : (v.ports.get p).live = false := by simp [LinkPort.live, hports, hdown]
      refine (hheld.ports p).trans ?_
      rw [if_neg (by simp [hlive]), hports]
    · refine (hheld.streams p).trans ?_
      rw [if_neg (by rw [hports, hdown]; exact fun h => nomatch h.2), hstreams]
    · have hlive : (v.ports.get p).live = false := by simp [LinkPort.live, hports, hdown]
      rw [hsplit, hheld.rx, if_neg (by simp [hlive]), hrxp]
    · have : (v.ports.get p).live = true := by simp [LinkPort.live, hports, hlive]
      refine (hheld.ports p).trans ?_
      rw [if_pos ⟨mem_allPorts_reverse p, this⟩, hports, hclock]
      rfl
    · have : (v.ports.get p).live = true := by simp [LinkPort.live, hports, hlive]
      rw [hsplit, hheld.rx, if_pos ⟨mem_allPorts_reverse p, this⟩, hrxp]
      rfl
    · show (w.rx.modify 0 _).get 0 = _
      rw [Tab.get_modify, if_pos rfl, hheld.panel, hrx, Tab.get_modify, if_pos rfl]
    · refine hheld.comm.trans ?_
      rw [List.reverse_reverse, hports, hcomm _ hmoves hpairs]
      rfl
    · refine (hheld.streams p).trans (if_pos ⟨mem_allPorts_reverse p, ?_⟩)
      rw [hports]
      exact hbound
    · refine (hheld.streams p).trans ?_
      rw [if_neg (by rw [hports]; exact fun h => hbound h.2), hstreams]
    · rw [← hown]
      exact howner i
    · obtain ⟨hleft, hwaits⟩ := htable (ht.congr hentries hseated fun p => by rw [hports])
      refine ⟨⟨v.nextStamp, fun k c since n hk => v.nextStamp_later k c since n (by rw [hentries]; exact hk), fun k => ?_⟩,
        fun i => ?_⟩
      · refine (hleft k).trans ?_
        rw [hentries, hclock]
        congr 1
        funext c
        exact Consumer.losePorts_all ..
      · refine (hwaits i).trans ?_
        rw [hown]
        refine List.filter_congr fun who hwho => ?_
        cases who with
        | panel => rfl
        | consumer k =>
          obtain ⟨c, hc, hpresent⟩ := (hparties i k).2 hwho
          have hports : c.ports ≠ [] := fun h => by
            rw [(ht.consumer hc).2.2.1.mpr h] at hpresent
            cases hpresent
          have hparty : (Party.consumer k == Party.panel) = false := rfl
          have hempty : c.ports.isEmpty = false := by simpa using hports
          simp [State.stillWaits, hentries, hc, Consumer.deserted_all, hempty, hparty]
    · rw [hheld.frame, hframe]
      rfl

end Sys2Proof.Machine
end

section
/-! PROOF. The notices: their bytes, their lanes, and their offering to a lane. -/

namespace Sys2Proof.Machine

/-! ## The bytes of notices -/

theorem linkBody_flags (p : Port) (now before : PortState) (flags : Tab 12 Bool) :
    (Notice.link p now before flags).body = [0x56#8, 0#8, portByte p, now.code, before.code] ++
      [(BitVec.ofNat 16 ((List.finRange 12).map fun k => if flags.get k then 2 ^ k.val else 0).sum).extractLsb' 8 8,
       (BitVec.ofNat 16 ((List.finRange 12).map fun k => if flags.get k then 2 ^ k.val else 0).sum).extractLsb' 0 8] := by
  rw [Notice.body, be16_eq, marksValue_eq]

/-! ## The lanes of events -/

theorem seated_iff (s : State) (p : Port) : (seatOf s.entries p).isSome = true ↔
    ∃ k c, s.entries.get k = some c ∧ p ∈ c.ports := by
  refine ⟨fun h => ?_, fun ⟨k, c, hk, hp⟩ => ?_⟩
  · obtain ⟨k, hk⟩ := Option.isSome_iff_exists.mp h
    obtain ⟨c, hc, hp⟩ := seatOf_get _ _ _ hk
    exact ⟨k, c, hc, hp⟩
  · cases hs : seatOf s.entries p with
    | none => exact absurd hp (seatOf_none hs k c hk)
    | some => rfl

/-- The lanes of the ports that pass a test, and lane P. -/
theorem mem_lanesWhere (f : Port → Bool) (l : LaneId) :
    l ∈ (allPorts.filter f).map LaneId.split ++ [.panel] ↔ l = .panel ∨ ∃ p, l = .split p ∧ f p = true := by
  simp only [List.mem_append, List.mem_map, List.mem_filter, List.mem_singleton, allPorts, List.mem_finRange, true_and]
  constructor
  · rintro (⟨p, hf, rfl⟩ | rfl)
    · exact .inr ⟨p, rfl, hf⟩
    · exact .inl rfl
  · rintro (rfl | ⟨p, rfl, hf⟩)
    · exact .inr rfl
    · exact .inl ⟨p, hf, rfl⟩

theorem lanesWhere_nodup (f : Port → Bool) : ((allPorts.filter f).map LaneId.split ++ [LaneId.panel]).Nodup := by
  refine List.nodup_append.mpr ⟨((List.nodup_finRange 6).filter f).map fun _ _ h => LaneId.split.inj h,
    List.nodup_singleton _, fun l hl l' hl' heq => ?_⟩
  obtain ⟨p, -, rfl⟩ := List.mem_map.mp hl
  rw [List.mem_singleton.mp hl'] at heq
  cases heq

theorem State.mem_partyLanes (s : State) (l : LaneId) : l ∈ s.partyLanes ↔
    l = .panel ∨ ∃ p k c, l = .split p ∧ s.entries.get k = some c ∧ p ∈ c.ports := by
  refine (mem_lanesWhere _ l).trans (or_congr_right (exists_congr fun p => ?_))
  rw [seated_iff]
  simp only [exists_and_left]

theorem State.mem_clipLanes (s : State) (i : Input) (l : LaneId) : l ∈ s.clipLanes i ↔
    l = .panel ∨ ∃ p k c, l = .split p ∧ s.entries.get k = some c ∧ p ∈ c.ports ∧ i ∈ (s.streams.get p).map := by
  refine (mem_lanesWhere _ l).trans (or_congr_right (exists_congr fun p => ?_))
  rw [Bool.and_eq_true, seated_iff, List.contains_iff_mem]
  constructor
  · rintro ⟨rfl, ⟨k, c, hk, hp⟩, hi⟩
    exact ⟨k, c, rfl, hk, hp, hi⟩
  · rintro ⟨k, c, rfl, hk, hp, hi⟩
    exact ⟨rfl, ⟨k, c, hk, hp⟩, hi⟩

/-! ## The offering of a notice -/

theorem Comm.passes_iff (c : Comm) (l : LaneId) (body : List Byte) :
    c.passes l body = true ↔ (c.tx.get l.idx).queue.length + (body.length + 4) + 96 ≤ 512 := by
  rw [Comm.passes, frameOf_length, decide_eq_true_eq]
  rfl

/-- What the telling of a queued notice changes (R176). -/
theorem Comm.told_eq (c : Comm) (l : LaneId) (n : Notice) :
    (∃ p now before flags, l = .panel ∧ n = .link p now before flags ∧
      c.told l n = { c with lastTold := c.lastTold.set p now }) ∨
    ((l ≠ .panel ∨ ∀ p st st' flags, n ≠ .link p st st' flags) ∧ c.told l n = c) := by
  cases l with
  | split p => exact .inr ⟨.inl nofun, rfl⟩
  | panel =>
    cases n with
    | link p now before flags => exact .inl ⟨p, now, before, flags, rfl, rfl, rfl⟩
    | moved | owner | limit | phantomState | clip | state | chip => exact .inr ⟨.inr nofun, rfl⟩

theorem Comm.offer_queued {c : Comm} {l : LaneId} {n : Notice} (hm : c.marked l n.subject = false)
    (hroom : (c.tx.get l.idx).queue.length + (n.body.length + 4) + 96 ≤ 512) :
    c.offer l n = (c.queueFrame l n.body).told l n := by
  rw [Comm.offer, if_neg (by simp [hm]), if_pos ((c.passes_iff l _).mpr hroom)]

theorem Comm.offer_marked {c : Comm} {l : LaneId} {n : Notice} (hm : c.marked l n.subject = false)
    (hroom : 512 < (c.tx.get l.idx).queue.length + (n.body.length + 4) + 96) :
    c.offer l n = c.setMark l n.subject true := by
  rw [Comm.offer, if_neg (by simp [hm]), if_neg fun h => absurd ((c.passes_iff l _).mp h) (by omega)]

theorem Comm.marked_congr {c c' : Comm} (hs : c'.stale = c.stale) (hi : c'.inputMarks = c.inputMarks)
    (hp : c'.portMarks = c.portMarks) (hc : c'.chipMarks = c.chipMarks) (l : LaneId) (sub : Subject) :
    c'.marked l sub = c.marked l sub := by
  unfold Comm.marked
  rw [hs, hi, hp, hc]

/-- Whether a lane marks subjects of a kind: lane P marks all, a split lane inputs only (R176, R177). -/
def laneMarks : LaneId → Subject → Bool
  | .panel, _ => true
  | .split _, .input _ => true
  | .split _, .port _ => false
  | .split _, .chip _ => false

theorem Comm.marked_setMark_same (c : Comm) (l : LaneId) (sub : Subject) :
    (c.setMark l sub true).marked l sub = (c.marked l sub || laneMarks l sub) := by
  cases l <;> cases sub <;> simp [Comm.setMark, Comm.marked, laneMarks]

theorem Comm.marked_setMark_other (c : Comm) {l l' : LaneId} {sub sub' : Subject} (b : Bool)
    (h : ¬(l' = l ∧ sub' = sub)) : (c.setMark l sub b).marked l' sub' = c.marked l' sub' := by
  cases l with
  | panel =>
    cases l' with
    | split p' => cases sub <;> cases sub' <;> rfl
    | panel => cases sub <;> cases sub' <;> simp_all [Comm.setMark, Comm.marked, Tab.get_set]
  | split p =>
    cases sub with
    | port | chip => rfl
    | input i =>
      cases l' with
      | panel => cases sub' <;> rfl
      | split p' =>
        cases sub' with
        | port | chip => rfl
        | input i' =>
          simp only [Comm.setMark, Comm.marked, Tab.get_modify]
          split
          · rename_i hp
            subst hp
            exact Tab.get_set_ne _ (fun hi => h ⟨rfl, congrArg Subject.input hi⟩) _
          · rfl

/-- A mark that is set (R176). -/
theorem Comm.marked_setMark (c : Comm) (l l' : LaneId) (sub sub' : Subject) :
    (c.setMark l sub true).marked l' sub' = (c.marked l' sub' || (decide (l' = l ∧ sub' = sub) && laneMarks l sub')) := by
  by_cases h : l' = l ∧ sub' = sub
  · obtain ⟨rfl, rfl⟩ := h
    simpa using Comm.marked_setMark_same c l' sub'
  · rw [Comm.marked_setMark_other c true h]
    simp [h]

/-- Settles O16. -/
theorem noticesAreComposedRoutedAndOffered : Obligations.NoticesAreComposedRoutedAndOffered := by
  refine ⟨fun i p c a now before n limited d ph seq block st st' flags chip mo po => ?_, fun s i l => ?_,
    fun l n c => ⟨fun hm => if_pos hm, fun hm => ⟨fun hroom => ?_, fun hroom => ?_⟩⟩⟩
  · intro input two four b
    refine ⟨?_, rfl, ?_, ?_, ?_, rfl, linkBody_flags p st st' flags, ?_, rfl⟩
    · rw [Notice.body, beInt16_eq]
      cases mo <;> rfl
    · rw [Notice.body, beInt16_eq]
      rfl
    · show [0x53#8, 0#8, input, ph.code, seq.code, po.code] = _
      refine congrArg ([0x53#8, 0#8, input] ++ ·)
        (congrArg₂ List.cons ?_ (congrArg₂ List.cons ?_ (congrArg₂ List.cons ?_ rfl)))
      · cases ph <;> rfl
      · cases seq <;> rfl
      · rcases po with _ | o | _
        · rfl
        · cases o <;> rfl
        · rfl
    · rw [Notice.body, be16_eq]
      rfl
    · cases chip <;> rfl
  · refine ⟨s.mem_partyLanes l, s.mem_clipLanes i l, lanesWhere_nodup _, lanesWhere_nodup _, rfl, fun k c hk => ?_⟩
    unfold State.lanesOf
    dsimp only
    rw [hk]
  · rw [Comm.offer_queued hm hroom]
    have htx : (c.queueFrame l n.body).tx = c.tx.set l.idx
        { c.tx.get l.idx with queue := (c.tx.get l.idx).queue ++ frameOf n.body } := rfl
    rcases (c.queueFrame l n.body).told_eq l n with ⟨p, now, before, flags, rfl, rfl, h⟩ | ⟨hother, h⟩
    · rw [h]
      refine ⟨htx, fun sub l' => Comm.marked_congr rfl rfl rfl rfl l' sub, fun p' st st' flags' _ heq => ?_, fun hno => ?_⟩
      · cases heq
        rfl
      · exact absurd rfl (hno.resolve_left (fun h => h rfl) p now before flags)
    · rw [h]
      refine ⟨htx, fun sub l' => Comm.marked_congr rfl rfl rfl rfl l' sub, fun p st st' flags hl hn => ?_, fun _ => rfl⟩
      exact absurd hn (hother.resolve_left (fun h => h hl) p st st' flags)
  · rw [Comm.offer_marked hm hroom]
    refine ⟨Comm.setMark_tx .., ?_, fun sub l' => ?_⟩
    · cases l <;> cases n.subject <;> rfl
    · exact Comm.marked_setMark c l l' n.subject sub

end Sys2Proof.Machine
end

section
/-! PROOF. The end of a move, and landings. -/

namespace Sys2Proof.Machine

/-! ## What the end of a move leaves -/

/-- A state in which a held phantom request of an input has been started (R71 step 3, R84). -/
def State.heldStarted (i : Input) (s t : State) : Prop :=
  ((s.phantoms.get i).held = none → t.phantoms = s.phantoms ∧ t.pairs = s.pairs) ∧
  (∀ on, (s.phantoms.get i).held = some on → t.phantoms = s.phantoms.set i
    { s.phantoms.get i with held := none, origin := some (s.phantoms.get i).phantom, target := some on
                            outcome := none, seq := .fadeOut } ∧
    t.pairs = s.pairs.mapInput i (Pair.turnGate s.rate.fade .fadeOut))

theorem State.startHeld_started (i : Input) (s : State) : s.heldStarted i (s.startHeld i) ∧
    (s.startHeld i).comm = s.comm.tells (if (s.phantoms.get i).held = none then [] else [s.startTold i]) ∧
    s.startHeld i = { s with phantoms := (s.startHeld i).phantoms, pairs := (s.startHeld i).pairs
                             comm := (s.startHeld i).comm } := by
  unfold State.heldStarted State.startHeld
  cases h : (s.phantoms.get i).held with
  | none => exact ⟨⟨fun _ => ⟨rfl, rfl⟩, nofun⟩, rfl, rfl⟩
  | some on =>
    dsimp only
    rw [State.startSequence_eq]
    refine ⟨⟨nofun, fun on' hon => ?_⟩, ?_, rfl⟩
    · cases hon
      simp [State.modPhantom, Tab.modify]
    · simp only [reduceCtorEq, if_false, State.startTold, State.modPhantom, Tab.get_modify_self]
      rfl

/-- What the end of a move leaves: the move controller in IDLE, its MOVED event, a held request's sequence, and a pending
target handed over (R71). -/
structure State.moveEnded (i : Input) (o : MovedOutcome) (s t : State) : Prop where
  nothing : (s.moves.get i).pending = none →
    t.moves = s.moves.set i { s.moves.get i with move := .idle } ∧ t.bus = s.bus
  pending : ∀ b, (s.moves.get i).pending = some b →
    let u := State.handTarget i b
      { s with moves := s.moves.set i { s.moves.get i with move := .idle }, phantoms := t.phantoms }
    t.moves = u.moves ∧ t.bus = u.bus
  held : s.heldStarted i t
  told : t.comm = s.comm.tells ([(s.partyLanes, .moved i o (s.moves.get i).setting)] ++
    (if (s.phantoms.get i).held = none then [] else [s.startTold i]))
  frame : t = { s with moves := t.moves, comm := t.comm, phantoms := t.phantoms, pairs := t.pairs, bus := t.bus }

theorem State.dealPending_frame (i : Input) (s : State) :
    s.dealPending i = { s with moves := (s.dealPending i).moves, bus := (s.dealPending i).bus } := by
  unfold State.dealPending
  split <;> rfl

theorem State.endMove_ended (i : Input) (o : MovedOutcome) (s : State) : s.moveEnded i o (s.endMove i o) := by
  have hend : s.endMove i o = (State.startHeld i (State.raiseMoved i o (s.modMove i fun m => { m with move := .idle }))).dealPending i :=
    rfl
  obtain ⟨hheld, hcomm, hframe⟩ := State.startHeld_started i (State.raiseMoved i o (s.modMove i fun m => { m with move := .idle }))
  rw [hend]
  generalize State.startHeld i (State.raiseMoved i o (s.modMove i fun m => { m with move := .idle })) = u at hheld hcomm hframe
  have hmoves : u.moves = s.moves.set i { s.moves.get i with move := .idle } := by
    rw [hframe]
    rfl
  have hbus : u.bus = s.bus := by
    rw [hframe]
    rfl
  have hat : u.moves.get i = { s.moves.get i with move := .idle } := by rw [hmoves, Tab.get_set_self]
  have hph : (u.dealPending i).phantoms = u.phantoms := by rw [State.dealPending_frame]
  have hpairs : (u.dealPending i).pairs = u.pairs := by rw [State.dealPending_frame]
  refine ⟨fun hp => ?_, fun b hb => ?_, ?_, ?_, ?_⟩
  · rw [State.dealPending_none (.inl (by rw [hat]; exact hp))]
    exact ⟨hmoves, hbus⟩
  · rw [State.dealPending_some (by rw [hat]) (by rw [hat]; exact hb)]
    exact State.handTarget_congr i b hmoves rfl hbus
  · unfold State.heldStarted
    rw [hph, hpairs]
    exact hheld
  · rw [State.dealPending_comm, hcomm, State.raiseMoved_comm, Comm.tells_append]
    simp only [State.modMove, Tab.get_modify_self]
    rfl
  · rw [State.dealPending_frame, hframe]
    rfl

/-! ## Pairs at a landing -/

/-- What a landing leaves of a pair but its trim part (R70). -/
theorem Pair.land_frame (status : AnalogStatus) (delta a : Int) (q : Pair) : (q.land status delta a).level = q.level ∧
    (q.land status delta a).mute = q.mute ∧ (q.land status delta a).gate = q.gate ∧
    (q.land status delta a).sat = q.sat ∧ (q.land status delta a).dir = q.dir := by
  unfold Pair.land
  split <;> exact ⟨rfl, rfl, rfl, rfl, rfl⟩

theorem Pair.land_none (status : AnalogStatus) (delta a : Int) {q : Pair} (h : q.level = none) :
    q.land status delta a = q := by
  unfold Pair.land
  rw [h]

theorem Pair.land_some (status : AnalogStatus) (delta a : Int) {q : Pair} {l : Int} (h : q.level = some l) :
    let q' := q.land status delta a
    q'.trim = max (-400) (min 240 (q.trim - delta)) ∧ q'.target = max (-400) (min 240 (l - a)) ∧
      q'.trimState = q'.stateNow status a ∧
      q'.phase = if q'.trimState = .ramping ∧ q.trimState ≠ .ramping then 0 else q.phase := by
  intro q'
  have hq' : q' = Pair.retarget status a { q with trim := trimClamp (q.trim - delta) } := by
    show q.land status delta a = _
    unfold Pair.land
    rw [h]
  rw [hq']
  simp only [Pair.retarget, Pair.settleTrim, h]
  exact ⟨rfl, rfl, rfl, trivial⟩

/-! ## LANDING -/

/-- A move that lands, before it ends (R70). -/
def State.landed (i : Input) (a : Setting) (s : State) : State :=
  (s.modMove i fun m => { m with setting := a }).updatePairs i
    (Pair.land (s.moves.get i).status (a.value - s.analog i) a.value)

theorem MoveCtl.deal_idle (hold : Bool) (a : Setting) {m : MoveCtl} (h : m.move = .idle) :
    (MoveCtl.deal hold a m).1.move = .idle ∨ ∃ b, (MoveCtl.deal hold a m).1.move = .queued b := by
  unfold MoveCtl.deal
  rw [h]
  dsimp only [Move.inFlight]
  split_ifs
  · exact .inl rfl
  · exact .inl rfl
  · exact .inl rfl
  · exact .inr ⟨a, rfl⟩

/-- What the end of a move leaves of the move controllers (R71). -/
theorem State.moveEnded.moves {i : Input} {o : MovedOutcome} {s t : State} (h : s.moveEnded i o t) :
    (∀ j, j ≠ i → t.moves.get j = s.moves.get j) ∧ (t.moves.get i).setting = (s.moves.get i).setting ∧
      ((t.moves.get i).move = .idle ∨ ∃ b, (t.moves.get i).move = .queued b) := by
  cases hp : (s.moves.get i).pending with
  | none =>
    rw [(h.nothing hp).1]
    refine ⟨fun j hj => Tab.get_set_ne _ hj _, ?_, .inl ?_⟩ <;> rw [Tab.get_set_self]
  | some b =>
    rw [(h.pending b hp).1]
    simp only [State.handTarget]
    refine ⟨fun j hj => ?_, ?_, ?_⟩
    · rw [Tab.get_set_ne _ hj, Tab.get_set_ne _ hj]
    · rw [Tab.get_set_self, MoveCtl.deal_setting, Tab.get_set_self]
    · rw [Tab.get_set_self]
      exact MoveCtl.deal_idle _ _ (by rw [Tab.get_set_self])

theorem State.heldStarted.pair? {i : Input} {s t : State} (h : s.heldStarted i t) (who : Party) (j : Input) :
    t.pair? who j = if j = i ∧ (s.phantoms.get i).held ≠ none then
      (s.pair? who j).map (Pair.turnGate s.rate.fade .fadeOut) else s.pair? who j := by
  cases hh : (s.phantoms.get i).held with
  | none =>
    rw [if_neg fun h => h.2 rfl]
    exact State.pair?_congr (h.1 hh).2 who j
  | some on =>
    rw [State.pair?, (h.2 on hh).2, PairStore.get_mapInput]
    simp [State.pair?]

theorem State.land_eq (i : Input) (a : Setting) (s : State) : s.land i a = (s.landed i a).endMove i .landed := rfl

/-- Everything a landing leaves (R70, R71). -/
theorem State.land_ended (i : Input) (a : Setting) (s : State) : (s.landed i a).moveEnded i .landed (s.land i a) :=
  State.endMove_ended i .landed (s.landed i a)

theorem State.landed_pair? (i : Input) (a : Setting) (s : State) (who : Party) (j : Input) :
    (s.landed i a).pair? who j = if j = i then
      (s.pair? who j).map (Pair.land (s.moves.get i).status (a.value - s.analog i) a.value) else s.pair? who j :=
  State.pair?_updatePairs ..

theorem State.landed_moves (i : Input) (a : Setting) (s : State) :
    (s.landed i a).moves = s.moves.set i { s.moves.get i with setting := a } := rfl

theorem exec_landing {i : Input} {a : Setting} {s : State} (h : (s.moves.get i).move = .landing a 0) :
    exec (.landing i) s = .next (s.land i a) := by
  show Host.Outcome.next (s.landIfDue i) = _
  rw [State.landIfDue, h]

/-- What LANDING leaves of one pair (R70). -/
theorem State.land_pair {i : Input} {a : Setting} {s : State} {who : Party} {q : Pair} (hq : s.pair? who i = some q) :
    let land := q.land (s.moves.get i).status (a.value - s.analog i) a.value
    (s.land i a).pair? who i = some
      (if (s.phantoms.get i).held = none then land else land.turnGate s.rate.fade .fadeOut) := by
  intro land
  rw [(s.land_ended i a).held.pair?, State.landed_pair?, if_pos rfl, hq]
  show (if i = i ∧ (s.phantoms.get i).held ≠ none then _ else _) = _
  cases hh : (s.phantoms.get i).held with
  | none => rw [if_neg (by simp), if_pos rfl]; rfl
  | some on => rw [if_pos ⟨rfl, nofun⟩, if_neg nofun]; rfl

theorem State.land_analog (i : Input) (a : Setting) (s : State) : (s.land i a).analog i = a.value := by
  have := (s.land_ended i a).moves.2.1
  unfold State.analog
  rw [this, State.landed_moves, Tab.get_set_self]

/-- The events of a landing (R8, R80, R94). -/
theorem State.land_comm (i : Input) (a : Setting) (s : State) : (s.land i a).comm =
    s.comm.tells (s.limitsTold (s.land i a) i ++ [(s.partyLanes, .moved i .landed a)] ++
      (if (s.phantoms.get i).held = none then [] else [s.startTold i])) := by
  have hlimits : (s.landed i a).comm = s.comm.tells (s.limitsTold (s.land i a) i) := by
    refine State.updatePairs_comm i _ (s.modMove i fun m => { m with setting := a }) (s.land i a) ?_ fun who q hq => ?_
    · rw [State.land_analog]
      simp [State.analog, State.modMove]
    · refine ⟨_, State.land_pair hq, ?_⟩
      split <;> simp
  rw [(s.land_ended i a).told, hlimits, List.append_assoc, Comm.tells_append _ (s.limitsTold _ i)]
  rw [State.landed_moves, Tab.get_set_self]
  rfl

/-- What LANDING leaves of a pair, field by field (R70). -/
theorem State.landing_leaves {i : Input} {a : Setting} {s : State} {who : Party} {q : Pair} (hq : s.pair? who i = some q) :
    ∃ q', (s.land i a).pair? who i = some q' ∧ q'.level = q.level ∧ q'.mute = q.mute ∧
        q'.gate = q.gate ∧ q'.sat = q.sat ∧
        q'.dir = (if (s.phantoms.get i).held = none then q.dir else (Pair.turnGate s.rate.fade .fadeOut q).dir) ∧
        (q.level = none →
          q'.trim = q.trim ∧ q'.target = q.target ∧ q'.trimState = q.trimState ∧ q'.phase = q.phase) ∧
        (∀ l, q.level = some l →
          q'.trim = max (-400) (min 240 (q.trim - (a.value - s.analog i))) ∧
          q'.target = max (-400) (min 240 (l - a.value)) ∧
          q'.trimState = q'.stateNow (s.moves.get i).status a.value ∧
          q'.phase = if q'.trimState = .ramping ∧ q.trimState ≠ .ramping then 0 else q.phase) := by
  refine ⟨_, State.land_pair hq, ?_⟩
  obtain ⟨hlevel, hmute, hgate, hsat, hdir⟩ := q.land_frame (s.moves.get i).status (a.value - s.analog i) a.value
  have hnone := Pair.land_none (s.moves.get i).status (a.value - s.analog i) a.value (q := q)
  have hsome := fun l => Pair.land_some (s.moves.get i).status (a.value - s.analog i) a.value (q := q) (l := l)
  generalize q.land (s.moves.get i).status (a.value - s.analog i) a.value = q' at hlevel hmute hgate hsat hdir hnone hsome
  split
  · refine ⟨hlevel, hmute, hgate, hsat, hdir, fun h => ?_, hsome⟩
    rw [hnone h]
    exact ⟨rfl, rfl, rfl, rfl⟩
  · refine ⟨by simp [hlevel], by simp [hmute], by simp [hgate], by simp [hsat],
      Pair.turnGate_dir_congr _ _ hgate hdir hmute, fun h => ?_, fun l h => ?_⟩
    · rw [hnone h]
      simp
    · obtain ⟨h1, h2, h3, h4⟩ := hsome l h
      have hstate : (q'.turnGate s.rate.fade .fadeOut).stateNow (s.moves.get i).status a.value =
          q'.stateNow (s.moves.get i).status a.value := by simp [Pair.stateNow]
      simp only [Pair.turnGate_trim, Pair.turnGate_target, Pair.turnGate_trimState, Pair.turnGate_phase, hstate]
      exact ⟨h1, h2, h3, h4⟩

/-! ## A landing among others -/

/-- Another input's count and the time, which no landing looks at. -/
def State.aside (j : Input) (f : MoveCtl → MoveCtl) (d : Nat) (s : State) : State :=
  { s with moves := s.moves.modify j f, clock := s.clock + d }

section
variable {i j : Input} (h : i ≠ j) (f : MoveCtl → MoveCtl) (d : Nat) (s : State)
include h

theorem State.aside_move : (s.aside j f d).moves.get i = s.moves.get i := Tab.get_modify_ne _ h f

theorem State.aside_modMove (g : MoveCtl → MoveCtl) : (s.aside j f d).modMove i g = (s.modMove i g).aside j f d := by
  unfold State.aside State.modMove
  dsimp only
  rw [Tab.modify_comm _ h.symm]

theorem State.aside_landed (a : Setting) : (s.aside j f d).landed i a = (s.landed i a).aside j f d := by
  have hanalog (u : State) : (u.aside j f d).analog i = u.analog i := by
    unfold State.analog
    rw [State.aside_move h]
  have hupdate (F : Pair → Pair) (u : State) : (u.aside j f d).updatePairs i F = (u.updatePairs i F).aside j f d := by
    unfold State.updatePairs
    rw [hanalog]
    rfl
  unfold State.landed
  rw [State.aside_modMove h, hupdate, State.aside_move h, hanalog]

omit h in
theorem State.aside_startHeld : (s.aside j f d).startHeld i = (s.startHeld i).aside j f d := by
  unfold State.startHeld
  rw [show (s.aside j f d).phantoms = s.phantoms from rfl]
  cases (s.phantoms.get i).held <;> rfl

theorem State.aside_handTarget (b : Setting) : (s.aside j f d).handTarget i b = (s.handTarget i b).aside j f d := by
  have hholds : (s.aside j f d).holds i = s.holds i := by
    unfold State.holds
    rw [State.aside_move h]
    rfl
  have hset (x : MoveCtl) : (s.moves.modify j f).set i x = (s.moves.set i x).modify j f := by
    refine Tab.ext_get fun k => ?_
    simp only [Tab.get_set, Tab.get_modify]
    by_cases hk : k = i
    · simp [hk, h]
    · simp [hk]
  unfold State.handTarget
  rw [State.aside_move h, hholds]
  show State.mk .. = _
  rw [show (s.aside j f d).moves = s.moves.modify j f from rfl, hset]
  rfl

theorem State.aside_dealPending : (s.aside j f d).dealPending i = (s.dealPending i).aside j f d := by
  unfold State.dealPending
  rw [State.aside_move h]
  split
  · exact State.aside_handTarget h f d s _
  all_goals rfl

theorem State.aside_land (a : Setting) : (s.aside j f d).land i a = (s.land i a).aside j f d := by
  have hraise (o : MovedOutcome) (u : State) : (u.aside j f d).raiseMoved i o = (u.raiseMoved i o).aside j f d := by
    unfold State.raiseMoved
    rw [State.aside_move h]
    rfl
  rw [State.land_eq, State.land_eq, State.aside_landed h]
  unfold State.endMove
  rw [State.aside_modMove h, hraise, State.aside_startHeld, State.aside_dealPending h]

end

/-- A count that falls by one, where one is counted (R68). -/
def MoveCtl.countDown (m : MoveCtl) : MoveCtl :=
  match m.move with
  | .landing t (n + 1) => { m with move := .landing t n }
  | .landing _ 0 => m
  | .idle => m
  | .queued _ => m
  | .onWire _ => m

/-- A boundary at which no move of an input lands (R68). -/
theorem State.landingBoundary_counts {j : Input} {s : State} (h : ∀ b, (s.moves.get j).move ≠ .landing b 0) :
    s.landingBoundary j = s.modMove j MoveCtl.countDown := by
  have hid (hsame : (s.moves.get j).countDown = s.moves.get j) : s.modMove j MoveCtl.countDown = s := by
    unfold State.modMove
    rw [Tab.modify_id _ _ hsame]
  unfold State.landingBoundary
  split
  · rename_i t hm
    exact absurd hm (h t)
  · rename_i t n hm
    unfold State.modMove
    simp only [Tab.modify, MoveCtl.countDown, hm]
  all_goals
    rename_i hm
    exact (hid (by unfold MoveCtl.countDown; rw [hm])).symm

theorem State.landingBoundary_lands {i : Input} {a : Setting} {s : State} (h : (s.moves.get i).move = .landing a 0) :
    s.landingBoundary i = s.land i a := by
  unfold State.landingBoundary
  rw [h]

theorem State.landingBoundary_other {i j : Input} (h : i ≠ j) (s : State) :
    (s.landingBoundary j).moves.get i = s.moves.get i := by
  by_cases hdue : ∃ a, (s.moves.get j).move = .landing a 0
  · obtain ⟨a, ha⟩ := hdue
    rw [State.landingBoundary_lands ha, (s.land_ended j a).moves.1 i h, State.landed_moves, Tab.get_set_ne _ h]
  · rw [State.landingBoundary_counts (not_exists.mp hdue)]
    exact Tab.get_modify_ne _ h _

theorem State.landingBoundaries_other {i : Input} (l : List Input) (h : i ∉ l) (s : State) :
    (l.foldl (fun acc j => acc.landingBoundary j) s).moves.get i = s.moves.get i := by
  induction l generalizing s with
  | nil => rfl
  | cons j l ih =>
    obtain ⟨hj, hl⟩ : i ≠ j ∧ i ∉ l := by simpa using h
    exact (ih hl _).trans (State.landingBoundary_other hj s)

/-- A landing comes before or behind the boundaries of inputs at which no move lands. -/
theorem State.landingBoundaries_land {i : Input} {a : Setting} (l : List Input) {s : State}
    (hl : ∀ j ∈ l, i ≠ j ∧ ∀ b, (s.moves.get j).move ≠ .landing b 0) (hnd : l.Nodup) :
    (l.foldl (fun acc j => acc.landingBoundary j) s).land i a =
      l.foldl (fun acc j => acc.landingBoundary j) (s.land i a) := by
  induction l generalizing s with
  | nil => rfl
  | cons j l ih =>
    obtain ⟨hij, hnot⟩ := hl j List.mem_cons_self
    obtain ⟨hjl, hnd⟩ := List.nodup_cons.mp hnd
    have hsame : ∀ b, ((s.land i a).moves.get j).move ≠ .landing b 0 := fun b => by
      rw [(s.land_ended i a).moves.1 j hij.symm, State.landed_moves, Tab.get_set_ne _ hij.symm]
      exact hnot b
    have hrest : ∀ k ∈ l, i ≠ k ∧ ∀ b, ((s.landingBoundary j).moves.get k).move ≠ .landing b 0 := fun k hk => by
      rw [State.landingBoundary_other (fun heq : k = j => hjl (heq ▸ hk))]
      exact hl k (List.mem_cons_of_mem _ hk)
    rw [List.foldl_cons, List.foldl_cons, ih hrest hnd, State.landingBoundary_counts hnot, State.landingBoundary_counts hsame]
    exact congrArg (l.foldl _) (State.aside_land hij MoveCtl.countDown 0 s a)

/-- The inputs before one. -/
theorem allInputs_split (i : Input) : ∃ before behind, allInputs = before ++ i :: behind ∧ before.Nodup ∧
    ∀ j ∈ before, j < i := by
  obtain ⟨before, behind, h⟩ := List.append_of_mem (List.mem_finRange i)
  have hnd := List.nodup_finRange 48
  have hlt := List.pairwise_lt_finRange 48
  rw [h] at hnd hlt
  exact ⟨before, behind, h, (List.nodup_append.mp hnd).1,
    fun j hj => (List.pairwise_append.mp hlt).2.2 j hj i List.mem_cons_self⟩

theorem State.tick_land {i : Input} {a : Setting} (s : State) : s.tick.land i a = (s.land i a).tick := by
  have htick (j : Input) (u : State) : u.tick = u.aside j id u.rate.period := by
    rw [State.aside, Tab.modify_id _ _ rfl]
    rfl
  obtain ⟨j, hj⟩ : ∃ j : Input, i ≠ j := ⟨if i = 0 then 1 else 0, by split <;> simp_all⟩
  rw [htick j s, State.aside_land hj, htick j, State.land_rate]

/-- The landings of a boundary are those it has once the first of them has been made (R68). -/
theorem State.tick_landings {i : Input} {a : Setting} {s : State} (h : (s.moves.get i).move = .landing a 0)
    (hfirst : ∀ j < i, ∀ b, (s.moves.get j).move ≠ .landing b 0) : s.tick.landings = (s.land i a).tick.landings := by
  obtain ⟨before, behind, hsplit, hnd, hlt⟩ := allInputs_split i
  have hnot : i ∉ before := fun hi => lt_irrefl i (hlt i hi)
  unfold State.landings
  rw [hsplit, List.foldl_append, List.foldl_append, List.foldl_cons, List.foldl_cons, ← State.tick_land]
  congr 1
  rw [State.landingBoundary_lands (a := a) (by rw [State.landingBoundaries_other before hnot]; exact h)]
  rw [State.landingBoundaries_land (s := s.tick) before (fun j hj => ⟨(ne_of_lt (hlt j hj)).symm, hfirst j (hlt j hj)⟩) hnd]
  have hat := State.landingBoundaries_other before hnot (s.tick.land i a)
  generalize before.foldl (fun acc j => State.landingBoundary j acc) (s.tick.land i a) = u at hat
  have hmove := (s.tick.land_ended i a).moves.2.2
  rw [← hat] at hmove
  unfold State.landingBoundary
  rcases hmove with hm | ⟨b, hm⟩ <;> rw [hm]

/-- Settles O12. -/
theorem landingJumpsTheTrims : Obligations.LandingJumpsTheTrims := by
  refine ⟨fun x i a s u h hfirst hu => ?_, fun i a s h => ⟨_, exec_landing h, ?_⟩⟩
  · obtain rfl : s.land i a = u := Host.Outcome.next.inj ((exec_landing h).symm.trans hu)
    show Host.Outcome.next (s.samplePeriod x) = .next ((s.land i a).samplePeriod x)
    unfold State.samplePeriod
    rw [State.tick_landings h hfirst]
  · intro idle
    have hended := s.land_ended i a
    have hidle : (s.landed i a).moves.set i { (s.landed i a).moves.get i with move := .idle } = s.moves.set i idle := by
      rw [State.landed_moves, Tab.get_set_self, Tab.set_set]
    have hpending : ((s.landed i a).moves.get i).pending = (s.moves.get i).pending := by
      rw [State.landed_moves, Tab.get_set_self]
    refine ⟨fun who q hq => State.landing_leaves hq, fun who j hj => ?_, fun hp => ?_, fun b hb => ?_, fun hn => (hended.held.1 hn).1,
      fun on hon => (hended.held.2 on hon).1, s.land_comm i a, ?_⟩
    · rw [hended.held.pair?, if_neg fun h => hj h.1, State.landed_pair?, if_neg hj]
    · have := hended.nothing (hpending.trans hp)
      rwa [hidle] at this
    · obtain ⟨hmoves, hbus⟩ := hended.pending b (hpending.trans hb)
      obtain ⟨hm, hb⟩ := State.handTarget_congr i b
        (s := { s with moves := s.moves.set i idle, phantoms := (s.land i a).phantoms })
        (t := { s.landed i a with
          moves := (s.landed i a).moves.set i { (s.landed i a).moves.get i with move := .idle }
          phantoms := (s.land i a).phantoms }) hidle rfl rfl
      exact ⟨hmoves.trans hm, hbus.trans hb⟩
    · exact hended.frame

end Sys2Proof.Machine
end

section
/-! PROOF. The preamp bus: words, wire bytes, what begins, and how writes are decided. -/

namespace Sys2Proof.Machine

/-! ## Words and wire bytes -/

theorem wordPhantom_channelWord {p : Nat} (hp : p < 64) (pad phantom : Bool) :
    wordPhantom (channelWord p pad phantom) = phantom := by
  rw [wordPhantom, BitVec.getLsbD, Nat.testBit_eq_decide_div_mod_eq, channelWord_toNat hp]
  cases pad <;> cases phantom <;> simp <;> omega

theorem Command.gain_word (i : Input) (pad : Bool) {p : Nat} (w : Byte) (hp : p ≤ 60) :
    (Command.word (.gain i pad p) w).extractLsb' 0 6 = BitVec.ofNat 6 p ∧
      (Command.word (.gain i pad p) w).getLsbD 6 = pad ∧ (Command.word (.gain i pad p) w).getLsbD 7 = w.getLsbD 7 := by
  have hlt : p < 64 := by omega
  refine ⟨?_, wordPad_channelWord hlt pad _, wordPhantom_channelWord hlt pad _⟩
  apply BitVec.eq_of_toNat_eq
  rw [BitVec.extractLsb'_toNat, Command.word, channelWord_toNat hlt, BitVec.toNat_ofNat, Nat.shiftRight_zero]
  split <;> split <;> omega

theorem Command.phantom_word (i : Input) (on : Bool) (w : Byte) :
    (Command.word (.phantom i on) w).extractLsb' 0 7 = w.extractLsb' 0 7 ∧
      (Command.word (.phantom i on) w).getLsbD 7 = on := by
  have hgain := wordGain_eq w
  have hlt : wordGain w < 64 := by omega
  refine ⟨?_, wordPhantom_channelWord hlt _ on⟩
  apply BitVec.eq_of_toNat_eq
  rw [BitVec.extractLsb'_toNat, BitVec.extractLsb'_toNat, Command.word, channelWord_toNat hlt, hgain, wordPad_eq,
    Nat.shiftRight_zero, Nat.shiftRight_zero]
  simp only [decide_eq_true_eq]
  split <;> split <;> omega

theorem readValue_iff (r : ReadReply) (v : Byte) : readValue r = some v ↔ r = .bytes 0x06#8 (some v) := by
  cases r with
  | silent => simp [readValue]
  | bytes first second =>
    simp only [readValue, ReadReply.bytes.injEq]
    split <;> simp_all

theorem readWord_iff (r : ReadReply) (w : Byte) : readWord r = some w ↔ r = .bytes 0x06#8 (some w) ∧
    (w.extractLsb' 0 6).toNat ≤ (if w.getLsbD 6 then 40 else 60) := by
  have hgain : (w.extractLsb' 0 6).toNat = wordGain w := by simp [wordGain_eq, BitVec.extractLsb'_toNat]
  have hdomain : inDomain w = true ↔ (w.extractLsb' 0 6).toNat ≤ (if w.getLsbD 6 then 40 else 60) := by
    rw [hgain, inDomain, wordPad]
    split <;> simp
  rw [← hdomain, ← readValue_iff]
  unfold readWord
  cases readValue r with
  | none => simp
  | some v =>
    dsimp only
    constructor
    · intro h
      split at h
      · cases h
        exact ⟨rfl, ‹_›⟩
      · cases h
    · rintro ⟨h, hd⟩
      cases h
      exact if_pos hd

theorem addressByte_write (c : Chip) : addressByte c false = BitVec.ofNat 8 (0x62 + 2 * c.val) := by
  simp only [addressByte, byteOf]
  congr 1
  simp
  omega

theorem addressByte_read (c : Chip) : addressByte c true = BitVec.ofNat 8 (0x63 + 2 * c.val) := by
  simp only [addressByte, byteOf]
  congr 1
  simp
  omega

/-- Settles O47. -/
theorem wordsAndWireBytes : Obligations.WordsAndWireBytes := by
  refine ⟨fun i pad p w hp => Command.gain_word i pad w hp, Command.phantom_word, readValue_iff, readWord_iff,
    fun c k cmd old new hcmd => ?_, fun c k => ?_⟩
  · simp [Txn.wire, hcmd, addressByte_write, addressByte_read, byteOf]
  · simp [Txn.wire, addressByte_write, addressByte_read, byteOf]

/-! ## What begins -/

/-- Settles O48. -/
theorem theHeadOfTheQueueBegins : Obligations.TheHeadOfTheQueueBegins := by
  intro s
  refine ⟨fun c rest h => ?_, fun c old new rest h => ?_, fun c k rest h => ?_, fun hq hready => ⟨fun hok => ?_, fun hf => ?_⟩⟩
  · cases c with
    | gain i pad p =>
      simp only [State.beginNext, Bus.next, h, Bus.start, Bus.txnOf, Option.map_some, Tab.modify, MoveCtl.goOnWire]
      cases (s.moves.get i).move <;> simp
    | phantom i on => simp only [State.beginNext, Bus.next, h, Bus.start, Bus.txnOf, Option.map_some]
  · simp only [State.beginNext, Bus.next, h, Bus.start, Bus.txnOf, Option.map_some]
  · simp only [State.beginNext, Bus.next, h, Bus.start, Bus.txnOf, Option.map_some]
  · simp only [State.beginNext, Bus.next, hq, hready, Bus.start, Bus.pollTxn, hok, Option.map_some]
  · simp only [State.beginNext, Bus.next, hq, hready, Bus.start, Bus.pollTxn, hf, Option.map_some]

/-! ## The end of a transaction -/

section
variable {s : State} {rule : Txn → State → Option State} {t : Txn}

theorem State.endTxn_idle (h : s.bus.flight = none) : s.endTxn rule = s := by rw [State.endTxn, h]

theorem State.endTxn_kept {after : State} (h : s.bus.flight = some { txn := t, discard := false })
    (hr : rule t s = some after) : s.endTxn rule = after := by
  rw [State.endTxn, h]
  dsimp only
  rw [hr]
  rfl

/-- The result of a transaction that a RESTART left on the wire is discarded (R113). -/
theorem State.endTxn_discarded (h : s.bus.flight = some { txn := t, discard := true }) (hr : (rule t s).isSome = true) :
    s.endTxn rule =
      { s with bus := { s.bus with flight := some { txn := .startIdentity 0, discard := false } } } := by
  obtain ⟨after, ha⟩ := Option.isSome_iff_exists.mp hr
  rw [State.endTxn, h]
  dsimp only
  rw [ha]
  rfl

end

/-! ## The decision of a write -/

/-- A gain command that is taken (R66, R103). -/
theorem State.gain_taken {s : State} {i : Input} {a : Setting} (h : (s.moves.get i).move = .onWire a) (pad : Bool) (p : Nat)
    (new : Byte) : s.writeTaken (.gain i pad p) new =
      { s with
        bus := { s.bus with shadow := s.bus.shadow.set i new }
        moves := s.moves.set i { s.moves.get i with move := .landing a s.align } } := by
  simp only [State.writeTaken, State.moveTaken, State.modBus, h, State.modMove, Tab.modify, Command.input]

/-- A phantom command that is taken (R86, R103). -/
theorem State.phantom_taken {s : State} {i : Input} {b : Bool} (hw : (s.phantoms.get i).seq = .writing)
    (ht : (s.phantoms.get i).target = some b) (on : Bool) (new : Byte) : s.writeTaken (.phantom i on) new =
      { s with
        bus := { s.bus with shadow := s.bus.shadow.set i new }
        phantoms := s.phantoms.set i
          { s.phantoms.get i with phantom := if b then .on else .off, outcome := some .switched, seq := .settling
                                  settle := some s.clock } } := by
  simp only [State.writeTaken, State.phantomTaken, State.modBus, hw, if_true, State.modPhantom, State.enterSettling, ht,
    Tab.modify, Tab.get_set_self, Tab.set_set, Command.input, phantomOf]

/-- Reads join the queue ahead of its writes (R102). -/
theorem Bus.addReads_eq {b : Bus} {reads writes : List QueueEntry} (rs : List QueueEntry) (hq : b.queue = reads ++ writes)
    (hr : ∀ e ∈ reads, e.isWrite = false) (hw : ∀ e, writes.head? = some e → e.isWrite = true) :
    b.addReads rs = { b with queue := reads ++ rs ++ writes } := by
  have hr' : ∀ e ∈ reads, (!e.isWrite) = true := fun e he => by rw [hr e he]; rfl
  have htake : writes.takeWhile (fun e => !e.isWrite) = [] ∧ writes.dropWhile (fun e => !e.isWrite) = writes := by
    cases writes with
    | nil => exact ⟨rfl, rfl⟩
    | cons e rest => simp [hw e rfl]
  rw [Bus.addReads, hq, List.takeWhile_append_of_pos hr', List.dropWhile_append_of_pos hr', htake.1, htake.2,
    List.append_nil]

/-- A write that its reply does not take is verified (R98, R103). -/
theorem State.writeReplied_verifies {s : State} {c : Command} {old new : Byte} {reply : Option Byte}
    {reads writes : List QueueEntry} (hreply : reply ≠ some 0x06#8) (hq : s.bus.queue = reads ++ writes)
    (hr : ∀ e ∈ reads, e.isWrite = false) (hw : ∀ e, writes.head? = some e → e.isWrite = true) :
    s.writeReplied c old new reply = { s with bus := { s.bus with queue := reads ++ .verify c old new :: writes } } := by
  rw [State.writeReplied, if_neg hreply, State.modBus, Bus.addReads_eq _ hq hr hw, List.append_assoc,
    List.singleton_append]

/-- Settles O49. -/
theorem writeReplyDecidesOrVerifies : Obligations.WriteReplyDecidesOrVerifies := by
  intro old new s
  have hends {c : Command} {reply : Byte} (h : s.bus.flight = some { txn := .write c old new, discard := false }) :
      exec (.writeDecided reply) s = .next (s.writeReplied c old new (some reply)).beginNext :=
    congrArg Host.Outcome.next (State.endTxn_kept h rfl)
  refine ⟨fun i pad p a h hm => (hends h).trans ?_, fun i on b h hw ht => (hends h).trans ?_,
    fun c reply reads writes h hreply hq hr hw => (hends h).trans ?_⟩
  · rw [State.writeReplied, if_pos rfl, State.gain_taken hm]
  · rw [State.writeReplied, if_pos rfl, State.phantom_taken hw ht]
  · rw [State.writeReplied_verifies (fun h => hreply (Option.some.inj h)) hq hr hw]

/-- A move that fails (R67). -/
theorem State.moveNotTaken_ended {s : State} {i : Input} {a : Setting} (h : (s.moves.get i).move = .onWire a) :
    (s.modMove i fun m => { m with failed := some a }).moveEnded i .failed (s.moveNotTaken i) := by
  have : s.moveNotTaken i = (s.modMove i fun m => { m with failed := some a }).endMove i .failed := by
    rw [State.moveNotTaken, h]
  rw [this]
  exact State.endMove_ended ..

/-- A sequence that fails in WRITING (R86). -/
theorem State.phantomNotTaken_eq {s : State} {i : Input} (hw : (s.phantoms.get i).seq = .writing) :
    s.phantomNotTaken i =
      { s with
        phantoms := s.phantoms.set i
          { s.phantoms.get i with reversal := none, outcome := some .failed, seq := .fadeIn, settle := none }
        pairs := s.pairs.mapInput i (Pair.turnGate s.rate.fade .fadeIn) } := by
  rw [State.phantomNotTaken, if_pos hw, State.enterFadeIn_eq]
  simp [State.modPhantom, Tab.modify]

/-- Settles O50. -/
theorem verifyReadDecides : Obligations.VerifyReadDecides := by
  intro r old new s
  have hends {c : Command} (h : s.bus.flight = some { txn := .verify c old new, discard := false }) :
      exec (.verifyRead r) s = .next (s.verified c old new (readWord r)).beginNext :=
    congrArg Host.Outcome.next (State.endTxn_kept h rfl)
  refine ⟨fun i pad p a h hm => ⟨fun hr => (hends h).trans ?_, fun hne hr => ⟨s.moveNotTaken i, (hends h).trans ?_, ?_⟩⟩,
    fun i on b h hw ht => ⟨fun hr => (hends h).trans ?_, fun hne hr => (hends h).trans ?_⟩,
    fun c h hold hnew => ⟨s.chipFault (chipOf c.input), (hends h).trans ?_, State.chipFault_faulted _ _⟩⟩
  · rw [State.verified, if_pos hr, State.gain_taken hm]
  · rw [State.verified, hr, if_neg fun h => hne (Option.some.inj h), if_pos rfl]
    rfl
  · intro failed
    have hended := State.moveNotTaken_ended hm
    generalize s.moveNotTaken i = t at hended
    have hat : (s.modMove i fun m => { m with failed := some a }).moves.get i = { s.moves.get i with failed := some a } :=
      Tab.get_modify_self ..
    have hfailed : (s.modMove i fun m => { m with failed := some a }).moves.set i
        { (s.modMove i fun m => { m with failed := some a }).moves.get i with move := .idle } = failed := by
      rw [hat]
      exact Tab.set_set ..
    refine ⟨fun hp => ?_, fun b hb => ?_, hended.held.1, hended.held.2, ?_, ?_⟩
    · have := hended.nothing (by rw [hat]; exact hp)
      rwa [hfailed] at this
    · obtain ⟨hmoves, hbus⟩ := hended.pending b (by rw [hat]; exact hb)
      rw [hfailed] at hmoves hbus
      exact ⟨hmoves, hbus⟩
    · have := hended.told
      rw [hat] at this
      exact this
    · rw [hended.frame]
      rfl
  · rw [State.verified, if_pos hr, State.phantom_taken hw ht]
  · rw [State.verified, hr, if_neg fun h => hne (Option.some.inj h), if_pos rfl]
    exact congrArg (fun u => Host.Outcome.next (State.beginNext u)) (State.phantomNotTaken_eq hw)
  · rw [State.verified, if_neg hnew, if_neg hold]

end Sys2Proof.Machine
end

section
/-! PROOF. The preamp bus: the poll, probes, and the start-up pass. -/

namespace Sys2Proof.Machine

/-! ## The poll -/

/-- What the two latches of a status read change (R93, R106). -/
structure State.latched (i : Input) (clip fault : Bool) (s t : State) : Prop where
  bus : t.bus = { s.bus with
    clips := if clip = true ∧ s.bus.clips.get i < 65535 then s.bus.clips.set i (s.bus.clips.get i + 1) else s.bus.clips
    shadow := if fault then s.bus.shadow.set i (s.bus.shadow.get i &&& 0x7F#8) else s.bus.shadow }
  known : (fault = false ∨ ((s.phantoms.get i).phantom = .faulted ∧ (s.phantoms.get i).seq = .idle)) →
    t.phantoms = s.phantoms ∧ t.pairs = s.pairs
  settling : fault = true → (s.phantoms.get i).seq = .settling → (s.phantoms.get i).target = some true →
    t.phantoms = s.phantoms.set i
      { s.phantoms.get i with phantom := .faulted, reversal := none, outcome := some .failed, seq := .fadeIn
                              settle := none } ∧
    t.pairs = s.pairs.mapInput i (Pair.turnGate s.rate.fade .fadeIn)
  other : fault = true → ((s.phantoms.get i).seq ≠ .settling ∨ (s.phantoms.get i).target ≠ some true) →
    t.phantoms = s.phantoms.set i { s.phantoms.get i with phantom := .faulted } ∧ t.pairs = s.pairs
  told : t.comm = s.comm.tells
    ((if clip = true ∧ s.bus.clips.get i < 65535 then
        [(s.clipLanes i, .clip i (s.bus.clips.get i + 1))] else []) ++
      (if fault = true ∧ ¬((s.phantoms.get i).phantom = .faulted ∧ (s.phantoms.get i).seq = .idle) then
        [(s.partyLanes, .phantomState i .faulted (s.phantoms.get i).seq .fault)] else []))
  frame : t = { s with bus := t.bus, phantoms := t.phantoms, pairs := t.pairs, comm := t.comm }

/-- The clip latch (R106). -/
theorem State.clipLatched_eq (i : Input) (s : State) : s.clipLatched i =
    { s with
      bus := { s.bus with clips := if s.bus.clips.get i < 65535 then s.bus.clips.set i (s.bus.clips.get i + 1)
                                   else s.bus.clips }
      comm := s.comm.tells (if s.bus.clips.get i < 65535 then
        [(s.clipLanes i, .clip i (s.bus.clips.get i + 1))] else []) } := by
  unfold State.clipLatched
  rw [show Config.counterTop = 65535 from rfl]
  by_cases h : s.bus.clips.get i < 65535
  · simp only [if_pos h, State.modBus, State.raise, Tab.get_set_self]
    rfl
  · simp only [if_neg h]
    rfl

/-- A phantom fault report (R93). -/
theorem State.phantomFault_known {i : Input} {s : State}
    (h : (s.phantoms.get i).phantom = .faulted ∧ (s.phantoms.get i).seq = .idle) : s.phantomFault i = s := by
  rw [State.phantomFault, if_pos h]

theorem State.phantomFault_settling {i : Input} {s : State} (hseq : (s.phantoms.get i).seq = .settling)
    (ht : (s.phantoms.get i).target = some true) : s.phantomFault i =
      { s with
        phantoms := s.phantoms.set i
          { s.phantoms.get i with phantom := .faulted, reversal := none, outcome := some .failed, seq := .fadeIn
                                  settle := none }
        pairs := s.pairs.mapInput i (Pair.turnGate s.rate.fade .fadeIn)
        comm := s.comm.tells [(s.partyLanes, .phantomState i .faulted (s.phantoms.get i).seq .fault)] } := by
  rw [State.phantomFault, if_neg (by rw [hseq]; exact fun h => nomatch h.2), State.faultDuringSettle,
    if_pos (by simp [State.modPhantom, hseq, ht]), State.enterFadeIn_eq]
  simp [State.modPhantom, Tab.modify, State.raisePhantom, State.broadcast, State.raise, Comm.tells, State.partyLanes]

theorem State.phantomFault_other {i : Input} {s : State}
    (h : ¬((s.phantoms.get i).phantom = .faulted ∧ (s.phantoms.get i).seq = .idle))
    (hs : (s.phantoms.get i).seq ≠ .settling ∨ (s.phantoms.get i).target ≠ some true) : s.phantomFault i =
      { s with
        phantoms := s.phantoms.set i { s.phantoms.get i with phantom := .faulted }
        comm := s.comm.tells [(s.partyLanes, .phantomState i .faulted (s.phantoms.get i).seq .fault)] } := by
  have hnot : ¬((s.phantoms.get i).seq = .settling ∧ (s.phantoms.get i).target = some true) := fun ⟨h1, h2⟩ => by
    rcases hs with hs | hs
    · exact hs h1
    · exact hs h2
  rw [State.phantomFault, if_neg h, State.faultDuringSettle, if_neg (by simpa [State.modPhantom] using hnot)]
  simp [State.modPhantom, Tab.modify, State.raisePhantom, State.broadcast, State.raise, Comm.tells, State.partyLanes]

/-- The latches of a status read, the clip latch first (R106). -/
def State.latches (i : Input) (clip fault : Bool) (s : State) : State :=
  let s2 := if clip then s.clipLatched i else s
  if fault then s2.faultLatched i else s2

theorem State.latches_fault_false (i : Input) (clip : Bool) (s : State) : s.latched i clip false (s.latches i clip false) := by
  cases clip
  · exact ⟨by simp [State.latches], fun _ => ⟨rfl, rfl⟩, nofun, nofun, by simp [State.latches], rfl⟩
  · rw [show s.latches i true false = s.clipLatched i from rfl, State.clipLatched_eq]
    refine ⟨by simp, fun _ => ⟨rfl, rfl⟩, nofun, nofun, by simp, rfl⟩

theorem State.latches_latched (i : Input) (clip fault : Bool) (s : State) :
    s.latched i clip fault (s.latches i clip fault) := by
  cases fault with
  | false => exact s.latches_fault_false i clip
  | true =>
    obtain ⟨hbus, hknown, -, -, htold, hframe⟩ := s.latches_fault_false i clip
    have hlatches : s.latches i clip true = (s.latches i clip false).faultLatched i := by
      cases clip <;> rfl
    rw [hlatches]
    generalize s.latches i clip false = u at hbus hknown htold hframe
    obtain ⟨hph, hpairs⟩ := hknown (.inl rfl)
    have hfault : u.faultLatched i =
        (u.modBus fun b => { b with shadow := b.shadow.set i (dropPhantom (b.shadow.get i)) }).phantomFault i := rfl
    have hv : (u.modBus fun b => { b with shadow := b.shadow.set i (dropPhantom (b.shadow.get i)) }) =
        { s with bus := { s.bus with
                   clips := if clip = true ∧ s.bus.clips.get i < 65535 then s.bus.clips.set i (s.bus.clips.get i + 1)
                     else s.bus.clips
                   shadow := s.bus.shadow.set i (s.bus.shadow.get i &&& 0x7F#8) }
                 comm := s.comm.tells (if clip = true ∧ s.bus.clips.get i < 65535 then
                   [(s.clipLanes i, .clip i (s.bus.clips.get i + 1))] else []) } := by
      rw [hframe, State.modBus, hph, hpairs, hbus, htold]
      simp [dropPhantom]
    rw [hfault, hv]
    by_cases hk : (s.phantoms.get i).phantom = .faulted ∧ (s.phantoms.get i).seq = .idle
    · rw [State.phantomFault_known (by exact hk)]
      refine ⟨rfl, fun _ => ⟨rfl, rfl⟩, fun _ hs => ?_, fun _ _ => ⟨?_, rfl⟩, ?_, rfl⟩
      · rw [hk.2] at hs
        cases hs
      · refine (Tab.modify_id s.phantoms i (f := fun q => { q with phantom := .faulted }) ?_).symm
        rw [← hk.1]
      · simp [hk]
    · by_cases hs : (s.phantoms.get i).seq = .settling ∧ (s.phantoms.get i).target = some true
      · rw [State.phantomFault_settling (by exact hs.1) (by exact hs.2)]
        refine ⟨rfl, fun h => ?_, fun _ _ _ => ⟨rfl, rfl⟩, fun _ h => ?_, ?_, rfl⟩
        · exact absurd (h.resolve_left nofun) hk
        · rcases h with h | h
          · exact absurd hs.1 h
          · exact absurd hs.2 h
        · rw [Comm.tells_append]
          simp [hk]
          rfl
      · have hother : (s.phantoms.get i).seq ≠ .settling ∨ (s.phantoms.get i).target ≠ some true := by
          by_cases h1 : (s.phantoms.get i).seq = .settling
          · exact .inr fun h2 => hs ⟨h1, h2⟩
          · exact .inl h1
        rw [State.phantomFault_other (by exact hk) (by exact hother)]
        refine ⟨rfl, fun h => ?_, fun _ h1 h2 => absurd ⟨h1, h2⟩ hs, fun _ _ => ⟨rfl, rfl⟩, ?_, rfl⟩
        · exact absurd (h.resolve_left nofun) hk
        · rw [Comm.tells_append]
          simp [hk]
          rfl

/-- Settles O51. -/
theorem statusReadReportsItsLatches : Obligations.StatusReadReportsItsLatches := by
  intro r i s h
  have hends : exec (.statusRead r) s = .next (s.statusEnded i (readValue r)).beginNext :=
    congrArg Host.Outcome.next (State.endTxn_kept h rfl)
  refine ⟨fun hr => ⟨State.chipFault (chipOf i) (s.modBus fun b => { b with pollPos := nextInput i }), ?_, ?_⟩, rfl,
    fun v hr => ⟨State.latches i (v.getLsbD 0) (v.getLsbD 1) (s.modBus fun b => { b with pollPos := nextInput i }), ?_, ?_⟩⟩
  · rw [hr] at hends
    exact hends
  · exact State.chipFault_faulted _ _
  · rw [hr] at hends
    exact hends
  · obtain ⟨hbus, hknown, hsettling, hother, htold, hframe⟩ := State.latches_latched i (v.getLsbD 0) (v.getLsbD 1)
      (s.modBus fun b => { b with pollPos := nextInput i })
    exact ⟨hbus, hknown, hsettling, hother, htold, hframe⟩

/-! ## Probes -/

/-- A probe begins (R109). -/
theorem State.identityEnded_probes {s : State} {c : Chip} {reads writes : List QueueEntry}
    (hq : s.bus.queue = reads ++ writes) (hr : ∀ e ∈ reads, e.isWrite = false)
    (hw : ∀ e, writes.head? = some e → e.isWrite = true) : s.identityEnded c (some 0x5A#8) =
      { s with bus := { s.bus with
          pollPos := afterChip c
          chips := s.bus.chips.set c .probing
          probe := []
          queue := reads ++ ([0, 1, 2, 3, 4, 5, 6, 7].map fun k => QueueEntry.adoption c k) ++ writes } } := by
  unfold State.identityEnded State.modBus
  dsimp only
  rw [if_pos rfl, Bus.addReads_eq (reads := reads) (writes := writes) _ (by exact hq) hr hw]
  rfl

theorem State.identityEnded_other {s : State} {c : Chip} {v : Option Byte} (hv : v ≠ some 0x5A#8) :
    s.identityEnded c v = { s with bus := { s.bus with pollPos := afterChip c } } := by
  unfold State.identityEnded State.modBus
  dsimp only
  rw [if_neg hv]

/-- Settles O52. -/
theorem probesRecoverAChip : Obligations.ProbesRecoverAChip := by
  refine ⟨fun r c s h => ?_, fun r c k s h => ?_⟩
  · have hends : exec (.identityRead r) s = .next (s.identityEnded c (readValue r)).beginNext :=
      congrArg Host.Outcome.next (State.endTxn_kept h rfl)
    refine ⟨rfl, fun hv => hends.trans ?_, fun reads writes hv hq hr hw => hends.trans ?_⟩
    · rw [State.identityEnded_other hv]
    · rw [hv, State.identityEnded_probes hq hr hw]
  · have hends : exec (.adoptionRead r) s = .next (s.adoptionEnded c k (readWord r)).beginNext :=
      congrArg Host.Outcome.next (State.endTxn_kept h rfl)
    refine ⟨fun hw => ?_, fun w hw hk => ?_, fun w hw hk hlen hidle => ⟨_, ?_, State.adoptChip_adopted false c _ s hidle⟩⟩
    · rw [hw] at hends
      exact hends
    · rw [hw, State.adoptionEnded, if_neg hk] at hends
      exact hends
    · rw [hw, State.adoptionEnded, if_pos hk] at hends
      exact hends

/-! ## The start-up pass -/

/-- The state of a chip that the start-up pass gives up (R112, R113). -/
def State.chipLeft (c : Chip) (s : State) : State :=
  { s with bus := { s.bus with chips := s.bus.chips.set c .faulted, probe := [] }
           comm := s.comm.tells [([.panel], .chip c .faulted)] }

theorem State.passFailsChip_eq (c : Chip) (s : State) : s.passFailsChip c = (s.chipLeft c).nextChip c := by
  have : State.raiseChip c (s.modBus fun b => { b with chips := b.chips.set c .faulted, probe := [] }) = s.chipLeft c := by
    simp [State.raiseChip, State.raise, State.modBus, State.chipLeft, Comm.tells]
  rw [State.passFailsChip, this]

/-- The pass gives a chip up and goes on (R112, R113). -/
theorem State.passFailsChip_passedOn (c : Chip) (s : State) : (s.chipLeft c).passedOn c (s.passFailsChip c) := by
  rw [State.passFailsChip_eq]
  exact State.nextChip_passedOn c _

/-- Settles O53. -/
theorem theStartUpPassReadsItsChips : Obligations.TheStartUpPassReadsItsChips := by
  refine ⟨fun r c s h => ?_, fun r c k s h => ?_⟩
  · have hends : exec (.startUpIdentityRead r) s = .next (s.startIdentityEnded c (readValue r)) :=
      congrArg Host.Outcome.next (State.endTxn_kept h rfl)
    rw [State.startIdentityEnded] at hends
    refine ⟨fun hv ha => ?_, fun hv ha => ?_, fun hv => ⟨_, s.chipLeft c, ?_, s.passFailsChip_passedOn c, rfl⟩⟩
    · rw [if_pos hv, if_neg (by simp [ha])] at hends
      exact hends
    · rw [if_pos hv, if_pos ha] at hends
      exact hends
    · rw [if_neg hv] at hends
      exact hends
  · have hends : exec (.startUpAdoptionRead r) s = .next (s.startAdoptionEnded c k (readWord r)) :=
      congrArg Host.Outcome.next (State.endTxn_kept h rfl)
    refine ⟨fun hw => ⟨_, s.chipLeft c, ?_, s.passFailsChip_passedOn c, rfl⟩, fun w hw hk => ?_,
      fun w hw hk hlen hidle => ⟨_, s.adoptChip true c (s.bus.probe ++ [w]), ?_, State.nextChip_passedOn c _,
        State.adoptChip_adopted true c _ s hidle⟩⟩
    · rw [hw] at hends
      exact hends
    · rw [hw, State.startAdoptionEnded, dif_pos hk] at hends
      exact hends
    · rw [hw, State.startAdoptionEnded, dif_neg (by rw [hk]; decide)] at hends
      exact hends

end Sys2Proof.Machine
end

section
/-! PROOF. Start-up writes, and transactions that end unanswered. -/

namespace Sys2Proof.Machine

/-! ## Start-up writes -/

/-- An input that a start-up write has made KNOWN (R77, R95, R112). -/
def State.startWritten (i : Input) (s : State) : State :=
  ((s.modBus fun b => { b with shadow := b.shadow.set i 0#8 }).becomeKnown i (wordSetting 0#8)).modPhantom i
    fun q => { q with phantom := .off }

/-- Everything a start-up write leaves of its input, the events aside (R77, R95, R112). -/
structure State.startKnown (i : Input) (s u : State) : Prop where
  bus : u.bus = { s.bus with shadow := s.bus.shadow.set i 0#8, flight := u.bus.flight, chips := u.bus.chips }
  moves : u.moves = s.moves.set i
    { s.moves.get i with setting := { pad := false, p := 0 }, failed := none, status := .known }
  phantoms : u.phantoms = s.phantoms.set i { s.phantoms.get i with phantom := .off }
  pair : ∀ who q, s.pair? who i = some q → ∃ q', u.pair? who i = some q' ∧ q.retargeted 0 q'
  others : ∀ who j, j ≠ i → u.pair? who j = s.pair? who j
  frame : u = { s with bus := u.bus, moves := u.moves, phantoms := u.phantoms, pairs := u.pairs, comm := u.comm }

theorem wordSetting_zero : wordSetting 0#8 = { pad := false, p := 0 } := by decide

theorem State.startWritten_pair? (i : Input) (s : State) (who : Party) (j : Input) :
    (s.startWritten i).pair? who j = if j = i then (s.pair? who j).map (Pair.retarget .known 0) else s.pair? who j :=
  State.pair?_updatePairs ..

theorem State.startWritten_known (i : Input) (s : State) : s.startKnown i (s.startWritten i) := by
  refine ⟨rfl, ?_, rfl, fun who q hq => ⟨Pair.retarget .known 0 q, ?_, Pair.retarget_retargeted 0 q⟩, fun who j hj => ?_, rfl⟩
  · rw [← wordSetting_zero]
    rfl
  · rw [State.startWritten_pair?, if_pos rfl, hq]
    rfl
  · rw [State.startWritten_pair?, if_neg hj]

/-- The LIMIT events of a start-up write, told by a later state in which its input stands as the write has left it. -/
theorem State.startWritten_comm {i : Input} {s t : State} (hm : t.moves = (s.startWritten i).moves)
    (hp : t.pairs = (s.startWritten i).pairs) : (s.startWritten i).comm = s.comm.tells (s.limitsTold t i) := by
  refine State.updatePairs_comm i _ ((s.modBus fun b => { b with shadow := b.shadow.set i 0#8 }).modMove i fun m =>
    { m with setting := wordSetting 0#8, failed := none, status := .known }) t ?_ fun who q hq => ?_
  · unfold State.analog
    rw [hm]
    rfl
  · refine ⟨Pair.retarget .known 0 q, ?_, rfl, rfl, rfl⟩
    rw [State.pair?_congr hp, State.startWritten_pair?, if_pos rfl, show s.pair? who i = some q from hq]
    rfl

/-- A start-up write that another follows (R112). -/
theorem State.startWriteTaken_next {c : Chip} {k : Channel} (s : State) (h : k.val + 1 < 8) :
    s.startWriteTaken c k = (s.startWritten (inputAt c k)).passTxn (.startWrite c ⟨k.val + 1, h⟩) := dif_pos h

/-- A chip whose start-up writes have all been taken (R112). -/
def State.chipStarted (c : Chip) (u : State) : State := (u.modBus fun b => { b with chips := b.chips.set c .ok }).raiseChip c

theorem State.startWriteTaken_last {c : Chip} (s : State) :
    s.startWriteTaken c 7 = ((s.startWritten (inputAt c 7)).chipStarted c).nextChip c := by
  unfold State.startWriteTaken
  dsimp only
  rw [dif_neg (by decide)]
  rfl

/-- What a later state of the bus and the records queued leaves of a start-up write. -/
theorem State.startKnown.congr {i : Input} {s u t : State} (h : s.startKnown i u)
    (ht : t = { u with bus := { u.bus with flight := t.bus.flight, chips := t.bus.chips }, comm := t.comm }) :
    s.startKnown i t := by
  obtain ⟨hbus, hmoves, hphantoms, hpair, hothers, hframe⟩ := h
  have hp : t.pairs = u.pairs := by rw [ht]
  refine ⟨?_, ?_, ?_, fun who q hq => ?_, fun who j hj => ?_, ?_⟩
  · rw [ht, hbus]
  · rw [ht, hmoves]
  · rw [ht, hphantoms]
  · rw [State.pair?_congr hp]
    exact hpair who q hq
  · rw [State.pair?_congr hp]
    exact hothers who j hj
  · rw [ht, hframe]

/-- A chip that a start-up write's verify read faults (R73, R112). -/
def State.chipGivenUp (c : Chip) (s : State) : State := ((chipInputs c).foldl (fun acc i => acc.faultMove i) s).chipLeft c

theorem State.startVerified_fails {c : Chip} {k : Channel} {s : State} {w : Option Byte} (h : w ≠ some 0#8) :
    s.startVerified c k w = State.nextChip c (s.chipGivenUp c) := by
  rw [State.startVerified, if_neg h, State.passFailsChip_eq]
  rfl

/-- Settles O54. -/
theorem startUpWritesMakeInputsKnown : Obligations.StartUpWritesMakeInputsKnown := by
  intro c k s h known
  have hends (reply : Option Byte) (v : ReadReply) : exec (.startUpWrite reply v) s =
      .next (if reply = some 0x06#8 then s.startWriteTaken c k else s.startVerified c k (readWord v)) :=
    congrArg Host.Outcome.next (State.endTxn_kept h rfl)
  have hdecided (b : Byte) : exec (.writeDecided b) s =
      .next (if b = 0x06#8 then s.startWriteTaken c k else s.passTxn (.startVerify c k)) :=
    congrArg Host.Outcome.next (State.endTxn_kept h rfl)
  have hknown {u : State} (hu : s.startKnown (inputAt c k) u) : known u :=
    ⟨hu.bus, hu.moves, hu.phantoms, hu.pair, hu.others, hu.frame⟩
  refine ⟨fun reply v hv => ?_, fun reply v hreply hv => ?_, ?_, fun b hb => ?_⟩
  · have htaken : exec (.startUpWrite reply v) s = .next (s.startWriteTaken c k) := by
      rw [hends]
      split
      · rfl
      · rename_i hr
        rw [State.startVerified, if_pos (hv.resolve_left hr)]
    refine ⟨fun hk => ?_, fun hk => ?_⟩
    · rw [State.startWriteTaken_next s hk] at htaken
      refine ⟨_, htaken, hknown ((s.startWritten_known _).congr rfl), rfl, rfl, State.startWritten_comm rfl rfl⟩
    · subst hk
      rw [State.startWriteTaken_last s] at htaken
      refine ⟨_, _, htaken, State.nextChip_passedOn c _, hknown ((s.startWritten_known _).congr rfl), rfl, ?_⟩
      have hcomm := State.startWritten_comm (i := inputAt c 7) (s := s) (t := (s.startWritten (inputAt c 7)).chipStarted c) rfl rfl
      rw [Comm.tells_append, ← hcomm, State.chipStarted, State.raiseChip_comm]
      simp [State.modBus]
  · have hfails : exec (.startUpWrite reply v) s = .next (State.nextChip c (s.chipGivenUp c)) := by
      rw [hends, if_neg hreply, State.startVerified_fails hv]
    have hmem := mem_chipInputs c
    have hmoves := State.faultMoves_moves (chipInputs c) (chipInputs_nodup c) s
    have hpair := State.faultMoves_pair? (chipInputs c) (chipInputs_nodup c) s
    have hcomm := State.faultMoves_comm (chipInputs c) (chipInputs_nodup c) s (s.chipGivenUp c)
    have hframe := State.faultMoves_frame (chipInputs c) s
    have hleft : s.chipGivenUp c = State.chipLeft c ((chipInputs c).foldl (fun acc i => acc.faultMove i) s) := rfl
    rw [hleft] at hcomm hfails
    generalize (chipInputs c).foldl (fun acc i => State.faultMove i acc) s = u at hmoves hpair hcomm hframe hfails
    refine ⟨_, u.chipLeft c, hfails, State.nextChip_passedOn c _, ?_, fun i hi => ?_, fun i hi => ?_, fun who i q hq => ?_, ?_, ?_⟩
    · rw [hframe]
      rfl
    · exact (hmoves i).trans ((if_pos ((hmem i).mpr hi)).trans rfl)
    · exact (hmoves i).trans (if_neg (mt (hmem i).mp hi))
    · refine (hpair who i).trans ?_
      rw [hq]
      simp only [Option.map_some, hmem]
    · rw [Comm.tells_append, ← hcomm (fun i hi => ?_) fun i hi who q hq =>
        ⟨{ q with trimState := .frozen }, (hpair who i).trans (by rw [hq]; simp [hi]), rfl, rfl, rfl⟩]
      · rfl
      · exact congrArg (fun m => m.setting.value) ((hmoves i).trans (if_pos hi))
    · rw [hframe]
      rfl
  · rw [hends, hdecided, if_pos rfl, if_pos rfl]
  · rw [hdecided, if_neg hb]
    rfl

/-! ## Transactions that end unanswered -/

/-- Settles O55. -/
theorem timeoutsEndByTheirOwnRule : Obligations.TimeoutsEndByTheirOwnRule := by
  intro s
  have htimeout {t : Txn} (h : s.bus.flight = some { txn := t, discard := false }) :
      exec .replyTimeout s = .next (s.unanswered t) := congrArg Host.Outcome.next (State.endTxn_kept h rfl)
  refine ⟨fun h => congrArg Host.Outcome.next (State.endTxn_idle h), fun t h => ?_,
    fun c old new reads writes h hq hr hw => (htimeout h).trans ?_,
    fun c old new h => ?_, fun i h => ?_, fun c h => (htimeout h).trans ?_, fun c k h => htimeout h, fun c k h => htimeout h, fun c k h => ⟨?_, fun r => ?_⟩,
    fun c k h => ?_⟩
  · intro passBegins
    have hdiscard {c : Instr} (rule : Txn → State → Option State) (hc : exec c s = .next (s.endTxn rule))
        (hrule : (rule t s).isSome = true) : passBegins c :=
      hc.trans (congrArg Host.Outcome.next (State.endTxn_discarded h hrule))
    refine ⟨hdiscard (fun t s => some (s.unanswered t)) rfl rfl, fun b ht => ?_, fun r ht => ?_, fun r ht => ?_, fun r ht => ?_, fun r ht => ?_, fun r ht => ?_,
      fun b r ht => ?_, fun r ht => ?_⟩
    · rcases ht with ⟨c, old, new, rfl⟩ | ⟨c, k, rfl⟩ <;> exact hdiscard (writeRule b) rfl rfl
    · rcases ht with ⟨c, old, new, rfl⟩ | ⟨c, k, rfl⟩ <;> exact hdiscard (verifyRule r) rfl rfl
    · obtain ⟨i, rfl⟩ := ht
      exact hdiscard (statusRule r) rfl rfl
    · obtain ⟨c, rfl⟩ := ht
      exact hdiscard (identityRule r) rfl rfl
    · obtain ⟨c, k, rfl⟩ := ht
      exact hdiscard (adoptionRule r) rfl rfl
    · obtain ⟨c, rfl⟩ := ht
      exact hdiscard (startIdentityRule r) rfl rfl
    · obtain ⟨c, k, rfl | rfl⟩ := ht <;> exact hdiscard (startWriteRule b r) rfl rfl
    · obtain ⟨c, k, rfl⟩ := ht
      exact hdiscard (startAdoptionRule r) rfl rfl
  · rw [State.unanswered, State.writeReplied_verifies (by nofun) hq hr hw]
  · refine ⟨s.chipFault (chipOf c.input), ?_, State.chipFault_faulted _ _⟩
    rw [htimeout h, State.unanswered, State.verified, if_neg nofun, if_neg nofun]
  · refine ⟨(s.modBus fun b => { b with pollPos := nextInput i }).chipFault (chipOf i), ?_, ?_⟩
    · rw [htimeout h]
      rfl
    · exact State.chipFault_faulted _ _
  · rw [State.unanswered, State.identityEnded_other (by nofun)]
  · exact (htimeout h).trans (congrArg Host.Outcome.next (State.endTxn_kept (rule := startWriteRule none .silent) h rfl).symm)
  · have hverify : exec (.verifyRead r) s = .next (s.startVerified c k (readWord r)) :=
      congrArg Host.Outcome.next (State.endTxn_kept h rfl)
    exact hverify.trans (congrArg Host.Outcome.next (State.endTxn_kept (rule := startWriteRule none r) h rfl).symm)
  · rcases h with h | h
    · exact ⟨_, s.chipLeft c, htimeout h, s.passFailsChip_passedOn c, rfl⟩
    · exact ⟨_, s.chipLeft c, htimeout h, s.passFailsChip_passedOn c, rfl⟩

end Sys2Proof.Machine
end

section
/-! PROOF. The sample period. -/

namespace Sys2Proof.Machine

/-! ## The boundary -/

/-- What a boundary leaves of an input at which no move lands: only its count has fallen (R68). -/
def State.counted (i : Input) (s t : State) : Prop :=
  (∀ who, t.pair? who i = s.pair? who i) ∧ t.moves.get i = (s.moves.get i).countDown ∧ t.phantoms.get i = s.phantoms.get i

/-- What a boundary keeps of every input but its own. -/
theorem State.landingBoundary_apart {i j : Input} (h : i ≠ j) (s : State) :
    (∀ who, (s.landingBoundary j).pair? who i = s.pair? who i) ∧
      (s.landingBoundary j).moves.get i = s.moves.get i ∧
      (s.landingBoundary j).phantoms.get i = s.phantoms.get i := by
  refine ⟨fun who => ?_, State.landingBoundary_other h s, ?_⟩
  · by_cases hdue : ∃ a, (s.moves.get j).move = .landing a 0
    · obtain ⟨a, ha⟩ := hdue
      rw [State.landingBoundary_lands ha, (s.land_ended j a).held.pair?, if_neg fun hx => h hx.1, State.landed_pair?, if_neg h]
    · rw [State.landingBoundary_counts (not_exists.mp hdue)]
      rfl
  · by_cases hdue : ∃ a, (s.moves.get j).move = .landing a 0
    · obtain ⟨a, ha⟩ := hdue
      rw [State.landingBoundary_lands ha]
      cases hh : (s.phantoms.get j).held with
      | none => rw [((s.land_ended j a).held.1 hh).1]; rfl
      | some on => rw [((s.land_ended j a).held.2 on hh).1, Tab.get_set_ne _ h]; rfl
    · rw [State.landingBoundary_counts (not_exists.mp hdue)]
      rfl

/-- One input's cells. -/
def State.cell (s : State) (i : Input) : (Party → Option Pair) × MoveCtl × PhantomCtl :=
  (fun who => s.pair? who i, s.moves.get i, s.phantoms.get i)

theorem State.landings_eq (s : State) : s.landings = allInputs.foldl (fun acc j => acc.landingBoundary j) s := by
  unfold State.landings
  rfl

theorem State.landings_cells (s : State) (i : Input) :
    ((∀ a, (s.moves.get i).move ≠ .landing a 0) → s.counted i s.landings) ∧
      (∀ a, (s.moves.get i).move = .landing a 0 → (s.landings.moves.get i).setting = a) := by
  have h := foldl_cells (fun (u : State) j => u.landingBoundary j) State.cell (fun _ => True)
    (fun _ x y => ((∀ a, x.2.1.move ≠ .landing a 0) → y.1 = x.1 ∧ y.2.1 = x.2.1.countDown ∧ y.2.2 = x.2.2) ∧
      (∀ a, x.2.1.move = .landing a 0 → y.2.1.setting = a)) (fun _ _ _ => trivial)
    (fun u j _ => ⟨fun hnot => ?_, fun a ha => ?_⟩) (fun u j k _ hk => ?_) allInputs (List.nodup_finRange 48) s trivial
  · obtain ⟨hcount, hland⟩ := h.1 i (List.mem_finRange i)
    rw [State.landings_eq]
    refine ⟨fun hnot => ?_, hland⟩
    obtain ⟨h1, h2, h3⟩ := hcount hnot
    exact ⟨fun who => congrFun h1 who, h2, h3⟩
  · unfold State.cell
    rw [State.landingBoundary_counts hnot]
    exact ⟨rfl, Tab.get_modify_self .., rfl⟩
  · unfold State.cell
    rw [State.landingBoundary_lands ha]
    show ((u.land j a).moves.get j).setting = a
    rw [(u.land_ended j a).moves.2.1, State.landed_moves, Tab.get_set_self]
  · obtain ⟨h1, h2, h3⟩ := State.landingBoundary_apart hk u
    simp only [State.cell, h1, h2, h3]

/-- A boundary at which nothing lands changes counts alone (R68). -/
theorem State.landings_frame (s : State) (h : ∀ i a, (s.moves.get i).move ≠ .landing a 0) :
    s.landings = { s with moves := s.landings.moves } := by
  have hall : ∀ (l : List Input), l.Nodup → ∀ u : State, (∀ j ∈ l, ∀ a, (u.moves.get j).move ≠ .landing a 0) →
      l.foldl (fun acc j => acc.landingBoundary j) u =
        { u with moves := (l.foldl (fun acc j => acc.landingBoundary j) u).moves } := by
    intro l
    induction l with
    | nil => exact fun _ _ _ => rfl
    | cons j l ih =>
      intro hnd u hu
      obtain ⟨hj, hnd⟩ := List.nodup_cons.mp hnd
      have hstep := State.landingBoundary_counts (hu j List.mem_cons_self)
      rw [List.foldl_cons, ih hnd _ fun k hk a => ?_, hstep]
      · rfl
      · rw [State.landingBoundary_other (fun heq : k = j => hj (heq ▸ hk))]
        exact hu k (List.mem_cons_of_mem _ hk) a
  rw [State.landings_eq]
  exact hall allInputs (List.nodup_finRange 48) s fun j _ => h j

/-- A period whose boundary has been passed, and whose gates have stepped (R14). -/
def State.stepped (s : State) : State := s.tick.landings.takeMaps.rampPairs.stepGates

theorem State.samplePeriod_eq (x : Tab 48 Sample) (s : State) :
    s.samplePeriod x = (s.stepped.formFrames x).endFades := rfl

theorem State.rampPairs_pair? (u : State) (who : Party) (i : Input) : u.rampPairs.pair? who i =
    (u.pair? who i).map fun q => q.rampAdvance u.rate (u.moves.get i).status (u.analog i) :=
  PairStore.get_mapAll u.pairs i (fun i q => Pair.rampAdvance u.rate (u.moves.get i).status (u.analog i) q) who

theorem State.stepGates_pair? (u : State) (who : Party) (i : Input) :
    u.stepGates.pair? who i = (u.pair? who i).map (Pair.gateStep u.rate.fade) :=
  PairStore.get_mapAll u.pairs i (fun _ q => Pair.gateStep u.rate.fade q) who

theorem State.stepped_pair? (s : State) (who : Party) (i : Input) : s.stepped.pair? who i =
    (s.tick.landings.pair? who i).map fun q => Pair.gateStep s.rate.fade
      (q.rampAdvance s.rate (s.tick.landings.moves.get i).status (s.tick.landings.analog i)) := by
  have hrate : s.tick.landings.rate = s.rate := by simp
  rw [State.stepped, State.stepGates_pair?, State.rampPairs_pair?]
  generalize s.tick.landings = u at hrate
  rw [Option.map_map, ← hrate]
  rfl

theorem State.stepped_entries (s : State) : s.stepped.entries = s.entries := by simp [State.stepped]

theorem State.stepped_rate (s : State) : s.stepped.rate = s.rate := by simp [State.stepped]

theorem State.stepped_streams (s : State) : s.stepped.streams = s.takeMaps.streams := by
  have hstreams : s.tick.landings.streams = s.streams := by simp
  have hentries : s.tick.landings.entries = s.entries := by simp
  rw [State.stepped, State.stepGates_streams, State.rampPairs_streams]
  generalize s.tick.landings = u at hstreams hentries
  unfold State.takeMaps State.mapFor
  rw [hstreams, hentries]

/-! ## Frames -/

theorem State.takeMaps_stream (s : State) (p : Port) : s.takeMaps.streams.get p =
    match (s.streams.get p).layout with
    | none => s.streams.get p
    | some ly => { s.streams.get p with map := s.mapFor p ly.slots } := Tab.get_imap ..

theorem State.formFrames_stream (x : Tab 48 Sample) (s : State) (p : Port) : (s.formFrames x).streams.get p =
    match (s.streams.get p).layout with
    | none => s.streams.get p
    | some ly => { s.streams.get p with frame := some (s.frame x p ly) } := Tab.get_imap ..

theorem State.samplePeriod_streams (x : Tab 48 Sample) (s : State) :
    (s.samplePeriod x).streams = (s.stepped.formFrames x).streams := by rw [State.samplePeriod_eq, State.endFades_streams]

theorem State.samplePeriod_pairs (x : Tab 48 Sample) (s : State) :
    (s.samplePeriod x).pairs = (s.stepped.formFrames x).pairs := by rw [State.samplePeriod_eq, State.endFades_pairs]

/-- Counting where samples clamp leaves trims and gates (R16). -/
theorem Pair.countClip_frame (n : Nat) (x : Sample) (q : Pair) :
    q.countClip n x = { q with sat := (q.countClip n x).sat } := by
  unfold Pair.countClip
  split <;> rfl

/-- The pairs of a consumer after the frames have been formed (R16). -/
theorem State.formFrames_seat {x : Tab 48 Sample} {s : State} {k : Seat} {pairs : Tab 48 Pair}
    (h : (s.formFrames x).pairs.seats.get k = some pairs) : ∃ before, s.pairs.seats.get k = some before ∧
      ∀ i, pairs.get i = if s.carried k i then (before.get i).countClip s.rate.fade (x.get i) else before.get i := by
  have h' : (s.countClips x).get k = some pairs := h
  rw [State.countClips, Tab.get_imap] at h'
  obtain ⟨before, hb, rfl⟩ := Option.map_eq_some_iff.mp h'
  exact ⟨before, hb, fun i => Tab.get_imap ..⟩

theorem exec_samplePeriod (x : Tab 48 Sample) (s : State) : exec (.samplePeriod x) s = .next (s.samplePeriod x) := rfl

/-- Settles O10. -/
theorem samplePeriodFormsFrames : Obligations.SamplePeriodFormsFrames := by
  intro x s
  refine ⟨s.samplePeriod x, exec_samplePeriod x s, fun p => ⟨fun hnone => ?_, fun ly k c pairs hly hseat hc hpairs => ?_⟩⟩
  · have hst : s.takeMaps.streams.get p = s.streams.get p := by rw [State.takeMaps_stream, hnone] <;> rfl
    rw [State.samplePeriod_streams, State.formFrames_stream, State.stepped_streams, hst, hnone] <;> rfl
  · have hmap : s.mapFor p ly.slots = c.map.take ly.slots := by
      rw [State.mapFor, hseat]
      dsimp only
      rw [hc]
    have hst : s.stepped.streams.get p = { s.streams.get p with map := c.map.take ly.slots } := by
      rw [State.stepped_streams, State.takeMaps_stream, hly, ← hmap] <;> rfl
    have hstream : (s.stepped.formFrames x).streams.get p =
        { layout := some ly, map := c.map.take ly.slots, frame := some (s.stepped.frame x p ly) } := by
      rw [State.formFrames_stream, hst]
      dsimp only
      rw [hly]
    rw [State.samplePeriod_pairs] at hpairs
    obtain ⟨before, hbefore, heach⟩ := State.formFrames_seat hpairs
    rw [State.samplePeriod_streams, hstream, State.frame]
    refine congrArg (fun f => Stream.mk (some ly) (c.map.take ly.slots) (some ((List.range ly.slots).flatMap f)))
      (funext fun j => congrArg (slotBytes ly.format) ?_)
    rw [State.slotSample, hst]
    dsimp only
    cases (c.map.take ly.slots)[j]? with
    | none => rfl
    | some i =>
      dsimp only
      rw [State.stepped_entries, hseat]
      dsimp only
      have hpair : s.stepped.pair? (.consumer k) i = some (before.get i) := by
        generalize s.stepped = u at hbefore
        exact congrArg (Option.map (·.get i)) hbefore
      rw [hpair]
      dsimp only
      have hsame : (pairs.get i).trim = (before.get i).trim ∧ (pairs.get i).gate = (before.get i).gate := by
        rw [heach]
        split
        · rw [Pair.countClip_frame]
          exact ⟨rfl, rfl⟩
        · exact ⟨rfl, rfl⟩
      rw [hsame.1, hsame.2, pairOutput, gatedMultiplier, State.stepped_rate]

end Sys2Proof.Machine
end

section
/-! PROOF. The ends of the fades in a sample period, and the sample period as a whole. -/

namespace Sys2Proof.Machine

/-! ## What turns input by input add to a log -/

/-- A fold of an operation that touches one input's cell only, over inputs without repeats: what it adds to a queue, or tells
of, input by input. -/
theorem foldl_logged {σ β L E : Type} (f : σ → Input → σ) (get : σ → Input → β) (P : σ → Prop) (log : σ → L)
    (add : L → List E → L) (out : Input → β → β → List E) (hnil : ∀ c, add c [] = c)
    (hadd : ∀ c as bs, add c (as ++ bs) = add (add c as) bs) (hP : ∀ s i, P s → P (f s i))
    (hself : ∀ s i, P s → log (f s i) = add (log s) (out i (get s i) (get (f s i) i)))
    (hother : ∀ s i j, P s → j ≠ i → get (f s i) j = get s j) (l : List Input) (hl : l.Nodup) (s : σ) (hs : P s) :
    log (l.foldl f s) = add (log s) (l.flatMap fun i => out i (get s i) (get (l.foldl f s) i)) := by
  induction l generalizing s with
  | nil => exact (hnil _).symm
  | cons a l ih =>
    obtain ⟨ha, hl⟩ := List.nodup_cons.mp hl
    have hkept := (foldl_cells f get P (fun _ _ _ => True) hP (fun _ _ _ => trivial) hother l hl (f s a) (hP s a hs)).2 a ha
    have hrest : (l.flatMap fun i => out i (get (f s a) i) (get (l.foldl f (f s a)) i)) =
        l.flatMap fun i => out i (get s i) (get (l.foldl f (f s a)) i) :=
      List.flatMap_congr fun i hi => by rw [hother s a i hs fun heq => ha (heq ▸ hi)]
    rw [List.foldl_cons, ih hl (f s a) (hP s a hs), hself s a hs, List.flatMap_cons, hadd, hkept, hrest]

/-- Entries that join the end of the queue. -/
def Bus.joined (b : Bus) (es : List QueueEntry) : Bus := { b with queue := b.queue ++ es }

theorem Bus.joined_nil (b : Bus) : b.joined [] = b := by simp [Bus.joined]

theorem Bus.joined_append (b : Bus) (as bs : List QueueEntry) : b.joined (as ++ bs) = (b.joined as).joined bs := by
  simp [Bus.joined]

/-- The gain command of a move that has been issued for an input (R64). -/
def gainIssued (i : Input) (m m' : MoveCtl) : List QueueEntry :=
  match m.move, m'.move with
  | .idle, .queued a => [.write (.gain i a.pad a.p)]
  | _, _ => []

theorem gainIssued_busy {i : Input} {m m' : MoveCtl} (h : m.move ≠ .idle) : gainIssued i m m' = [] := by
  unfold gainIssued
  split
  · exact absurd ‹_› h
  · rfl

theorem gainIssued_self (i : Input) (m : MoveCtl) : gainIssued i m m = [] := by
  unfold gainIssued
  split
  · rename_i h1 h2
    rw [h1] at h2
    cases h2
  · rfl

theorem gainIssued_idle {i : Input} {m m' : MoveCtl} (h : m.move = .idle) : gainIssued i m m' = m'.issued i := by
  unfold gainIssued MoveCtl.issued
  rw [h]
  cases m'.move <;> rfl

/-- A target that is handed over puts a gain command in the queue exactly where its move is issued (R61 to R64). -/
theorem State.handTarget_queue (s : State) (i : Input) (a : Setting) : (s.handTarget i a).bus =
    s.bus.joined (gainIssued i (s.moves.get i) ((s.handTarget i a).moves.get i)) := by
  cases hm : (s.moves.get i).move with
  | idle =>
    rw [gainIssued_idle hm, State.handTarget_idle s i a hm]
    simp [Bus.joined]
  | queued b | onWire b | landing b n =>
    rw [gainIssued_busy (by rw [hm]; nofun), Bus.joined_nil]
    simp [State.handTarget, MoveCtl.deal, hm, Move.inFlight]

/-! ## The end of one input's fade -/

/-- The ends of one input's fades. -/
def State.fadeStep (s : State) (i : Input) : State := (s.endFadeOut i).endFadeIn i

theorem State.endFades_eq (s : State) : s.endFades = allInputs.foldl State.fadeStep s := rfl

/-- A FADE_OUT that has ended by this state's gates (R85). -/
def State.fadedOut (s : State) (i : Input) : Prop := (s.phantoms.get i).seq = .fadeOut ∧ s.allSilent i = true

/-- A FADE_IN that has ended by this state's gates (R88). -/
def State.fadedIn (s : State) (i : Input) : Prop := (s.phantoms.get i).seq = .fadeIn ∧ s.allOpen i = true

theorem State.fadeStep_out {s : State} {i : Input} (h : s.fadedOut i) : s.fadeStep i = s.enterWriting i := by
  unfold State.fadedOut at h
  have hseq : ((s.enterWriting i).phantoms.get i).seq = .writing := by simp [State.enterWriting, Tab.get_modify_self]
  rw [State.fadeStep, State.endFadeOut, if_pos h, State.endFadeIn, if_neg]
  rw [hseq]
  nofun

theorem State.fadeStep_in {s : State} {i : Input} (h : s.fadedIn i) : s.fadeStep i = (s.sequenceOver i).dealPending i := by
  unfold State.fadedIn at h
  have hnot : ¬((s.phantoms.get i).seq = .fadeOut ∧ s.allSilent i = true) := fun hx => by
    rw [h.1] at hx
    exact absurd hx.1 nofun
  rw [State.fadeStep, State.endFadeOut, if_neg hnot, State.endFadeIn, if_pos h, State.endSequence_eq]

theorem State.fadeStep_none {s : State} {i : Input} (ho : ¬s.fadedOut i) (hi : ¬s.fadedIn i) : s.fadeStep i = s := by
  unfold State.fadedOut at ho
  unfold State.fadedIn at hi
  rw [State.fadeStep, State.endFadeOut, if_neg ho, State.endFadeIn, if_neg hi]

/-- An input's move and sequence. -/
def State.track (s : State) (i : Input) : MoveCtl × PhantomCtl := (s.moves.get i, s.phantoms.get i)

/-- The entries that the end of an input's fade puts in the queue (R79, R85). -/
def fadeWrites (i : Input) (x y : MoveCtl × PhantomCtl) : List QueueEntry :=
  match x.2.seq, y.2.seq with
  | .fadeOut, .writing => (match x.2.target with
    | some on => [.write (.phantom i on)]
    | none => [])
  | .fadeIn, .idle => gainIssued i x.1 y.1
  | _, _ => []

/-- What is told of the end of an input's FADE_IN (R88, R94). -/
def fadeTold (lanes : List LaneId) (i : Input) (x y : MoveCtl × PhantomCtl) : List Event :=
  match x.2.seq, y.2.seq, x.2.outcome with
  | .fadeIn, .idle, some o => [(lanes, .phantomState i x.2.phantom .idle (.ended o))]
  | _, _, _ => []

/-- The move of an input whose sequence has ended (R79). -/
def MoveCtl.resumed (m : MoveCtl) : MoveCtl :=
  match m.move, m.pending with
  | .idle, some b => (MoveCtl.deal (decide (m.status = .uncertain)) b m).1
  | _, _ => m

/-- What the end of its fade makes of an input's move and sequence, by how its gates stand (R79, R85, R88). -/
structure FadeEnded (silent allOpen : Bool) (x y : MoveCtl × PhantomCtl) : Prop where
  out : x.2.seq = .fadeOut → silent = true → y = (x.1, { x.2 with seq := .writing, settle := none })
  risen : x.2.seq = .fadeIn → allOpen = true →
    y = (x.1.resumed, { x.2 with seq := .idle, origin := none, target := none, reversal := none, outcome := none })
  rest : ¬(x.2.seq = .fadeOut ∧ silent = true) → ¬(x.2.seq = .fadeIn ∧ allOpen = true) → y = x

/-- What a held target that is dealt with leaves (R79). -/
theorem State.dealPending_resumed {s : State} {i : Input} (h : (s.phantoms.get i).seq = .idle) :
    (s.dealPending i).moves = s.moves.set i (s.moves.get i).resumed ∧
      (s.dealPending i).bus = s.bus.joined (gainIssued i (s.moves.get i) (s.moves.get i).resumed) := by
  have hsame (hres : (s.moves.get i).resumed = s.moves.get i) (hdeal : s.dealPending i = s) :
      (s.dealPending i).moves = s.moves.set i (s.moves.get i).resumed ∧
        (s.dealPending i).bus = s.bus.joined (gainIssued i (s.moves.get i) (s.moves.get i).resumed) := by
    rw [hres, hdeal, gainIssued_self, Bus.joined_nil]
    simp
  cases hm : (s.moves.get i).move with
  | idle =>
    cases hp : (s.moves.get i).pending with
    | none => exact hsame (by simp [MoveCtl.resumed, hm, hp]) (State.dealPending_none (.inl hp))
    | some b =>
      have hres : (s.moves.get i).resumed = ((s.handTarget i b).moves.get i) := by
        simp [MoveCtl.resumed, hm, hp, State.handTarget, State.holds, h]
      rw [State.dealPending_some hm hp, hres, ← State.handTarget_queue]
      exact ⟨by simp [State.handTarget], rfl⟩
  | queued b | onWire b | landing b n =>
    exact hsame (by simp [MoveCtl.resumed, hm]) (State.dealPending_none (.inr (by rw [hm]; rfl)))

/-- One input's turn of the fades' ends. -/
structure State.fadeTurn (s : State) (i : Input) (t : State) : Prop where
  own : FadeEnded (s.allSilent i) (s.allOpen i) (s.track i) (t.track i)
  others : ∀ j, j ≠ i → t.track j = s.track j
  queued : t.bus = s.bus.joined (fadeWrites i (s.track i) (t.track i))
  told : t.comm = s.comm.tells (fadeTold s.partyLanes i (s.track i) (t.track i))
  frame : t = { s with moves := t.moves, comm := t.comm, phantoms := t.phantoms, bus := t.bus }

theorem State.enterWriting_turn {s : State} {i : Input} (h : s.fadedOut i) : s.fadeTurn i (s.enterWriting i) := by
  obtain ⟨hseq, hsilent⟩ := h
  have hself : (s.enterWriting i).track i = (s.moves.get i, { s.phantoms.get i with seq := .writing, settle := none }) :=
    Prod.ext rfl (Tab.get_modify_self ..)
  have hother (j : Input) (hj : j ≠ i) : (s.enterWriting i).track j = s.track j :=
    Prod.ext rfl (Tab.get_modify_ne _ hj _)
  refine ⟨⟨fun _ _ => hself, fun hx => ?_, fun hx => absurd ⟨hseq, hsilent⟩ hx⟩, hother, ?_, ?_, rfl⟩
  · rw [State.track, hseq] at hx
    cases hx
  · rw [hself, fadeWrites]
    simp only [State.track, hseq, State.enterWriting]
    cases (s.phantoms.get i).target with
    | none => exact (Bus.joined_nil _).symm
    | some on => rfl
  · rw [hself, fadeTold]
    simp only [State.track, hseq]
    rfl

theorem State.endSequence_turn {s : State} {i : Input} (h : s.fadedIn i) :
    s.fadeTurn i ((s.sequenceOver i).dealPending i) := by
  obtain ⟨hseq, hopen⟩ := h
  have hidle : ((s.sequenceOver i).phantoms.get i).seq = .idle := by simp [State.sequenceOver]
  obtain ⟨hmoves, hbus⟩ := State.dealPending_resumed hidle
  have hframe := State.dealPending_frame i (s.sequenceOver i)
  generalize (s.sequenceOver i).dealPending i = t at hmoves hbus hframe
  have hphantoms : t.phantoms = (s.sequenceOver i).phantoms := by rw [hframe]
  have hcomm : t.comm = (s.sequenceOver i).comm := by rw [hframe]
  have hself : t.track i = ((s.moves.get i).resumed,
      { s.phantoms.get i with seq := .idle, origin := none, target := none, reversal := none, outcome := none }) := by
    refine Prod.ext ?_ ?_
    · exact (congrArg (·.get i) hmoves).trans (Tab.get_set_self ..)
    · exact (congrArg (·.get i) hphantoms).trans (Tab.get_set_self ..)
  refine ⟨⟨fun hx => ?_, fun _ _ => hself, fun _ hx => absurd ⟨hseq, hopen⟩ hx⟩, fun j hj => Prod.ext ?_ ?_, ?_, ?_, ?_⟩
  · rw [State.track, hseq] at hx
    cases hx
  · exact (congrArg (·.get j) hmoves).trans (Tab.get_set_ne _ hj _)
  · exact (congrArg (·.get j) hphantoms).trans (Tab.get_set_ne _ hj _)
  · rw [hself, fadeWrites]
    simp only [State.track, hseq]
    exact hbus
  · rw [hself, fadeTold, hcomm]
    simp only [State.track, hseq]
    unfold State.sequenceOver
    cases (s.phantoms.get i).outcome <;> rfl
  · rw [hframe]
    rfl

theorem State.fadeStep_turn (s : State) (i : Input) : s.fadeTurn i (s.fadeStep i) := by
  by_cases ho : s.fadedOut i
  · rw [State.fadeStep_out ho]
    exact State.enterWriting_turn ho
  by_cases hi : s.fadedIn i
  · rw [State.fadeStep_in hi]
    exact State.endSequence_turn hi
  rw [State.fadeStep_none ho hi]
  refine ⟨⟨fun h1 h2 => absurd ⟨h1, h2⟩ ho, fun h1 h2 => absurd ⟨h1, h2⟩ hi, fun _ _ => rfl⟩, fun _ _ => rfl, ?_, ?_, rfl⟩
  · rw [fadeWrites]
    split
    · rename_i h1 h2
      rw [h1] at h2
      cases h2
    · rename_i h1 h2
      rw [h1] at h2
      cases h2
    · exact (Bus.joined_nil _).symm
  · rw [fadeTold]
    split
    · rename_i h1 h2 _
      rw [h1] at h2
      cases h2
    · rfl

/-! ## The ends of all fades -/

/-- The ends of the fades that a period has ended (R85, R88). -/
structure State.fadesEnded (s t : State) : Prop where
  each : ∀ i, FadeEnded (s.allSilent i) (s.allOpen i) (s.track i) (t.track i)
  queued : t.bus = s.bus.joined (allInputs.flatMap fun i => fadeWrites i (s.track i) (t.track i))
  told : t.comm = s.comm.tells (allInputs.flatMap fun i => fadeTold s.partyLanes i (s.track i) (t.track i))
  frame : t = { s with moves := t.moves, comm := t.comm, phantoms := t.phantoms, bus := t.bus }

/-- What the turns of the other inputs keep of what an input's turn goes by. -/
def State.samePairs (s u : State) : Prop := u.pairs = s.pairs ∧ u.entries = s.entries

theorem State.fadeStep_samePairs {s u : State} (i : Input) (h : s.samePairs u) : s.samePairs (u.fadeStep i) := by
  obtain ⟨hpairs, hentries⟩ := h
  have hframe := (u.fadeStep_turn i).frame
  exact ⟨(congrArg State.pairs hframe).trans hpairs, (congrArg State.entries hframe).trans hentries⟩

theorem State.endFades_frame (s : State) : s.endFades =
    { s with moves := s.endFades.moves, comm := s.endFades.comm, phantoms := s.endFades.phantoms, bus := s.endFades.bus } := by
  have hall (l : List Input) : ∀ u : State, l.foldl State.fadeStep u =
      { u with moves := (l.foldl State.fadeStep u).moves, comm := (l.foldl State.fadeStep u).comm,
               phantoms := (l.foldl State.fadeStep u).phantoms, bus := (l.foldl State.fadeStep u).bus } := by
    induction l with
    | nil => exact fun _ => rfl
    | cons i l ih =>
      intro u
      have hframe := (u.fadeStep_turn i).frame
      rw [List.foldl_cons]
      refine (ih _).trans ?_
      generalize l.foldl State.fadeStep (u.fadeStep i) = t
      rw [hframe]
  exact hall allInputs s

theorem State.endFades_ended (s : State) : s.fadesEnded s.endFades := by
  have hP (u : State) (i : Input) (h : s.samePairs u) : s.samePairs (u.fadeStep i) := State.fadeStep_samePairs i h
  have hother (u : State) (i j : Input) (_ : s.samePairs u) (hj : j ≠ i) : (u.fadeStep i).track j = u.track j :=
    (u.fadeStep_turn i).others j hj
  have hs : s.samePairs s := ⟨rfl, rfl⟩
  have hnodup : allInputs.Nodup := List.nodup_finRange 48
  refine ⟨fun i => ?_, ?_, ?_, s.endFades_frame⟩
  · refine (foldl_cells State.fadeStep State.track s.samePairs
      (fun i => FadeEnded (s.allSilent i) (s.allOpen i)) hP (fun u j hu => ?_) hother allInputs hnodup s hs).1 i
      (List.mem_finRange i)
    have hsilent : u.allSilent j = s.allSilent j := congrArg (fun ps : PairStore => (ps.ofInput j).all _) hu.1
    have hopen : u.allOpen j = s.allOpen j := congrArg (fun ps : PairStore => (ps.ofInput j).all _) hu.1
    rw [← hsilent, ← hopen]
    exact (u.fadeStep_turn j).own
  · exact foldl_logged State.fadeStep State.track s.samePairs State.bus Bus.joined fadeWrites Bus.joined_nil
      Bus.joined_append hP (fun u j _ => (u.fadeStep_turn j).queued) hother allInputs hnodup s hs
  · refine foldl_logged State.fadeStep State.track s.samePairs State.comm (fun c es => c.tells es) (fadeTold s.partyLanes)
      (fun _ => rfl) Comm.tells_append hP (fun u j hu => ?_) hother allInputs hnodup s hs
    have hlanes : u.partyLanes = s.partyLanes := by rw [State.partyLanes, State.partyLanes, hu.2]
    rw [← hlanes]
    exact (u.fadeStep_turn j).told

end Sys2Proof.Machine
end

section
/-! PROOF. SAMPLE_PERIOD on pairs, moves and sequences. -/

namespace Sys2Proof.Machine

/-! ## One pair's period -/

theorem Pair.rampAdvance_rests {q : Pair} (h : q.trimState ≠ .ramping ∨ q.stepped = true) (rate : BoxRate)
    (status : AnalogStatus) (a : Int) : q.rampAdvance rate status a = { q with stepped := false } := by
  unfold Pair.rampAdvance
  by_cases hs : q.stepped = true
  · rw [if_pos hs]
  · rw [if_neg hs, if_neg (h.resolve_right hs), ← Bool.eq_false_iff.mpr hs]

theorem Pair.rampAdvance_waits {q : Pair} {rate : BoxRate} (hr : q.trimState = .ramping) (hs : q.stepped = false)
    (hp : q.phase + 1 < rate.rampInterval) (status : AnalogStatus) (a : Int) :
    q.rampAdvance rate status a = { q with phase := q.phase + 1 } := by
  rw [Pair.rampAdvance, if_neg (by rw [hs]; nofun), if_pos hr, if_neg (by omega)]

theorem Pair.rampAdvance_steps {q : Pair} {rate : BoxRate} (hr : q.trimState = .ramping) (hs : q.stepped = false)
    (hp : rate.rampInterval ≤ q.phase + 1) (status : AnalogStatus) (a : Int) :
    q.rampAdvance rate status a = { q with
      trim := stepToward q.trim q.target
      phase := 0
      trimState := Pair.stateNow { q with trim := stepToward q.trim q.target } status a } := by
  rw [Pair.rampAdvance, if_neg (by rw [hs]; nofun), if_pos hr, if_pos hp]
  simp only [Pair.rampStep, Pair.settleTrim, hr, ne_eq, not_true_eq_false, and_false, if_false]
  rfl

/-- A ramp step touches nothing but the trim's own fields, and leaves no mark (R10). -/
theorem Pair.rampAdvance_frame (rate : BoxRate) (status : AnalogStatus) (a : Int) (q : Pair) :
    q.rampAdvance rate status a = { q with
      trim := (q.rampAdvance rate status a).trim, trimState := (q.rampAdvance rate status a).trimState
      phase := (q.rampAdvance rate status a).phase, stepped := false } := by
  by_cases hrests : q.trimState ≠ .ramping ∨ q.stepped = true
  · rw [Pair.rampAdvance_rests hrests]
  obtain ⟨hr, hs⟩ := not_or.mp hrests
  have hr := not_not.mp hr
  have hs := Bool.eq_false_iff.mpr hs
  by_cases hp : rate.rampInterval ≤ q.phase + 1
  · rw [Pair.rampAdvance_steps hr hs hp, ← hs]
  · rw [Pair.rampAdvance_waits hr hs (by omega), ← hs]

theorem Pair.gateStep_frame (n : Nat) (q : Pair) :
    q.gateStep n = { q with gate := (q.gateStep n).gate, dir := (q.gateStep n).dir } := by
  unfold Pair.gateStep
  split <;> rfl

theorem Pair.gateStep_rests {q : Pair} (h : q.dir = .opened ∨ q.dir = .closed) (n : Nat) : q.gateStep n = q := by
  unfold Pair.gateStep
  rcases h with h | h <;> rw [h]

theorem Pair.gateStep_closing {q : Pair} (h : q.dir = .closing) (n : Nat) :
    q.gateStep n = { q with gate := q.gate - 1, dir := if q.gate - 1 = 0 then .closed else .closing } := by
  rw [Pair.gateStep, h]

theorem Pair.gateStep_opening {q : Pair} (h : q.dir = .opening) (n : Nat) :
    q.gateStep n = { q with gate := q.gate + 1, dir := if n ≤ q.gate + 1 then .opened else .opening } := by
  rw [Pair.gateStep, h]

/-- A pair's ramp step and then its gate step (R14). -/
def Pair.period (rate : BoxRate) (status : AnalogStatus) (a : Int) (q : Pair) : Pair :=
  Pair.gateStep rate.fade (q.rampAdvance rate status a)

theorem Pair.period_frame (rate : BoxRate) (status : AnalogStatus) (a : Int) (q : Pair) :
    q.period rate status a = { q with
      trim := (q.rampAdvance rate status a).trim, trimState := (q.rampAdvance rate status a).trimState
      phase := (q.rampAdvance rate status a).phase, stepped := false
      gate := (Pair.gateStep rate.fade q).gate, dir := (Pair.gateStep rate.fade q).dir } := by
  rw [Pair.period, Pair.rampAdvance_frame]
  unfold Pair.gateStep
  cases hd : q.dir <;> simp [hd]

/-- The saturation count that a period leaves in a pair which stands as `p` (R14, R16). -/
def State.satAfter (x : Tab 48 Sample) (s : State) (who : Party) (i : Input) (p : Pair) : Nat :=
  match who with
  | .panel => p.sat
  | .consumer k =>
    if s.takeMaps.carried k i ∧ clips (x.get i).toInt (gatedMultiplier s.rate.fade p) = true then
      min 65535 (p.sat + 1)
    else p.sat

/-- A pair after a period, from what the boundary has left of it (R14). -/
def State.periodPair (x : Tab 48 Sample) (s : State) (who : Party) (i : Input) (q : Pair) : Pair :=
  let p := q.period s.rate (s.tick.landings.moves.get i).status (s.tick.landings.analog i)
  { p with sat := s.satAfter x who i p }

theorem State.formFrames_pair? (x : Tab 48 Sample) (u : State) (who : Party) (i : Input) :
    (u.formFrames x).pair? who i = (u.pair? who i).map fun p => match who with
      | .panel => p
      | .consumer k => if u.carried k i then p.countClip u.rate.fade (x.get i) else p := by
  cases who with
  | panel => rfl
  | consumer k =>
    show ((u.countClips x).get k).map _ = _
    rw [State.countClips, Tab.get_imap, Option.map_map]
    show _ = ((u.pairs.seats.get k).map _).map _
    rw [Option.map_map]
    exact congrArg (fun f => (u.pairs.seats.get k).map f) (funext fun t => Tab.get_imap ..)

theorem State.stepped_carried (s : State) (k : Seat) (i : Input) : s.stepped.carried k i = s.takeMaps.carried k i := by
  unfold State.carried
  rw [State.stepped_streams, State.stepped_entries, State.takeMaps_entries]

theorem State.samplePeriod_pair? (x : Tab 48 Sample) (s : State) (who : Party) (i : Input) :
    (s.samplePeriod x).pair? who i = (s.tick.landings.pair? who i).map (s.periodPair x who i) := by
  rw [State.pair?_congr (State.samplePeriod_pairs x s), State.formFrames_pair?, State.stepped_pair?, Option.map_map]
  refine congrArg (fun f => (s.tick.landings.pair? who i).map f) (funext fun q => ?_)
  cases who with
  | panel => rfl
  | consumer k =>
    simp only [Function.comp, State.stepped_carried, State.stepped_rate, State.periodPair, State.satAfter]
    generalize (s.tick.landings.moves.get i).status = status
    generalize s.tick.landings.analog i = a
    rw [← Pair.period]
    by_cases hc : s.takeMaps.carried k i = true
    · rw [if_pos hc, Pair.countClip]
      simp only [hc, true_and]
      split_ifs <;> rfl
    · rw [if_neg hc, if_neg fun hx => hc hx.1]

end Sys2Proof.Machine
end

section
/-! PROOF. SAMPLE_PERIOD on moves, sequences, the bus and the lanes. -/

namespace Sys2Proof.Machine

/-! ## What the boundary leaves to the period -/

theorem MoveCtl.countDown_rests {m : MoveCtl} (h : ∀ a n, m.move ≠ .landing a n) : m.countDown = m := by
  unfold MoveCtl.countDown
  split
  · exact absurd ‹_› (h _ _)
  all_goals rfl

theorem MoveCtl.countDown_counts {m : MoveCtl} {a : Setting} {n : Nat} (h : m.move = .landing a (n + 1)) :
    m.countDown = { m with move := .landing a n } := by
  rw [MoveCtl.countDown, h]

theorem MoveCtl.countDown_frame (m : MoveCtl) : m.countDown = { m with move := m.countDown.move } := by
  unfold MoveCtl.countDown
  split <;> rfl

theorem MoveCtl.countDown_idle {m : MoveCtl} : m.countDown.move = .idle ↔ m.move = .idle := by
  unfold MoveCtl.countDown
  split <;> simp_all

theorem gainIssued_countDown (i : Input) (m m' : MoveCtl) : gainIssued i m.countDown m' = gainIssued i m m' := by
  by_cases h : m.move = .idle
  · rw [MoveCtl.countDown_rests fun a n hx => by rw [h] at hx; cases hx]
  · rw [gainIssued_busy h, gainIssued_busy (mt MoveCtl.countDown_idle.mp h)]

theorem MoveCtl.resumed_none {m : MoveCtl} (h : m.move ≠ .idle ∨ m.pending = none) : m.resumed = m := by
  unfold MoveCtl.resumed
  split
  · rename_i h1 h2
    rcases h with h | h
    · exact absurd h1 h
    · rw [h] at h2
      cases h2
  · rfl

theorem MoveCtl.resumed_some {m : MoveCtl} {b : Setting} (h : m.move = .idle) (hb : m.pending = some b) :
    m.resumed = (MoveCtl.deal (decide (m.status = .uncertain)) b m).1 := by
  rw [MoveCtl.resumed, h, hb]

theorem MoveCtl.resumed_setting (m : MoveCtl) : m.resumed.setting = m.setting := by
  unfold MoveCtl.resumed
  split
  · exact MoveCtl.deal_setting ..
  · rfl

/-- The end of a fade leaves a move, or deals with what it holds (R79). -/
theorem FadeEnded.move {silent allOpen : Bool} {x y : MoveCtl × PhantomCtl} (h : FadeEnded silent allOpen x y) :
    y.1 = x.1 ∨ y.1 = x.1.resumed := by
  by_cases ho : x.2.seq = .fadeOut ∧ silent = true
  · exact .inl (by rw [h.out ho.1 ho.2])
  by_cases hi : x.2.seq = .fadeIn ∧ allOpen = true
  · exact .inr (by rw [h.risen hi.1 hi.2])
  exact .inl (by rw [h.rest ho hi])

theorem FadeEnded.busy {silent allOpen : Bool} {x y : MoveCtl × PhantomCtl} (h : FadeEnded silent allOpen x y)
    (hx : x.1.move ≠ .idle ∨ x.1.pending = none) : y.1 = x.1 :=
  h.move.elim id fun hy => hy.trans (MoveCtl.resumed_none hx)

theorem FadeEnded.setting {silent allOpen : Bool} {x y : MoveCtl × PhantomCtl} (h : FadeEnded silent allOpen x y) :
    y.1.setting = x.1.setting := by
  rcases h.move with hy | hy <;> rw [hy]
  exact MoveCtl.resumed_setting _

/-! ## The period as a whole -/

theorem State.stepped_track (s : State) (x : Tab 48 Sample) (i : Input) :
    (s.stepped.formFrames x).track i = s.tick.landings.track i := by
  unfold State.stepped
  generalize s.tick.landings = u
  rfl

theorem State.samplePeriod_fades (x : Tab 48 Sample) (s : State) :
    (s.stepped.formFrames x).fadesEnded (s.samplePeriod x) :=
  State.endFades_ended (s.stepped.formFrames x)

theorem State.samplePeriod_silent (x : Tab 48 Sample) (s : State) (i : Input) :
    (s.stepped.formFrames x).allSilent i = true ↔ ∀ who q', (s.samplePeriod x).pair? who i = some q' → q'.gate = 0 := by
  rw [State.allSilent_iff]
  simp only [State.pair?_congr (State.samplePeriod_pairs x s)]

theorem State.samplePeriod_open (x : Tab 48 Sample) (s : State) (i : Input) :
    (s.stepped.formFrames x).allOpen i = true ↔
      ∀ who q', (s.samplePeriod x).pair? who i = some q' → q'.mute = false → q'.dir = .opened := by
  rw [State.allOpen_iff]
  simp only [State.pair?_congr (State.samplePeriod_pairs x s)]

/-- What a boundary leaves of an input's move and sequence where no move lands (R68). -/
theorem State.stepped_counted {x : Tab 48 Sample} {s : State} {i : Input}
    (h : ∀ a, (s.moves.get i).move ≠ .landing a 0) :
    (s.stepped.formFrames x).track i = ((s.moves.get i).countDown, s.phantoms.get i) := by
  obtain ⟨_, hmoves, hphantoms⟩ := (s.tick.landings_cells i).1 h
  rw [State.stepped_track]
  exact Prod.ext hmoves hphantoms

/-- The ends of an input's fades in a period, where no move lands (R68, R79, R85, R88). -/
theorem State.samplePeriod_fade (x : Tab 48 Sample) (s : State) (i : Input)
    (h : ∀ a, (s.moves.get i).move ≠ .landing a 0) :
    FadeEnded ((s.stepped.formFrames x).allSilent i) ((s.stepped.formFrames x).allOpen i)
      ((s.moves.get i).countDown, s.phantoms.get i) ((s.samplePeriod x).track i) := by
  rw [← State.stepped_counted (x := x) h]
  exact (State.samplePeriod_fades x s).each i

theorem State.samplePeriod_counts {x : Tab 48 Sample} {s : State} {i : Input} {a : Setting} {n : Nat}
    (h : (s.moves.get i).move = .landing a (n + 1)) :
    (s.samplePeriod x).moves.get i = { s.moves.get i with move := .landing a n } := by
  have hfade := State.samplePeriod_fade x s i fun b hb => by
    rw [h] at hb
    cases hb
  have hcount := MoveCtl.countDown_counts h
  exact (hfade.busy (.inl (by rw [hcount]; nofun))).trans hcount

theorem State.samplePeriod_setting (x : Tab 48 Sample) (s : State) (i : Input) :
    ((s.samplePeriod x).moves.get i).setting = (s.tick.landings.moves.get i).setting := by
  have hset := ((State.samplePeriod_fades x s).each i).setting
  rw [State.stepped_track] at hset
  exact hset

/-- A held target that the end of a sequence hands over (R79). -/
theorem State.resumed_handTarget {s : State} {i : Input} {b : Setting} {phantoms : Tab 48 PhantomCtl}
    (hidle : (s.moves.get i).move = .idle) (hb : (s.moves.get i).pending = some b) (hseq : (phantoms.get i).seq = .idle) :
    (s.moves.get i).resumed = (State.handTarget i b { s with phantoms := phantoms }).moves.get i := by
  rw [MoveCtl.resumed_some hidle hb]
  simp [State.handTarget, State.holds, hseq]

/-! ## The bus and the lanes, where nothing lands -/

theorem State.stepped_comm {x : Tab 48 Sample} {s : State} (h : ∀ i a, (s.moves.get i).move ≠ .landing a 0) :
    (s.stepped.formFrames x).comm = s.comm.tells (allInputs.flatMap fun i => s.limitsTold (s.samplePeriod x) i) := by
  have hframe := State.landings_frame s.tick h
  have hpair := State.samplePeriod_pair? x s
  have hset := State.samplePeriod_setting x s
  have hrate : s.tick.landings.takeMaps.rate = s.rate := by simp
  rw [State.formFrames_comm, State.stepped, State.stepGates_comm]
  unfold State.rampPairs
  unfold State.periodPair at hpair
  generalize s.samplePeriod x = t at hpair hset
  generalize s.tick.landings = v at hframe hpair hset hrate
  rw [State.updateAllPairs_comm _ v.takeMaps t (fun i => congrArg Setting.value (hset i)) fun who i q hq =>
    ⟨_, (hpair who i).trans (congrArg (Option.map _) (hq : v.pair? who i = some q)), ?_⟩]
  · rw [hframe]
    rfl
  · dsimp only
    rw [hrate, Pair.period_frame]
    exact ⟨rfl, (congrArg Pair.level (Pair.rampAdvance_frame ..)).symm, rfl⟩

end Sys2Proof.Machine
end

section
/-! PROOF. SAMPLE_PERIOD advances every pair. -/

namespace Sys2Proof.Machine

theorem State.samplePeriod_bus {x : Tab 48 Sample} {s : State} (h : ∀ i a, (s.moves.get i).move ≠ .landing a 0) :
    (s.samplePeriod x).bus =
      s.bus.joined (allInputs.flatMap fun i => fadeWrites i (s.track i) ((s.samplePeriod x).track i)) := by
  have hbus : (s.stepped.formFrames x).bus = s.bus := by
    have hframe := State.landings_frame s.tick h
    rw [State.formFrames_bus, State.stepped, State.stepGates_bus, State.rampPairs_bus, State.takeMaps_bus]
    generalize s.tick.landings = v at hframe
    rw [hframe]
    rfl
  have hsame (i : Input) (y : MoveCtl × PhantomCtl) :
      fadeWrites i ((s.stepped.formFrames x).track i) y = fadeWrites i (s.track i) y := by
    rw [State.stepped_counted (h i)]
    simp only [fadeWrites, gainIssued_countDown, State.track]
  rw [(State.samplePeriod_fades x s).queued, hbus]
  simp only [hsame]

theorem State.samplePeriod_comm {x : Tab 48 Sample} {s : State} (h : ∀ i a, (s.moves.get i).move ≠ .landing a 0) :
    (s.samplePeriod x).comm = s.comm.tells ((allInputs.flatMap fun i => s.limitsTold (s.samplePeriod x) i) ++
      allInputs.flatMap fun i => fadeTold s.partyLanes i (s.track i) ((s.samplePeriod x).track i)) := by
  have hlanes : (s.stepped.formFrames x).partyLanes = s.partyLanes := by
    rw [State.partyLanes, State.partyLanes, State.formFrames_entries, State.stepped_entries]
  have hsame (i : Input) (y : MoveCtl × PhantomCtl) :
      fadeTold s.partyLanes i ((s.stepped.formFrames x).track i) y = fadeTold s.partyLanes i (s.track i) y := by
    rw [State.stepped_counted (h i)]
    simp only [fadeTold, State.track]
  rw [(State.samplePeriod_fades x s).told, State.stepped_comm h, Comm.tells_append, hlanes]
  simp only [hsame]

/-- A state that shares all but what a sample period changes. -/
theorem State.frame_of_rest {s t : State} (h1 : t.pending = s.pending) (h2 : t.rate = s.rate) (h3 : t.align = s.align)
    (h4 : t.rx = s.rx) (h5 : t.ports = s.ports) (h6 : t.entries = s.entries) (h7 : t.own = s.own)
    (h8 : t.restart = s.restart) (h9 : t.draws = s.draws) :
    t = { s with clock := t.clock, moves := t.moves, comm := t.comm, phantoms := t.phantoms, pairs := t.pairs,
                 bus := t.bus, streams := t.streams } := by
  rw [← h1, ← h2, ← h3, ← h4, ← h5, ← h6, ← h7, ← h8, ← h9]

theorem State.samplePeriod_frame (x : Tab 48 Sample) (s : State) : s.samplePeriod x =
    { s with clock := (s.samplePeriod x).clock, moves := (s.samplePeriod x).moves, comm := (s.samplePeriod x).comm,
             phantoms := (s.samplePeriod x).phantoms, pairs := (s.samplePeriod x).pairs, bus := (s.samplePeriod x).bus,
             streams := (s.samplePeriod x).streams } := by
  apply State.frame_of_rest <;> simp [State.samplePeriod_eq, State.stepped, State.tick]

theorem State.samplePeriod_clock (x : Tab 48 Sample) (s : State) : (s.samplePeriod x).clock = s.clock + s.rate.period := by
  simp [State.samplePeriod_eq, State.stepped, State.tick]

/-- What the boundary leaves of a pair where no move lands (R68). -/
theorem State.samplePeriod_pairKept {x : Tab 48 Sample} {s : State} {who : Party} {i : Input} {q : Pair}
    (hq : s.pair? who i = some q) (h : ∀ a, (s.moves.get i).move ≠ .landing a 0) :
    (s.samplePeriod x).pair? who i = some
      { q.period s.rate (s.moves.get i).status (s.analog i) with
        sat := s.satAfter x who i (q.period s.rate (s.moves.get i).status (s.analog i)) } := by
  obtain ⟨hpair, hmoves, _⟩ := (s.tick.landings_cells i).1 h
  have hq' : s.tick.landings.pair? who i = some q := (hpair who).trans hq
  have hstatus : (s.tick.landings.moves.get i).status = (s.moves.get i).status := by
    rw [hmoves, MoveCtl.countDown_frame]
    rfl
  have hanalog : s.tick.landings.analog i = s.analog i := by
    rw [State.analog, hmoves, MoveCtl.countDown_frame]
    rfl
  rw [State.samplePeriod_pair?, hq', Option.map_some, State.periodPair, hstatus, hanalog]

/-- Settles O9. -/
theorem samplePeriodAdvancesEveryPair : Obligations.SamplePeriodAdvancesEveryPair := by
  intro x s
  refine ⟨s.samplePeriod x, exec_samplePeriod x s, State.samplePeriod_clock x s, fun who i q hq hland => ?_,
    fun who i q' hq' => ?_, fun i a n h => State.samplePeriod_counts h, fun i a h => ?_, fun i hland => ?_,
    fun hland => ⟨?_, ?_⟩, State.samplePeriod_frame x s⟩
  · refine ⟨_, State.samplePeriod_pairKept hq hland, ?_⟩
    rw [Pair.period_frame]
    refine ⟨rfl, rfl, rfl, fun hrests => ?_, fun hr hs hp => ?_, fun hr hs hp => ?_, fun hd => ?_, fun hd => ?_,
      fun hd => ?_, ?_⟩
    · dsimp only
      rw [Pair.rampAdvance_rests hrests]
      exact ⟨rfl, rfl, rfl⟩
    · dsimp only
      rw [Pair.rampAdvance_waits hr hs hp]
      exact ⟨rfl, hr, rfl⟩
    · dsimp only
      rw [Pair.rampAdvance_steps hr hs hp]
      exact ⟨rfl, rfl, rfl⟩
    · dsimp only
      rw [Pair.gateStep_rests hd]
      exact ⟨rfl, rfl⟩
    · dsimp only
      rw [Pair.gateStep_closing hd]
      exact ⟨rfl, rfl⟩
    · dsimp only
      rw [Pair.gateStep_opening hd]
      exact ⟨rfl, rfl⟩
    · cases who <;> rfl
  · rw [State.samplePeriod_pair?] at hq'
    obtain ⟨q, _, rfl⟩ := Option.map_eq_some_iff.mp hq'
    rw [State.periodPair, Pair.period_frame]
  · rw [State.samplePeriod_setting]
    exact (s.tick.landings_cells i).2 a h
  · have hfade := State.samplePeriod_fade x s i hland
    have hsilent := State.samplePeriod_silent x s i
    have hopen := State.samplePeriod_open x s i
    generalize s.samplePeriod x = t at hfade hsilent hopen
    intro ph m faded risen
    have hout : faded ↔ ph.seq = .fadeOut ∧ (s.stepped.formFrames x).allSilent i = true :=
      and_congr_right' hsilent.symm
    have hin : risen ↔ ph.seq = .fadeIn ∧ (s.stepped.formFrames x).allOpen i = true :=
      and_congr_right' hopen.symm
    have hrisen (h : risen) := hfade.risen (hin.mp h).1 (hin.mp h).2
    refine ⟨fun h => ?_, fun h => congrArg Prod.snd (hrisen h), fun ho hi => ?_, fun b h hidle hb => ?_, fun hcount h => ?_⟩
    · exact congrArg Prod.snd (hfade.out (hout.mp h).1 (hout.mp h).2)
    · exact congrArg Prod.snd (hfade.rest (mt hout.mpr ho) (mt hin.mpr hi))
    · have hmove : m.countDown = m := MoveCtl.countDown_rests fun a n hx => by
        rw [hidle] at hx
        cases hx
      have hseq : (t.phantoms.get i).seq = .idle :=
        congrArg (fun y : MoveCtl × PhantomCtl => y.2.seq) (hrisen h)
      rw [← State.resumed_handTarget hidle hb hseq]
      exact (congrArg Prod.fst (hrisen h)).trans (congrArg MoveCtl.resumed hmove)
    · have hmove : m.countDown = m := MoveCtl.countDown_rests hcount
      by_cases hr : risen
      · exact (congrArg Prod.fst (hrisen hr)).trans ((congrArg MoveCtl.resumed hmove).trans (MoveCtl.resumed_none (h hr)))
      by_cases ho : faded
      · exact (congrArg Prod.fst (hfade.out (hout.mp ho).1 (hout.mp ho).2)).trans hmove
      · exact (congrArg Prod.fst (hfade.rest (mt hout.mpr ho) (mt hin.mpr hr))).trans hmove
  · exact State.samplePeriod_bus hland
  · exact State.samplePeriod_comm hland

end Sys2Proof.Machine
end

section
/-! PROOF. KEEP_EXPIRY: a consumer's inputs are handed on, and its entry is freed. -/

namespace Sys2Proof.Machine

/-! ## Pursuing a level, input by input -/

theorem State.pursue_queue (s : State) (i : Input) (level : Option Int) (pad : Bool) : (s.pursue i level pad).2 =
    s.bus.joined (gainIssued i (s.moves.get i) ((s.pursue i level pad).1.get i)) := by
  cases level with
  | none => exact ((congrArg s.bus.joined (gainIssued_self ..)).trans (Bus.joined_nil _)).symm
  | some g => exact State.handTarget_queue ..

theorem State.pursue_others (s : State) {i j : Input} (h : j ≠ i) (level : Option Int) (pad : Bool) :
    (s.pursue i level pad).1.get j = s.moves.get j := by
  cases level with
  | none => rfl
  | some g => exact Tab.get_set_ne _ h _

theorem State.pursue_congr {s u : State} {i : Input} (hm : u.moves.get i = s.moves.get i) (hp : u.phantoms = s.phantoms)
    (level : Option Int) (pad : Bool) : (u.pursue i level pad).1.get i = (s.pursue i level pad).1.get i := by
  cases level with
  | none => exact hm
  | some g => simp only [State.pursue, State.handTarget, State.holds, Tab.get_set_self, hm, hp]

/-! ## One input's turn -/

/-- An input's owner, move and panel pair. -/
def State.hold (s : State) (i : Input) : Ownership × MoveCtl × Pair := (s.own.get i, s.moves.get i, s.pairs.panel.get i)

/-- What is told of an input that is handed on, with the owners and lanes of `s` (R8, R53, R54, R57). -/
def State.handTold (k : Seat) (s : State) (i : Input) (x y : Ownership × MoveCtl × Pair) : List Event :=
  if x.1.owner = some (.consumer k) then
    (if x.1.lock then limitTold [.panel] i x.2.1.setting.value x.2.2 y.2.2 else []) ++
      [s.ownerTold i y.1.owner x.1.owner y.1.waiting.length]
  else []

/-- What becomes of an input of a consumer that is erased, from what it holds (R53, R54). -/
structure State.handsOn (k : Seat) (s : State) (i : Input) (y : Ownership × MoveCtl × Pair) : Prop where
  kept : (s.own.get i).owner ≠ some (.consumer k) → y = s.hold i
  passed : (s.own.get i).owner = some (.consumer k) → (s.own.get i).lock = false →
    y.2 = ((s.pursue i (s.levelOfOwner (s.own.get i).waiting.head? i) (s.own.get i).padChoice).1.get i, s.pairs.panel.get i)
  locked : (s.own.get i).owner = some (.consumer k) → (s.own.get i).lock = true →
    y.2 = ((s.pursue i (s.levelOf (.consumer k) i) (s.own.get i).padChoice).1.get i,
      Pair.storeLevel (s.moves.get i).status (s.analog i) (s.levelOf (.consumer k) i) (s.pairs.panel.get i))

/-- One input's part of an erasure (R53). -/
structure State.handTurn (k : Seat) (s : State) (i : Input) (t : State) : Prop where
  own : s.handsOn k i (t.hold i)
  others : ∀ j, j ≠ i → t.hold j = s.hold j
  queued : t.bus = s.bus.joined (gainIssued i (s.moves.get i) (t.moves.get i))
  told : t.comm = s.comm.tells (s.handTold k i (s.hold i) (t.hold i))
  frame : t = { s with pairs := { s.pairs with panel := t.pairs.panel }, own := t.own, moves := t.moves, bus := t.bus,
                       comm := t.comm }

/-- A change of an input's owner, from its own cells. -/
structure State.ownerTurn (i : Input) (who : Option Party) (s t : State) : Prop where
  moves : t.moves.get i = (s.pursue i (s.levelOfOwner who i) (s.own.get i).padChoice).1.get i
  others : ∀ j, j ≠ i → t.moves.get j = s.moves.get j
  queued : t.bus = s.bus.joined (gainIssued i (s.moves.get i) (t.moves.get i))
  frame : t = { s with
    own := s.own.modify i (Ownership.give who)
    moves := t.moves
    bus := t.bus
    comm := s.comm.tells [s.ownerTold i who (s.own.get i).owner (Ownership.give who (s.own.get i)).waiting.length] }

theorem State.changeOwner_turn (i : Input) (who : Option Party) (s : State) : s.ownerTurn i who (s.changeOwner i who) := by
  have hpursue := State.changeOwner_pursue i who s
  have hframe := State.changeOwner_frame i who s
  generalize s.changeOwner i who = t at hpursue hframe
  have hmoves : t.moves = (s.pursue i (s.levelOfOwner who i) (s.own.get i).padChoice).1 := congrArg Prod.fst hpursue
  have hbus : t.bus = (s.pursue i (s.levelOfOwner who i) (s.own.get i).padChoice).2 := congrArg Prod.snd hpursue
  refine ⟨by rw [hmoves], fun j hj => by rw [hmoves, State.pursue_others s hj], ?_, hframe⟩
  rw [hbus, hmoves, State.pursue_queue]

/-- The state of an input that is locked, its panel pair holding the erased consumer's level (R54). -/
def State.levelKept (k : Seat) (i : Input) (s : State) : State :=
  s.updatePair .panel i (Pair.storeLevel (s.moves.get i).status (s.analog i) (s.levelOf (.consumer k) i))

theorem State.handOn_passed {k : Seat} {i : Input} {s : State} (h : (s.own.get i).owner = some (.consumer k))
    (hl : (s.own.get i).lock = false) : s.handOn k i = s.changeOwner i (s.own.get i).waiting.head? := by
  rw [State.handOn, if_pos h, if_neg (by rw [hl]; nofun), State.passOn]

theorem State.handOn_locked {k : Seat} {i : Input} {s : State} (h : (s.own.get i).owner = some (.consumer k))
    (hl : (s.own.get i).lock = true) : s.handOn k i = (s.levelKept k i).changeOwner i (some .panel) := by
  rw [State.handOn, if_pos h, if_pos hl]
  rfl

theorem State.handOn_kept {k : Seat} {i : Input} {s : State} (h : (s.own.get i).owner ≠ some (.consumer k)) :
    s.handOn k i = s := by
  rw [State.handOn, if_neg h]

theorem State.handTold_kept {k : Seat} {s : State} {i : Input} {x : Ownership × MoveCtl × Pair}
    (h : x.1.owner ≠ some (.consumer k)) (y : Ownership × MoveCtl × Pair) : s.handTold k i x y = [] := by
  rw [State.handTold, if_neg h]

theorem State.handTold_passed {k : Seat} {s : State} {i : Input} {x : Ownership × MoveCtl × Pair}
    (h : x.1.owner = some (.consumer k)) (hl : x.1.lock = false) (y : Ownership × MoveCtl × Pair) :
    s.handTold k i x y = [s.ownerTold i y.1.owner x.1.owner y.1.waiting.length] := by
  rw [State.handTold, if_pos h, if_neg (by rw [hl]; nofun), List.nil_append]

theorem State.handTold_locked {k : Seat} {s : State} {i : Input} {x : Ownership × MoveCtl × Pair}
    (h : x.1.owner = some (.consumer k)) (hl : x.1.lock = true) (y : Ownership × MoveCtl × Pair) :
    s.handTold k i x y = limitTold [.panel] i x.2.1.setting.value x.2.2 y.2.2 ++
      [s.ownerTold i y.1.owner x.1.owner y.1.waiting.length] := by
  rw [State.handTold, if_pos h, if_pos hl]

/-- What an owner's change keeps of the other inputs. -/
theorem State.ownerTurn.hold_others {i : Input} {who : Option Party} {s t : State} (h : s.ownerTurn i who t) {j : Input}
    (hj : j ≠ i) : t.hold j = s.hold j := by
  have hframe := h.frame
  have hpairs : t.pairs = s.pairs := by rw [hframe]
  refine Prod.ext ?_ (Prod.ext (h.others j hj) ?_)
  · exact (congrArg (fun u : State => u.own.get j) hframe).trans (Tab.get_modify_ne _ hj _)
  · exact congrArg (fun ps : PairStore => ps.panel.get j) hpairs

theorem State.ownerTurn.hold_self {i : Input} {who : Option Party} {s t : State} (h : s.ownerTurn i who t) :
    t.hold i = (Ownership.give who (s.own.get i),
      (s.pursue i (s.levelOfOwner who i) (s.own.get i).padChoice).1.get i, s.pairs.panel.get i) := by
  have hframe := h.frame
  have hpairs : t.pairs = s.pairs := by rw [hframe]
  refine Prod.ext ?_ (Prod.ext h.moves ?_)
  · exact (congrArg (fun u : State => u.own.get i) hframe).trans (Tab.get_modify_self ..)
  · exact congrArg (fun ps : PairStore => ps.panel.get i) hpairs

theorem State.handTurn_passed {k : Seat} {i : Input} {s t : State} (h : (s.own.get i).owner = some (.consumer k))
    (hl : (s.own.get i).lock = false) (ht : s.ownerTurn i (s.own.get i).waiting.head? t) : s.handTurn k i t := by
  have hself := ht.hold_self
  have hframe := ht.frame
  refine ⟨⟨fun hx => absurd h hx, fun _ _ => congrArg Prod.snd hself, fun _ hx => ?_⟩, fun j hj => ht.hold_others hj,
    ht.queued, ?_, ?_⟩
  · rw [hl] at hx
    cases hx
  · rw [hself, State.handTold_passed (x := s.hold i) h hl]
    exact congrArg State.comm hframe
  · rw [hframe]

/-- The state of an input that is locked, once the panel's pair holds the level. -/
theorem State.levelKept_level (k : Seat) (i : Input) (s : State) :
    (s.levelKept k i).levelOfOwner (some .panel) i = s.levelOf (.consumer k) i := by
  rw [State.levelOfOwner, State.levelOf, State.levelKept, State.pair?_updatePair, if_pos ⟨rfl, rfl⟩]
  show (Pair.storeLevel _ _ _ _).level = _
  cases (s.moves.get i).status <;> rfl

theorem State.levelKept_comm (k : Seat) (i : Input) (s : State) : (s.levelKept k i).comm =
    s.comm.tells (limitTold [.panel] i (s.analog i) (s.pairs.panel.get i)
      (Pair.storeLevel (s.moves.get i).status (s.analog i) (s.levelOf (.consumer k) i) (s.pairs.panel.get i))) :=
  State.updatePair_comm .panel i _ s _ rfl

theorem State.handTurn_locked {k : Seat} {i : Input} {s t : State} (h : (s.own.get i).owner = some (.consumer k))
    (hl : (s.own.get i).lock = true) (ht : (s.levelKept k i).ownerTurn i (some .panel) t) : s.handTurn k i t := by
  have hpanel : (s.levelKept k i).pairs.panel = s.pairs.panel.modify i
      (Pair.storeLevel (s.moves.get i).status (s.analog i) (s.levelOf (.consumer k) i)) := rfl
  have hself := ht.hold_self
  have hframe := ht.frame
  rw [State.levelKept_level, hpanel, Tab.get_modify_self] at hself
  have hpursue := State.pursue_congr (s := s) (u := s.levelKept k i) (i := i) rfl rfl (s.levelOf (.consumer k) i)
    (s.own.get i).padChoice
  refine ⟨⟨fun hx => absurd h hx, fun _ hx => ?_, fun _ _ => ?_⟩, fun j hj => (ht.hold_others hj).trans ?_,
    ht.queued, ?_, ?_⟩
  · rw [hl] at hx
    cases hx
  · exact (congrArg Prod.snd hself).trans (congrArg (fun m => (m, _)) hpursue)
  · refine Prod.ext rfl (Prod.ext rfl ?_)
    exact (congrArg (·.get j) hpanel).trans (Tab.get_modify_ne _ hj _)
  · rw [hself, State.handTold_locked (x := s.hold i) h hl, Comm.tells_append]
    refine (congrArg State.comm hframe).trans ?_
    exact congrArg (Comm.tells _) (s.levelKept_comm k i)
  · rw [hframe]
    rfl

theorem State.handOn_turn (k : Seat) (s : State) (i : Input) : s.handTurn k i (s.handOn k i) := by
  by_cases h : (s.own.get i).owner = some (.consumer k)
  · cases hl : (s.own.get i).lock with
    | false =>
      rw [State.handOn_passed h hl]
      exact State.handTurn_passed h hl (State.changeOwner_turn ..)
    | true =>
      rw [State.handOn_locked h hl]
      exact State.handTurn_locked h hl (State.changeOwner_turn ..)
  · rw [State.handOn_kept h]
    refine ⟨⟨fun _ => rfl, fun hx => absurd hx h, fun hx => absurd hx h⟩, fun _ _ => rfl, ?_, ?_, rfl⟩
    · rw [gainIssued_self, Bus.joined_nil]
    · rw [State.handTold_kept h]
      rfl

/-! ## The erasure as a whole -/

/-- All inputs of a consumer handed on, before its entry is freed (R53). -/
def State.allHandedOn (k : Seat) (s : State) : State := allInputs.foldl (fun acc i => acc.handOn k i) s

theorem State.erase_handedOn (k : Seat) (s : State) : s.erase k = { s.allHandedOn k with
    pairs := { (s.allHandedOn k).pairs with seats := (s.allHandedOn k).pairs.seats.set k none }
    entries := (s.allHandedOn k).entries.set k none } := by
  unfold State.erase State.allHandedOn
  dsimp only

/-- What the turns of the other inputs keep of what an input's turn goes by. -/
def State.sameParties (s u : State) : Prop :=
  u.entries = s.entries ∧ u.pairs.seats = s.pairs.seats ∧ u.phantoms = s.phantoms

theorem State.handOn_sameParties {s u : State} (k : Seat) (i : Input) (h : s.sameParties u) :
    s.sameParties (u.handOn k i) := by
  obtain ⟨hentries, hseats, hphantoms⟩ := h
  have hframe := (u.handOn_turn k i).frame
  generalize u.handOn k i = t at hframe
  exact ⟨(congrArg State.entries hframe).trans hentries,
    (congrArg (fun t : State => t.pairs.seats) hframe).trans hseats, (congrArg State.phantoms hframe).trans hphantoms⟩

theorem State.levelOf_congr {s u : State} {i : Input} (h : s.sameParties u) (hi : u.hold i = s.hold i) (who : Party) :
    u.levelOf who i = s.levelOf who i := by
  have hpair : u.pair? who i = s.pair? who i := by
    cases who with
    | panel => exact congrArg (fun x => some x.2.2) hi
    | consumer k => exact congrArg (fun t : Tab 6 (Option (Tab 48 Pair)) => (t.get k).map (·.get i)) h.2.1
  rw [State.levelOf, State.levelOf, hpair]

/-- What becomes of an input goes by its own cells and the parties (R53). -/
theorem State.handsOn.transfer {k : Seat} {s u : State} {i : Input} {y : Ownership × MoveCtl × Pair}
    (h : u.handsOn k i y) (hu : s.sameParties u) (hi : u.hold i = s.hold i) : s.handsOn k i y := by
  have hown : u.own.get i = s.own.get i := congrArg Prod.fst hi
  have hmove : u.moves.get i = s.moves.get i := congrArg (fun x => x.2.1) hi
  have hpanel : u.pairs.panel.get i = s.pairs.panel.get i := congrArg (fun x => x.2.2) hi
  have hanalog : u.analog i = s.analog i := congrArg (fun m : MoveCtl => m.setting.value) hmove
  have hlevel (who : Option Party) : u.levelOfOwner who i = s.levelOfOwner who i := by
    cases who with
    | none => rfl
    | some who => exact State.levelOf_congr hu hi who
  obtain ⟨hkept, hpassed, hlocked⟩ := h
  rw [hown] at hkept hpassed hlocked
  refine ⟨fun ho => (hkept ho).trans hi, fun ho hl => ?_, fun ho hl => ?_⟩
  · rw [hpassed ho hl, State.pursue_congr hmove hu.2.2, hlevel, hpanel]
  · rw [hlocked ho hl, State.pursue_congr hmove hu.2.2, State.levelOf_congr hu hi, hpanel, hmove, hanalog]

theorem State.handTold_congr {k : Seat} {s u : State} (h : s.sameParties u) (i : Input) (x y : Ownership × MoveCtl × Pair) :
    u.handTold k i x y = s.handTold k i x y := by
  have htold (now before : Option Party) (n : Nat) : u.ownerTold i now before n = s.ownerTold i now before n := by
    unfold State.ownerTold State.partyLanes State.ownerCode State.identityOf
    rw [h.1]
  rw [State.handTold, State.handTold, htold]

/-- The inputs of a consumer, handed on (R53, R54, R57). -/
structure State.inputsHandedOn (k : Seat) (s t : State) : Prop where
  each : ∀ i, s.handsOn k i (t.hold i)
  queued : t.bus = s.bus.joined (allInputs.flatMap fun i => gainIssued i (s.moves.get i) (t.moves.get i))
  told : t.comm = s.comm.tells (allInputs.flatMap fun i => s.handTold k i (s.hold i) (t.hold i))
  seats : t.pairs.seats = s.pairs.seats

theorem State.allHandedOn_ended (k : Seat) (s : State) : s.inputsHandedOn k (s.allHandedOn k) := by
  have hP (u : State) (i : Input) (h : s.sameParties u) : s.sameParties (u.handOn k i) := State.handOn_sameParties k i h
  have hother (u : State) (i j : Input) (_ : s.sameParties u) (hj : j ≠ i) : (u.handOn k i).hold j = u.hold j :=
    (u.handOn_turn k i).others j hj
  have hs : s.sameParties s := ⟨rfl, rfl, rfl⟩
  have hnodup : allInputs.Nodup := List.nodup_finRange 48
  rw [State.allHandedOn]
  refine ⟨fun i => ?_, ?_, ?_, ?_⟩
  · have hmem : i ∈ allInputs := List.mem_finRange i
    have hcells := foldl_cells (fun acc i => State.handOn k i acc) State.hold s.sameParties
      (fun i x y => x = s.hold i → s.handsOn k i y) hP
      (fun u j hu heq => (u.handOn_turn k j).own.transfer hu heq) hother allInputs hnodup s hs
    exact hcells.1 i hmem rfl
  · exact foldl_logged (fun acc i => State.handOn k i acc) State.hold s.sameParties State.bus Bus.joined
      (fun i x y => gainIssued i x.2.1 y.2.1) Bus.joined_nil Bus.joined_append hP
      (fun u j _ => (u.handOn_turn k j).queued) hother allInputs hnodup s hs
  · refine foldl_logged (fun acc i => State.handOn k i acc) State.hold s.sameParties State.comm
      (fun c es => c.tells es) (s.handTold k) (fun _ => rfl) Comm.tells_append hP (fun u j hu => ?_) hother allInputs hnodup
      s hs
    rw [← State.handTold_congr hu]
    exact (u.handOn_turn k j).told
  · exact (foldl_inv (fun acc i => State.handOn k i acc) s.sameParties hP allInputs s hs).2.1

/-- What an erasure leaves of the inputs, the bus and the lanes (R53, R54, R57). -/
theorem State.erase_ended (k : Seat) (s : State) : (∀ i, s.handsOn k i ((s.erase k).hold i)) ∧
    (s.erase k).bus = s.bus.joined (allInputs.flatMap fun i => gainIssued i (s.moves.get i) ((s.erase k).moves.get i)) ∧
    (s.erase k).comm = s.comm.tells (allInputs.flatMap fun i => s.handTold k i (s.hold i) ((s.erase k).hold i)) ∧
    (s.erase k).pairs.seats = s.pairs.seats.set k none := by
  have h := s.allHandedOn_ended k
  rw [State.erase_handedOn]
  generalize s.allHandedOn k = t at h
  exact ⟨h.each, h.queued, h.told, congrArg (fun seats => Tab.set seats k none) h.seats⟩

theorem State.erase_frame (k : Seat) (s : State) : s.erase k =
    { s with entries := (s.erase k).entries, pairs := (s.erase k).pairs, own := (s.erase k).own,
             moves := (s.erase k).moves, bus := (s.erase k).bus, comm := (s.erase k).comm } := by
  have hrest : (s.erase k).pending = s.pending ∧ (s.erase k).rate = s.rate ∧ (s.erase k).align = s.align ∧
      (s.erase k).rx = s.rx ∧ (s.erase k).ports = s.ports ∧ (s.erase k).streams = s.streams ∧
      (s.erase k).phantoms = s.phantoms ∧ (s.erase k).restart = s.restart ∧ (s.erase k).clock = s.clock ∧
      (s.erase k).draws = s.draws := by simp
  generalize s.erase k = t at hrest
  obtain ⟨h1, h2, h3, h4, h5, h6, h7, h8, h9, h10⟩ := hrest
  rw [← h1, ← h2, ← h3, ← h4, ← h5, ← h6, ← h7, ← h8, ← h9, ← h10]

theorem gainIssued_toList (i : Input) (m m' : MoveCtl) : gainIssued i m m' =
    (match m.move, m'.move with
      | .idle, .queued a => some (QueueEntry.write (.gain i a.pad a.p))
      | _, _ => none).toList := by
  unfold gainIssued
  cases m.move with
  | idle => cases m'.move <;> rfl
  | queued _ | onWire _ | landing _ _ => rfl

theorem Ownership.handed_passed {k : Seat} {o : Ownership} (h : o.owner = some (.consumer k)) (hl : o.lock = false)
    (hok : o.ok) : o.handed k = { o with owner := o.waiting.head?, waiting := o.waiting.tail } := by
  rw [Ownership.handed, if_pos h, if_neg (by rw [hl]; nofun), ← Ownership.give_head hok.1]
  rfl

theorem Ownership.handed_locked {k : Seat} {o : Ownership} (h : o.owner = some (.consumer k)) (hl : o.lock = true) :
    o.handed k = { o with owner := some .panel, waiting := o.waiting.filter (· != .panel) } := by
  rw [Ownership.handed, if_pos h, if_pos hl]
  rfl

theorem Pair.storeLevel_frame (status : AnalogStatus) (a : Int) (level : Option Int) (q : Pair) :
    Pair.storeLevel status a level q = { q with
      level := level, target := (Pair.storeLevel status a level q).target
      trimState := (Pair.storeLevel status a level q).trimState, phase := (Pair.storeLevel status a level q).phase
      stepped := (Pair.storeLevel status a level q).stepped } := by
  cases status <;> rfl

/-- Settles O17. -/
theorem keepExpiryErasesTheConsumer : Obligations.KeepExpiryErasesTheConsumer := by
  intro k c s hc hkeep hok
  have hexec := exec_keepExpiry hc hkeep
  have hentries := s.erase_entries k
  have hown := s.erase_own k
  have hframe := s.erase_frame k
  obtain ⟨heach, hbus, hcomm, hseats⟩ := s.erase_ended k
  generalize s.erase k = t at hexec hentries hown hframe heach hbus hcomm hseats
  refine ⟨t, hexec, ?_⟩
  intro owned
  refine ⟨hentries, hseats, fun i ho => ?_, fun i ho hl => ?_, fun i ho hl => ?_, ?_, hcomm, hframe⟩
  · have hkept := (heach i).kept ho
    exact ⟨congrArg Prod.fst hkept, congrArg (fun x => x.2.1) hkept, congrArg (fun x => x.2.2) hkept⟩
  · have hpassed := (heach i).passed ho hl
    exact ⟨(hown i).trans (Ownership.handed_passed ho hl (hok i)), congrArg Prod.snd hpassed, congrArg Prod.fst hpassed⟩
  · intro level q q'
    have hlocked := (heach i).locked ho hl
    have hq' : q' = Pair.storeLevel (s.moves.get i).status (s.analog i) level q := congrArg Prod.snd hlocked
    refine ⟨(hown i).trans (Ownership.handed_locked ho hl), congrArg Prod.fst hlocked, ?_, fun hs => ?_, fun hs => ?_⟩
    · rw [hq']
      exact Pair.storeLevel_frame ..
    · rw [hq', hs]
      exact Pair.storeLevel_known ..
    · rw [hq', hs]
      exact Pair.storeLevel_uncertain ..
  · rw [hbus, List.filterMap_eq_flatMap_toList]
    simp only [gainIssued_toList] <;> rfl

end Sys2Proof.Machine
end
